-- ==== Sys2Proof/Word.lean ====
section
/-! DEFINITION. The word types of the device (R3: a word is 64 bits, multi-byte values are little-endian) and the
type of a sparse table: a list of (key, value) pairs whose keys rise strictly and which lists no default value. -/

namespace Sys2Proof

/-- A byte of memory. -/
abbrev Byte := BitVec 8

/-- A 64-bit word (R3). -/
abbrev W64 := BitVec 64

/-- A sparse table keyed by numbers: strictly rising keys, no entry equal to the table's default value. -/
abbrev Table (α : Type) := List (Nat × α)

/-- Who issues a Xichai instruction: core `c` (hub × 16 + core, R250), or group processor `g` of logical tile `t`. -/
inductive Agent where
  | core (c : Nat)
  | gp (t g : Nat)
deriving DecidableEq, Repr

/-- The path by which a command, a register access or a datagram reaches the device (R478): host port 0 or 1, or the
management Ethernet jack. -/
inductive Path where
  | port (p : Nat)
  | eth
deriving DecidableEq, Repr

/-- Whose transfer a transfer tile belongs to: a scheduled record of mover `m` of logical tile `t` (R334), the copy
command of queue `q` (R345), or transfer `x` of a run that leaves the partition (R88). -/
inductive Job where
  | sched (t m : Nat)
  | cmd (q : Nat)
  | run (x : Nat)
deriving DecidableEq, Repr

/-- The claim of a step (R106): masks over logical tiles, stacks, ridges, hubs and dark phases. -/
structure Claim where
  tiles : Nat
  mstacks : Nat
  ridges : Nat
  llm : Nat
  dark : Nat
deriving DecidableEq, Repr

/-- What a step gives one logical tile: the START mask, the work-descriptor offset of each of the 28 engine units
(R52), the positions each started unit is allotted (R103), the node of the play each unit works for (R75), and the entry's
slot-run records (R53). -/
structure TileEntry where
  tile : Nat
  start : Nat
  desc : List Nat
  span : List Nat
  nodes : List Nat
  runs : List W64
deriving DecidableEq, Repr

/-- What a step gives one hub: its slot-run records (R53, R106). -/
structure HubEntry where
  hub : Nat
  runs : List W64
deriving DecidableEq, Repr

/-- One step of a script: its claim, its tile and hub entries, and whether it continues the chain of the step before (R107). -/
structure PlanStep where
  claim : Claim
  entries : List TileEntry
  hubs : List HubEntry
  chain : Bool
deriving DecidableEq, Repr

/-- How the elements of a weight record of a VXE list stand in their tensor: the list's tile and offset, the record's number,
the linear index of its first element, and what one index of each loop level adds (R79, R186, R188). -/
structure LinearMap where
  tile : Nat
  desc : Nat
  record : Nat
  base : Nat
  mult : List Nat
deriving DecidableEq, Repr

/-- What a record of a work list is for its node (R104, R181): the list's tile and offset, the record's number; for a MATMUL the
first row, column and batch of the block, for a reduction the first output in `m`; the chunks of the sum, the first and how many. -/
structure Piece where
  tile : Nat
  desc : Nat
  record : Nat
  m : Nat
  n : Nat
  b : Nat
  lo : Nat
  len : Nat
deriving DecidableEq, Repr

/-- What the prompter decides for a play and results do not depend on (R93): the steps, the script's region of each tile's
store (logical tile, first byte, length), the bytes written there at load (logical tile, offset, bytes), the stacks chosen for
EXTERNAL tensors (R283), the page moves (virtual page, new physical page, R99), the house granules given to the script, the
places of INTERNAL tensors (tensor, then physical pieces of its elements and scales in order, R101), the places of weight records
in their tensors, and those of the records of sums in their nodes. -/
structure Plan where
  steps : List PlanStep
  regions : List (Nat × Nat × Nat)
  image : List (Nat × Nat × List Byte)
  targets : List (Nat × List Nat)
  moves : List (Nat × Nat)
  granules : List Nat
  places : List (Nat × List (Nat × Nat))
  linear : List LinearMap
  pieces : List Piece
deriving DecidableEq, Repr

/-- What the environment shows at a training: the truss links where something goes wrong (3: deskew fails; 4, 5: the end named
first in R21, or the other, is not reached by the house and keeps its old record; R29, R30), and the (stack, channel) pairs with the mask of lanes that fail (R291, R292). -/
structure Training where
  links : List (Nat × Nat)
  lanes : List (Nat × Nat × Nat)
deriving DecidableEq, Repr

end Sys2Proof
end

