-- ==== Sys2Proof/Syntax.lean ====
section
/-! DEFINITION. The commands of the block: one constructor per row of the opcode table. The operands name the unit,
queue, partition, link or agent a step concerns and carry what comes from outside the device (packets, data, physical
outcomes) or what the spec leaves to the device's own choice (plans, granules taken, transfer numbers). -/

namespace Sys2Proof

/-- The commands (rows of the opcode table). -/
inductive Instr where
  /-- CUE_BOUNDARY (R44): At each cue boundary the cue counter increments, the verdict and any step change formed in the previous cue are applied, and truss slot 0 and memory window 0 begin. -/
  | cueBoundary
  /-- CALL_POINT (R44): At cycle 3,968 each engine unit reports its work as done or late, and each tile with late work sets LATE. -/
  | callPoint
  /-- HOUSE_CYCLE_BOUNDARY (R40): When the cue counter reaches a multiple of 2^20, the error counts of the house cycle are checked and reset. -/
  | houseCycleBoundary
  /-- IDLE_TICK (R42): While the cue counter is stopped, every 128 WCLK periods the callboard is sampled, heartbeats are exchanged, hold counts advance and wardens report. -/
  | idleTick
  /-- STALL_WATCHDOG (R57): After 256 consecutive hold cues of one entry, non-debug contexts with late work are lost with GROUP_STALL, or the partition advances. -/
  | stallWatchdog (p : Nat)
  /-- PARTITION_IDLE (R455): After 1,024 cues of empty entries with no command started, the partition enters IDLE and ACLK is gated in its bays. -/
  | partitionIdle (p : Nat)
  /-- COMPOSE_POSITION (R109): The composer fixes a new running-order position by walking the run list and writes its entries into the cue programs. -/
  | composePosition (p : Nat)
  /-- RUN_COMPLETE (R113): A run completes once its last step has left force and its outbound transfers are delivered or dropped, and its record is written. -/
  | runComplete (p : Nat) (run : Nat)
  /-- CONTEXT_LOSS (R373): At the boundary after a context-fatal event the context becomes LOST and its commands complete with the fault status or CONTEXT_LOST. -/
  | contextLoss (c : Nat)
  /-- WARDEN_ESTIMATE (R438): A warden's energy estimate for a cue reaches the house for the power laws and energy attribution. -/
  | wardenEstimate (die : Nat) (counts : List Nat) (temps : List Int)
  /-- FULL_LOAD_PERIOD_END (R439): After its first 64 cues a newly powered die reports from its counters instead of its full-load figure. -/
  | fullLoadPeriodEnd (die : Nat)
  /-- STEP_DOWN_DECISION (R447): After 8 consecutive over cues the house decides one step down, of ACLK or else PCLK. -/
  | stepDownDecision
  /-- STEP_UP_DECISION (R447): After 1,024 consecutive under cues the house decides one step up, of PCLK first and then ACLK. -/
  | stepUpDecision
  /-- DVFS_STEP_CHANGE (R60): At the second boundary after a decision every die switches to the idle PLL locked at the new ACLK step, with voltages trimmed around it. -/
  | dvfsStepChange
  /-- PCLK_STEP_CHANGE (R446): A PCLK step change takes effect at a boundary, pausing the cores for up to 10 µs. -/
  | pclkStepChange
  /-- DILUTION_RISE (R451): After 8 consecutive cues over its cap, the partition's dilution level rises by one. -/
  | dilutionRise (p : Nat)
  /-- DILUTION_FALL (R451): After 1,024 consecutive cues at most 95 % of its cap, the partition's dilution level falls by one. -/
  | dilutionFall (p : Nat)
  /-- IDLE_CUE_PENDING (R451): After 8 − L advance cues an idle cue becomes pending for the partition. -/
  | idleCuePending (p : Nat)
  /-- SHED_ASSERT (R450): Assertion of the shed input cancels pending changes, decides step 0 for ACLK and PCLK and suspends the law. -/
  | shedAssert
  /-- SHED_RELEASE (R450): Release of the shed input resumes the module law with the steps left at 0. -/
  | shedRelease
  /-- FLOW_LOW (R436): Coolant flow below 6 L/min sets FLOW_LOW and acts as shed. -/
  | flowLow (tenths : Nat)
  /-- FLOW_RESTORED (R436): Coolant flow above 8 L/min clears FLOW_LOW and resumes the law. -/
  | flowRestored (tenths : Nat)
  /-- THERMAL_TRIP (R452): A die reaching 115 °C has power removed by hardware within 50 µs, with its dependants taken out of service at the next boundary. -/
  | thermalTrip (die : Nat) (celsius : Nat)
  /-- TRIP_RECHECK (R452): 1 ms after a hub or stack trip, a die still at 115 °C or above is failed. -/
  | tripRecheck (die : Nat) (celsius : Nat)
  /-- FLIT_RETRY (R23): A flit with a CRC error or sequence gap is discarded and resent go-back-N from the first bad sequence number. -/
  | flitRetry (link : Nat) (dir : Nat) (data : BitVec 1024) (err : BitVec 1064) (back : Bool)
  /-- TRUSS_LINK_FAILURE (R26): A failed truss link takes effect: the tile goes out of service, or joist or ridge work is lost at the next boundary. -/
  | trussLinkFailure (link : Nat)
  /-- TILE_OUT_OF_SERVICE (R27): At the next boundary after a tile leaves service, its entries become empty and the contexts that depend on it are lost with TILE_LOST. -/
  | tileOutOfService (pos : Nat)
  /-- HUB_FAILURE (R31): A failed hub takes its bay out of service and resets the partition that owns the bay. -/
  | hubFailure (h : Nat)
  /-- FOH_FAILOVER (R34): After 16 missed heartbeats an FOH is declared failed, and the survivor becomes primary and loses the failed port. -/
  | fohFailover (f : Nat)
  /-- MIRROR_LINK_DOWN (R34): Loss of the mirror link moves mirroring and heartbeats onto the truss. -/
  | mirrorLinkDown
  /-- PARTITION_RESET (R19): A partition reset loses the contexts, substitutes understudies, applies repairs, clears caches and scratchpad, and leaves reset. -/
  | partitionReset (p : Nat) (tr : Training)
  /-- COLD_RESET (R497): Busbar power good starts the cold reset sequence from boot ROM to partitions leaving reset. -/
  | coldReset (tr : Training)
  /-- DEVICE_RESET (R495): A device reset runs the boot and bring-up steps again, with all contexts becoming FREE. -/
  | deviceReset (tr : Training)
  /-- DEVICE_READY (R497): When every partition of the flash table has left reset, DEVICE_STATUS.READY is set and waiting commands may start. -/
  | deviceReady
  /-- SIG_INDEX_RESERVE (R470): The primary reserves a block of 4,096 identity-key signature indices through the authenticated store. -/
  | sigIndexReserve (stored : Bool)
  /-- NOP (R387): The NOP command has no effect and completes at the next boundary. -/
  | nop (q : Nat)
  /-- FENCE_SIGNAL (R389): A home atomic raises the fence to max(current, VALUE), or completes FENCE_STALE. -/
  | fenceSignal (q : Nat)
  /-- FENCE_WAIT (R390): A wait begins polling a fence until it reaches TARGET. -/
  | fenceWait (q : Nat)
  /-- FENCE_WAIT_READ (R390): Each cue the wait reads the fence, and completes at the next boundary once the value is TARGET or more. -/
  | fenceWaitRead (q : Nat)
  /-- ORDER (R387): The next write to the context's port is issued without Relaxed Ordering, after every earlier write. -/
  | order (q : Nat)
  /-- COPY (R391): A copy command starts on a mover chosen by queue number and moves its byte stream in the house share. -/
  | copy (q : Nat)
  /-- FILL (R391): A copy command writes a repeated 64-bit pattern to the destination. -/
  | fill (q : Nat)
  /-- COPY_CHECKED (R347): A copy command moves the stream through the check unit, computing, appending or verifying a CRC. -/
  | copyChecked (q : Nat)
  /-- COPY_COMPLETE (R391): A copy command completes at the boundary after its last write and check value are performed. -/
  | copyComplete (q : Nat)
  /-- PLAY_LOAD (R94): A play is validated, planned, allocated, its pages moved and its script written to the script store. -/
  | playLoad (q : Nat) (plan : Plan)
  /-- PLAY_RUN (R112): A run of a resident script joins the partition's run list. -/
  | playRun (q : Nat)
  /-- PLAY_UNLOAD (R117): The handle is unloaded, freeing the script after its runs on the list complete. -/
  | playUnload (q : Nat)
  /-- MAP (R393): Pages of the context are mapped to new memory, an object, a host range or a send slot. -/
  | map (q : Nat) (picks : List Nat)
  /-- UNMAP (R394): Every leaf in the range is removed and translations are dropped. -/
  | unmap (q : Nat)
  /-- AS_INVALIDATE (R320): Every translation of the context is dropped from every cache on the device. -/
  | asInvalidate (q : Nat)
  /-- OBJ_CREATE (R397): A memory object is created with zeroed granules and counts at 0. -/
  | objCreate (q : Nat) (picks : List Nat)
  /-- OBJ_RELEASE (R399): The object enters RELEASING and no further MAP of it is counted. -/
  | objRelease (q : Nat)
  /-- OBJECT_RELEASE_END (R399): At the first boundary with both counts at 0 the object's lines are recalled, its granules freed and the record written. -/
  | objectReleaseEnd (obj : Nat)
  /-- CONTEXT_CREATE (R371): A FREE context number becomes LIVE with its attributes, seed and partition binding. -/
  | contextCreate (q : Nat) (picks : List Nat)
  /-- CONTEXT_DESTROY (R372): The context's commands, queues, windows, mappings, granules and send slots are released and the number becomes FREE. -/
  | contextDestroy (q : Nat)
  /-- ABORT (R402): An ABORT is decoded and dispatched against a command, or all commands, of a queue. -/
  | abort (q : Nat) (idx : Nat)
  /-- ABORT_EFFECT (R404): At the effect boundary the target is judged and stopped, and the ABORT and target records are written. -/
  | abortEffect (q : Nat) (idx : Nat)
  /-- ENERGY_QUERY (R401): One energy counter of a queue, context or partition is returned in µJ. -/
  | energyQuery (q : Nat)
  /-- WINDOW_OPEN (R400): A receive window is opened with its permissions, epoch and source range in every hub and FOH. -/
  | windowOpen (q : Nat)
  /-- WINDOW_CLOSE (R425): A receive window closes at the boundary after its start, once passed packets are performed. -/
  | windowClose (q : Nat)
  /-- QUEUE_CREATE (R376): A compute or copy queue is created for a context with its rings and interrupt. -/
  | queueCreate (q : Nat)
  /-- QUEUE_DESTROY (R376): The queue's taken commands are aborted, later tails ignored, and the queue freed. -/
  | queueDestroy (q : Nat)
  /-- PARTITION_SET (R482): A partition is defined, reshaped or deleted, taking effect within its reset. -/
  | partitionSet (q : Nat)
  /-- RESET_PARTITION (R485): A partition reset is requested and completes when the partition leaves reset. -/
  | resetPartition (q : Nat)
  /-- RESET_DEVICE (R485): A device reset is requested for the next boundary after its record is written. -/
  | resetDevice (q : Nat)
  /-- TILE_RESET (R30): A tile's dependent contexts are lost and its brace and joists retrain at a new epoch. -/
  | tileReset (q : Nat) (tr : Training)
  /-- TILE_MAP (R18): A valid tile-map word is stored as the bay's pending map. -/
  | tileMap (q : Nat)
  /-- POWER_CAP (R449): The module cap, partition caps and T_LIM are set. -/
  | powerCap (q : Nat)
  /-- CLOCK_STEP (R449): The ACLK and PCLK ceilings are set, stepping down if below the step in force. -/
  | clockStep (q : Nat)
  /-- CALIBRATE (R488): A user calibration offset is stored, mirrored, persisted and applied. -/
  | calibrate (q : Nat)
  /-- POWER_STATE (R455): A partition is put into NAP or back to ACTIVE, or the module is turned OFF. -/
  | powerState (q : Nat)
  /-- HEALTH_READ (R491): The 4,096-byte health record is written to DST. -/
  | healthRead (q : Nat)
  /-- ROUTE_SET (R418): One route entry is written and dropped from every hub's route cache. -/
  | routeSet (q : Nat)
  /-- LINK_TRUST (R489): A trust anchor is installed or cleared, or the device's own certificate installed. -/
  | linkTrust (q : Nat)
  /-- ETH_SET (R490): An Ethernet port's addresses, tag, DSCP, PFC priority and UDP port are set. -/
  | ethSet (q : Nat)
  /-- PEER_SET (R490): An Ethernet peer entry is written and the peer quarantined until it authenticates. -/
  | peerSet (q : Nat)
  /-- QP_SET (R490): A RoCE queue pair is installed, clearing its error state. -/
  | qpSet (q : Nat)
  /-- FW_STAGE (R474): A session is opened or a firmware chunk is written to the inactive flash copy. -/
  | fwStage (q : Nat)
  /-- FW_COMMIT (R475): A staged or other copy is checked and made active, or the security floor is raised. -/
  | fwCommit (q : Nat)
  /-- ATTEST (R468): A quote of the measurements is signed with the identity key and written to DST. -/
  | attest (q : Nat)
  /-- OWNER_KEY (R472): An owner key hash is burned into the lowest free owner slot. -/
  | ownerKey (q : Nat)
  /-- COMMAND (R479): A management datagram carrying a command packet is taken and its reply returned. -/
  | command (tag : Nat) (packet : List W64) (data : List Byte)
  /-- REG_READ (R479): A management datagram reads a BAR0 register and returns its value. -/
  | regRead (tag : Nat) (off : Nat)
  /-- REG_WRITE (R479): A management datagram writes a BAR0 register and is acknowledged. -/
  | regWrite (tag : Nat) (off : Nat) (value : W64)
  /-- REGISTER_WRITE (R6): A write to a register without behaviour of its own sets, clears or ignores fields by access type. -/
  | registerWrite (port : Nat) (off : Nat) (width : Nat) (value : W64)
  /-- CALLBOARD_WRITE (R352): A 64-bit write to a callboard entry of a queue bound to the port is recorded as its tail. -/
  | callboardWrite (port : Nat) (queue : Nat) (value : W64)
  /-- HOUSE_RING_WRITE (R375): A write of HOUSE_RING enables the house queue and restarts its ring at entry 0. -/
  | houseRingWrite (port : Nat) (value : W64)
  /-- APERTURE_INSTALL (R358): A write of aperture word 0 with VALID 1 starts checking and installing the entry. -/
  | apertureInstall (port : Nat) (e : Nat) (value : W64)
  /-- APERTURE_REMOVE (R358): A write of aperture word 0 with VALID 0 starts removing the entry. -/
  | apertureRemove (port : Nat) (e : Nat) (value : W64)
  /-- APERTURE_ACTION_END (R358): An aperture action ends, clearing BUSY and setting RESULT. -/
  | apertureActionEnd (port : Nat)
  /-- MSIX_UNMASK (R355): Unmasking a vector with its pending bit set sends its message. -/
  | msixUnmask (port : Nat) (vec : Nat) (control : BitVec 32)
  /-- BAR2_RESIZE (R359): A resize of BAR2 removes every aperture entry that runs past the new size. -/
  | bar2Resize (port : Nat) (log2 : Nat)
  /-- GP_DEBUG_HALT (R222): The selected group of a debug context stops issuing. -/
  | gpDebugHalt (path : Path)
  /-- GP_DEBUG_RESUME (R222): The selected halted group becomes ready again. -/
  | gpDebugResume (path : Path)
  /-- GP_DEBUG_STEP (R222): The halted group makes one issue without re-packing and halts again. -/
  | gpDebugStep (path : Path)
  /-- GP_DEBUG_READ (R222): An item of a lane of a halted group is read into GP_DEBUG_DATA. -/
  | gpDebugRead (path : Path)
  /-- GP_DEBUG_WRITE (R222): An item of a lane of a halted group is set from GP_DEBUG_DATA. -/
  | gpDebugWrite (path : Path)
  /-- GP_DEBUG_ACTION_END (R222): A debug action ends within 4 cues, clearing BUSY and setting RESULT. -/
  | gpDebugActionEnd
  /-- LINK_RETRAIN (R406): Writing RETRAIN takes a tenon link down and starts bring-up again. -/
  | linkRetrain (l : Nat)
  /-- POD_TIME_WRITE (R432): A write of POD_TIME on the master steps the pod's time. -/
  | podTimeWrite (path : Path) (ns : W64)
  /-- BAR0_ATOMICOP (R361): A BAR0 AtomicOp changes an object's host count, or is refused and counted. -/
  | bar0AtomicOp (port : Nat) (off : Nat) (op : Nat) (size : Nat) (operand : W64) (comparand : W64)
  /-- BAR2_READ (R360): A host read through an aperture is checked, translated, owner-checked and performed as READ_ONCE. -/
  | bar2Read (port : Nat) (off : Nat) (len : Nat)
  /-- BAR2_WRITE (R360): A host posted write through an aperture is checked and performed as WRITE_INV, or dropped. -/
  | bar2Write (port : Nat) (off : Nat) (data : List Byte) (poisoned : Bool)
  /-- BAR2_ATOMICOP (R361): A host AtomicOp through an aperture is checked and performed as a HOME_ATOMIC. -/
  | bar2AtomicOp (port : Nat) (off : Nat) (op : Nat) (size : Nat) (operand : W64) (comparand : W64)
  /-- LINK_DOWN (R367): A port leaving DL_Active or losing Bus Master Enable holds its outbound writes. -/
  | linkDown (port : Nat) (bmeCleared : Bool)
  /-- LINK_RETURNED (R367): The link returns within the hold limit and the held writes are issued in order. -/
  | linkReturned (port : Nat) (gen : Nat) (lanes : Nat)
  /-- HOLD_LIMIT (R367): When CUES_HELD reaches 65,536 the port's writes are discarded and its contexts lost. -/
  | holdLimit (port : Nat)
  /-- HOT_RESET (R368): A hot reset discards the port's pending traffic, loses its contexts and resets its tables. -/
  | hotReset (port : Nat)
  /-- FLR (R368): A function-level reset discards the port's pending traffic, loses its contexts and resets its tables. -/
  | flr (port : Nat)
  /-- COMPLETION_TIMEOUT (R365): A device read of host memory times out after 50 ms and is reissued, or its context is lost. -/
  | completionTimeout (port : Nat) (tag : Nat)
  /-- POISONED_COMPLETION (R365): Poisoned completion data is discarded and the requesting context lost. -/
  | poisonedCompletion (port : Nat) (tag : Nat)
  /-- MALFORMED_TLP (R365): A malformed TLP or protocol error is dropped and reported fatal. -/
  | malformedTlp (port : Nat)
  /-- RECEIVER_ERROR (R365): A receiver error or bad TLP triggers PCIe retry and a correctable report. -/
  | receiverError (port : Nat)
  /-- MXE_WORK_LIST (R155): An MXE begins a work list when its START bit is set and its previous list is done. -/
  | mxeWorkList (t : Nat) (u : Nat)
  /-- PASS (R156): A pass record streams A and B along K into an accumulator bank. -/
  | pass (t : Nat) (u : Nat)
  /-- COMBINE (R165): Two binary32 partials are added cell by cell and written or passed to the output pipeline. -/
  | combine (t : Nat) (u : Nat)
  /-- FINISH (R166): A completed sum takes C and runs through the output pipeline into D. -/
  | finish (t : Nat) (u : Nat)
  /-- SAVE (R157): A bank's state image is written to the tile store and the bank freed. -/
  | save (t : Nat) (u : Nat)
  /-- PARTIAL (R157): A completed subtree sum of every cell is written as a partial. -/
  | partialSum (t : Nat) (u : Nat)
  /-- VXE_WORK_LIST (R187): A VXE begins a work list of sequences when its START bit is set. -/
  | vxeWorkList (t : Nat) (u : Nat)
  /-- VECTOR_ADD (R175): x + y elementwise. -/
  | vectorAdd (t : Nat) (u : Nat)
  /-- VECTOR_SUB (R175): x − y elementwise. -/
  | vectorSub (t : Nat) (u : Nat)
  /-- VECTOR_MUL (R175): x × y elementwise. -/
  | vectorMul (t : Nat) (u : Nat)
  /-- FMA (R175): x × y + z with one rounding. -/
  | vectorFma (t : Nat) (u : Nat)
  /-- VECTOR_DIV (R175): x / y correctly rounded. -/
  | vectorDiv (t : Nat) (u : Nat)
  /-- VECTOR_MIN (R175): The lesser of x and y. -/
  | vectorMin (t : Nat) (u : Nat)
  /-- VECTOR_MAX (R175): The greater of x and y. -/
  | vectorMax (t : Nat) (u : Nat)
  /-- ABS (R175): |x| as an arithmetic operation. -/
  | vectorAbs (t : Nat) (u : Nat)
  /-- NEG (R175): −x as an arithmetic operation. -/
  | vectorNeg (t : Nat) (u : Nat)
  /-- SCALE_ADD (R175): x × a + b with one rounding. -/
  | scaleAdd (t : Nat) (u : Nat)
  /-- CLAMP (R175): x limited to the immediate bounds. -/
  | vectorClamp (t : Nat) (u : Nat)
  /-- SELECT (R179): x where the selector is true, else y. -/
  | vectorSelect (t : Nat) (u : Nat)
  /-- CONVERT (R175): x converted to the output format. -/
  | vectorConvert (t : Nat) (u : Nat)
  /-- SQRT (R178): Correctly rounded square root. -/
  | vectorSqrt (t : Nat) (u : Nat)
  /-- RSQRT (R178): Correctly rounded reciprocal square root. -/
  | vectorRsqrt (t : Nat) (u : Nat)
  /-- RCP (R178): Correctly rounded reciprocal. -/
  | vectorRcp (t : Nat) (u : Nat)
  /-- EXP (R178): Correctly rounded e^x. -/
  | vectorExp (t : Nat) (u : Nat)
  /-- LOG (R178): Correctly rounded natural logarithm. -/
  | vectorLog (t : Nat) (u : Nat)
  /-- TANH (R178): Correctly rounded tanh. -/
  | vectorTanh (t : Nat) (u : Nat)
  /-- SIGMOID (R178): Correctly rounded logistic function. -/
  | vectorSigmoid (t : Nat) (u : Nat)
  /-- ERF (R178): Correctly rounded error function. -/
  | vectorErf (t : Nat) (u : Nat)
  /-- CMP (R175): A comparison predicate writes 1 or 0, or a mask register. -/
  | vectorCmp (t : Nat) (u : Nat)
  /-- MASK_LOAD (R188): A mask register bit is set where the X element is not zero. -/
  | maskLoad (t : Nat) (u : Nat)
  /-- REDUCE_SUM (R180): Sum over AXES in the reference order. -/
  | reduceSum (t : Nat) (u : Nat)
  /-- REDUCE_MAX (R180): Greatest term over AXES. -/
  | reduceMax (t : Nat) (u : Nat)
  /-- REDUCE_MIN (R180): Least term over AXES. -/
  | reduceMin (t : Nat) (u : Nat)
  /-- REDUCE_ARGMAX (R180): Linear index of the greatest term over AXES. -/
  | reduceArgmax (t : Nat) (u : Nat)
  /-- REDUCE_SUMSQ (R180): Sum of rounded squares over AXES. -/
  | reduceSumsq (t : Nat) (u : Nat)
  /-- EXP_SUB_SUM (R175): e^(x − y) and its sum over AXES. -/
  | expSubSum (t : Nat) (u : Nat)
  /-- RMS_SCALE (R182): x scaled by the reciprocal root mean square and a gain. -/
  | rmsScale (t : Nat) (u : Nat)
  /-- MEAN_VAR (R182): Mean and variance over AXES. -/
  | meanVar (t : Nat) (u : Nat)
  /-- GATHER (R183): Rows of a table are read by index into OUT. -/
  | gather (t : Nat) (u : Nat)
  /-- SCATTER (R183): Rows of X are written to table rows by index. -/
  | scatter (t : Nat) (u : Nat)
  /-- SCATTER_ADD (R183): Rows of X are added to table rows by index in ascending order. -/
  | scatterAdd (t : Nat) (u : Nat)
  /-- SGD_MOMENTUM (R186): A momentum SGD weight update with stochastic rounding of the weight. -/
  | sgdMomentum (t : Nat) (u : Nat)
  /-- ADAMW (R186): An AdamW weight update with stochastic rounding of the weight. -/
  | adamw (t : Nat) (u : Nat)
  /-- GP_WORK_LIST (R199): A GP begins a work list of blocks when its START bit is set. -/
  | gpWorkList (t : Nat) (u : Nat)
  /-- BLOCK_RELEASE (R200): After setup, a block's threads are released together at ENTRY with cleared state. -/
  | blockRelease (t : Nat) (u : Nat)
  /-- MOVER_WORK_LIST (R334): A mover begins a work list of transfer records when its START bit is set. -/
  | moverWorkList (t : Nat) (u : Nat)
  /-- TRANSFER_RECORD (R337): A transfer record starts once every write of the previous record is performed. -/
  | transferRecord (t : Nat) (u : Nat)
  /-- TRANSFER_TILE (R338): An 8 KiB transfer tile starts once all its pages are translated, and its requests are issued. -/
  | transferTile (job : Job)
  /-- SIGNAL_NODE (R87): A SIGNAL node raises a fence once every earlier node has completed. -/
  | signalNode (p : Nat) (run : Nat) (node : Nat)
  /-- WINDOW_PUT (R88): A WINDOW_PUT transfer starts in the cue after its source is written and is sent as packets. -/
  | windowPut (p : Nat) (run : Nat) (node : Nat) (xfer : Nat)
  /-- WINDOW_GET (R88): A WINDOW_GET transfer starts and sends READ_REQ packets. -/
  | windowGet (p : Nat) (run : Nat) (node : Nat) (xfer : Nat)
  /-- COPY_LEAVING_PARTITION (R88): A COPY with a host or remote page starts as a house-share transfer once its source is written. -/
  | copyLeavingPartition (p : Nat) (run : Nat) (node : Nat) (xfer : Nat)
  /-- TABLE_WALK (R318): A stream's page-table walk returns a leaf or a fault. -/
  | tableWalk (stream : Nat) (c : Nat) (va : Nat)
  /-- RD_SHARED (R267): A home takes a shared read request and grants E or S. -/
  | rdShared (x : Nat) (line : Nat)
  /-- RD_OWN (R267): A home takes an ownership read and grants M after invalidations. -/
  | rdOwn (x : Nat) (line : Nat)
  /-- OWN_NODATA (R267): A home grants M without data for a full-line zero. -/
  | ownNodata (x : Nat) (line : Nat)
  /-- UPGRADE (R267): A home upgrades a sharer to M after invalidating other sharers. -/
  | upgrade (x : Nat) (line : Nat)
  /-- PUT_S (R267): A cache's drop of a shared line is recorded and acknowledged. -/
  | putS (x : Nat) (line : Nat)
  /-- PUT_E (R267): A cache's drop of an exclusive clean line is acknowledged. -/
  | putE (x : Nat) (line : Nat)
  /-- PUT_M (R267): A dirty line is written to home and acknowledged. -/
  | putM (x : Nat) (line : Nat)
  /-- READ_ONCE (R268): An uncached read returns home or owner data without caching. -/
  | readOnce (c : Nat) (pa : Nat) (len : Nat)
  /-- WRITE_INV (R268): An uncached write invalidates holders and merges bytes at home. -/
  | writeInv (c : Nat) (pa : Nat) (mask : Nat) (data : List Byte)
  /-- HOME_ATOMIC (R268): An atomic is performed at home after the line is taken from every cache. -/
  | homeAtomic (c : Nat) (pa : Nat) (op : Nat) (size : Nat) (operand : W64) (comparand : W64)
  /-- DOWNGRADE (R265): A cache answers a downgrade snoop and moves to S. -/
  | downgrade (y : Nat) (line : Nat)
  /-- INVALIDATE (R265): A cache answers an invalidate snoop and moves to I. -/
  | invalidate (y : Nat) (line : Nat)
  /-- READ_ONCE_SNOOP (R265): A cache answers a read-once snoop without changing state. -/
  | readOnceSnoop (y : Nat) (line : Nat)
  /-- GRANT (R265): A cache receives its grant and completes the access in the granted state. -/
  | grant (x : Nat) (line : Nat)
  /-- DARK_PERIOD (R294): A channel's dark windows refresh two rows and run a lane test, row copy or scrub. -/
  | darkPeriod (stack : Nat) (ch : Nat) (lanes : Nat)
  /-- FORCED_DARK (R51): When a channel has gone 8 cues without a dark period, a hold cue is made dark for it. -/
  | forcedDark (stack : Nat) (ch : Nat) (lanes : Nat)
  /-- BURST_RETRY (R290): An undecodable burst is read again, then after a lane test, or declared uncorrectable. -/
  | burstRetry (pa : Nat) (first reread : BitVec 288) (lanes : Nat) (again : BitVec 288)
  /-- UNCORRECTABLE_BURST (R303): At the next boundary the owner of an uncorrectable burst's granule, or its requesters, are lost or the partition reset. -/
  | uncorrectableBurst (pa : Nat)
  /-- LANE_LOSS_OF_LOCK (R289): A PHY loss of lock marks the lane failed at once. -/
  | laneLossOfLock (stack : Nat) (ch : Nat) (lane : Nat)
  /-- STACK_FAILURE (R304): A failed stack is marked failed and its owners lost at the next boundary. -/
  | stackFailure (stack : Nat)
  /-- CAPS (R411): A CAPS message starts a bring-up attempt and resolves roles and generation. -/
  | caps (l : Nat) (attempt : Nat) (body : List Byte)
  /-- HELLO (R410): A partner's certificate and nonce are received and checked. -/
  | hello (l : Nat) (attempt : Nat) (body : List Byte)
  /-- PROOF (R410): A partner's identity-key signature over D is verified, and the link becomes active. -/
  | proof (l : Nat) (attempt : Nat) (body : List Byte)
  /-- REFUSE (R411): A partner's refusal ends the attempt and quarantines the link. -/
  | refuse (l : Nat) (attempt : Nat) (body : List Byte)
  /-- TIMEOUT (R410): A bring-up step unanswered within 4,096 cues ends the attempt with reason TIMEOUT. -/
  | timeout (l : Nat)
  /-- QUARANTINE_RETRY (R412): Once per house cycle a new bring-up attempt is started on a quarantined link. -/
  | quarantineRetry (l : Nat)
  /-- TENON_LINK_DOWN (R414): An active link with excess retries, errors or loss of lock goes down and begins bring-up again. -/
  | tenonLinkDown (l : Nat)
  /-- WRITE (R328): A WRITE packet is checked, translated and written into a window, or forwarded or dropped. -/
  | write (l : Nat) (header : List W64) (payload : List Byte) (sig : Bool)
  /-- READ_REQ (R420): A READ_REQ is checked and answered with READ_RESP packets. -/
  | readReq (l : Nat) (header : List W64) (payload : List Byte)
  /-- READ_RESP (R420): Read response data is written to the requesting transfer's destination. -/
  | readResp (l : Nat) (header : List W64) (payload : List Byte)
  /-- SIGNAL (R421): A final SIGNAL packet is applied as a max if every packet was accepted, and an ACK returned. -/
  | signal (l : Nat) (header : List W64) (payload : List Byte)
  /-- ACK (R422): An ACK decides whether a transfer is delivered or dropped. -/
  | ack (l : Nat) (header : List W64) (payload : List Byte)
  /-- ACK_TIMEOUT (R422): A transfer without ACK or complete response within 2^16 cues is dropped with step 9. -/
  | ackTimeout (xfer : Nat)
  /-- TIME_ANNOUNCEMENT (R433): Every 65,536 KCLK cycles an ANNOUNCE is sent on each link that sends time. -/
  | timeAnnouncement (now : W64)
  /-- ANNOUNCE (R435): A received ANNOUNCE updates master selection, completes a round's offset and is answered by REPLY. -/
  | announce (l : Nat) (header : List W64) (payload : List Byte) (arrived : W64) (departed : W64)
  /-- REPLY (R435): A received REPLY records t2 and t3 for the round. -/
  | reply (l : Nat) (header : List W64) (payload : List Byte) (arrived : W64)
  /-- LOCK_LOSS (R434): After 1 ms without an exchange LOCKED clears. -/
  | lockLoss
  /-- TENON_DATAGRAM (R428): A UDP datagram carrying a tenon packet is acknowledged and its packet taken. -/
  | tenonDatagram (port : Nat) (peer : Nat) (transport : W64) (packet : List W64) (payload : List Byte) (sig : Bool)
  /-- RETRANSMISSION (R428): A datagram unacknowledged for 50 µs is retransmitted, quarantining the peer after 16. -/
  | retransmission (port : Nat) (peer : Nat)
  /-- RDMA_WRITE (R429): A RoCE RDMA WRITE packet is checked and written into a window. -/
  | rdmaWrite (port : Nat) (qpn : Nat) (psn : Nat) (rkey : BitVec 32) (va : Nat) (first : Bool) (last : Bool) (ce : Bool) (payload : List Byte)
  /-- RDMA_READ_REQUEST (R429): A RoCE RDMA READ request is checked and answered with responses. -/
  | rdmaReadRequest (port : Nat) (qpn : Nat) (psn : Nat) (rkey : BitVec 32) (va : Nat) (len : Nat) (ce : Bool)
  /-- ARP_REQUEST (R426): An ARP request for the port's address is answered. -/
  | arpRequest (port : Nat) (ip : Nat)
  /-- NEIGHBOR_SOLICITATION (R426): A Neighbor Solicitation for the port's address is answered. -/
  | neighborSolicitation (port : Nat) (ip : Nat)
  /-- ECHO_REQUEST (R426): An ICMP or ICMPv6 echo request is answered. -/
  | echoRequest (port : Nat) (ip : Nat) (data : List Byte)
  /-- PAUSE (R426): A received PAUSE or PFC frame is honoured. -/
  | pause (port : Nat) (prio : Nat) (quanta : Nat)
  /-- INTERRUPT (R248): An enabled pending interrupt makes a core take a trap after the current instruction. -/
  | interrupt (c : Nat)
  /-- ADD (R234): Integer add. -/
  | add (a : Agent)
  /-- SUB (R234): Integer subtract. -/
  | sub (a : Agent)
  /-- MUL (R234): Low half of an integer product. -/
  | mul (a : Agent)
  /-- MULHI (R234): High half of an integer product. -/
  | mulhi (a : Agent)
  /-- DIV (R235): Integer divide toward zero. -/
  | div (a : Agent)
  /-- REM (R235): Integer remainder. -/
  | rem (a : Agent)
  /-- MIN (R234): Integer lesser. -/
  | imin (a : Agent)
  /-- MAX (R234): Integer greater. -/
  | imax (a : Agent)
  /-- AND (R234): Bitwise and. -/
  | andOp (a : Agent)
  /-- OR (R234): Bitwise or. -/
  | orOp (a : Agent)
  /-- XOR (R234): Bitwise exclusive or. -/
  | xorOp (a : Agent)
  /-- NOT (R234): Bitwise complement. -/
  | notOp (a : Agent)
  /-- SHL (R234): Shift left. -/
  | shl (a : Agent)
  /-- SHR (R234): Arithmetic or logical shift right. -/
  | shr (a : Agent)
  /-- POPC (R234): Count of set bits. -/
  | popc (a : Agent)
  /-- CLZ (R234): Count of leading zeros. -/
  | clz (a : Agent)
  /-- MAD (R234): Integer multiply-add. -/
  | mad (a : Agent)
  /-- SETP (R234): Integer compare into a predicate. -/
  | setp (a : Agent)
  /-- SEL (R234): Select by predicate. -/
  | sel (a : Agent)
  /-- MOV (R234): Register move. -/
  | mov (a : Agent)
  /-- PAND (R234): Predicate and. -/
  | pand (a : Agent)
  /-- POR (R234): Predicate or. -/
  | por (a : Agent)
  /-- PXOR (R234): Predicate exclusive or. -/
  | pxor (a : Agent)
  /-- PNOT (R234): Predicate complement. -/
  | pnot (a : Agent)
  /-- P2R (R234): Predicates copied into a register. -/
  | p2r (a : Agent)
  /-- REGISTER_TO_PREDICATES (R234): The R2P instruction sets predicates from the low bits of a register. -/
  | r2p (a : Agent)
  /-- ADDI (R234): Add immediate. -/
  | addi (a : Agent)
  /-- MULI (R234): Multiply by immediate. -/
  | muli (a : Agent)
  /-- ANDI (R234): And with zero-extended immediate. -/
  | andi (a : Agent)
  /-- ORI (R234): Or with zero-extended immediate. -/
  | ori (a : Agent)
  /-- XORI (R234): Exclusive or with zero-extended immediate. -/
  | xori (a : Agent)
  /-- SHLI (R234): Shift left by immediate. -/
  | shli (a : Agent)
  /-- SHRI (R234): Shift right by immediate. -/
  | shri (a : Agent)
  /-- SETPI (R234): Compare with immediate into a predicate. -/
  | setpi (a : Agent)
  /-- MOVI (R234): Move sign-extended immediate. -/
  | movi (a : Agent)
  /-- MOVHI (R234): Set the high 32 bits from an immediate. -/
  | movhi (a : Agent)
  /-- FADD (R236): Floating add, rounded once. -/
  | fadd (a : Agent)
  /-- FSUB (R236): Floating subtract, rounded once. -/
  | fsub (a : Agent)
  /-- FMUL (R236): Floating multiply, rounded once. -/
  | fmul (a : Agent)
  /-- FFMA (R236): Floating fused multiply-add. -/
  | ffma (a : Agent)
  /-- FDIV (R236): Correctly rounded floating divide. -/
  | fdiv (a : Agent)
  /-- FSQRT (R236): Correctly rounded square root. -/
  | fsqrt (a : Agent)
  /-- FMIN (R236): Floating lesser. -/
  | fmin (a : Agent)
  /-- FMAX (R236): Floating greater. -/
  | fmax (a : Agent)
  /-- FABS (R236): Sign bit cleared, other bits unchanged. -/
  | fabs (a : Agent)
  /-- FNEG (R236): Sign bit flipped, other bits unchanged. -/
  | fneg (a : Agent)
  /-- FSETP (R236): Floating compare into a predicate. -/
  | fsetp (a : Agent)
  /-- FRCP (R236): Correctly rounded reciprocal. -/
  | frcp (a : Agent)
  /-- FRSQRT (R236): Correctly rounded reciprocal square root. -/
  | frsqrt (a : Agent)
  /-- FEXP (R236): Correctly rounded exponential. -/
  | fexp (a : Agent)
  /-- FLOG (R236): Correctly rounded natural logarithm. -/
  | flog (a : Agent)
  /-- FADDI (R236): binary32 add of an immediate. -/
  | faddi (a : Agent)
  /-- FMULI (R236): binary32 multiply by an immediate. -/
  | fmuli (a : Agent)
  /-- FCVT (R237): Conversion between element formats with an optional block scale. -/
  | fcvt (a : Agent)
  /-- FTOI (R237): Floating to saturating integer conversion. -/
  | ftoi (a : Agent)
  /-- ITOF (R237): Integer to floating conversion. -/
  | itof (a : Agent)
  /-- LD (R238): Load from GLOBAL, LOCAL or CLUSTER space. -/
  | load (a : Agent)
  /-- ST (R238): Store to GLOBAL, LOCAL or CLUSTER space. -/
  | store (a : Agent)
  /-- ZLINE (R215): The 128-byte line is set to zero without fetching. -/
  | zline (a : Agent)
  /-- PREFETCH (R238): A hint that brings a line into the tile L2 or core L2. -/
  | prefetch (a : Agent)
  /-- FENCE (R243): Acquire, release or both at a scope, with no access. -/
  | memFence (a : Agent)
  /-- AADD (R238): Atomic wrapping add. -/
  | aadd (a : Agent)
  /-- AFADD (R238): Atomic floating add, rounded per lane. -/
  | afadd (a : Agent)
  /-- AMIN (R238): Atomic minimum. -/
  | amin (a : Agent)
  /-- AMAX (R238): Atomic maximum. -/
  | amax (a : Agent)
  /-- AAND (R238): Atomic and. -/
  | aand (a : Agent)
  /-- AOR (R238): Atomic or. -/
  | aor (a : Agent)
  /-- AXOR (R238): Atomic exclusive or. -/
  | axor (a : Agent)
  /-- ASWAP (R238): Atomic swap. -/
  | aswap (a : Agent)
  /-- ACAS (R238): Atomic compare and swap. -/
  | acas (a : Agent)
  /-- NOP_INSTRUCTION (R240): The Xichai NOP does nothing. -/
  | nopInstr (a : Agent)
  /-- BRA (R240): Branch by a PC-relative displacement. -/
  | bra (a : Agent)
  /-- BRX (R240): Branch to a register target. -/
  | brx (a : Agent)
  /-- CALL (R240): Branch with the return address in a link register. -/
  | call (a : Agent)
  /-- EXIT (R240): The thread ends; the block ends when its last thread exits. -/
  | exitThread (a : Agent)
  /-- BAR_BLOCK (R211): A thread arrives at a block barrier, which releases when every live thread has arrived. -/
  | barBlock (a : Agent)
  /-- BAR_CLUSTER (R211): A thread arrives at a cluster barrier. -/
  | barCluster (a : Agent)
  /-- TRAP (R240): Raises a trap with a code. -/
  | trap (a : Agent)
  /-- ERET (R249): Return from a core trap. -/
  | eret (a : Agent)
  /-- WFI (R240): The core waits until an interrupt is pending and enabled. -/
  | wfi (a : Agent)
  /-- SREAD (R242): Read a special register. -/
  | sread (a : Agent)
  /-- SWRITE (R250): Write a core special register. -/
  | swrite (a : Agent)
  /-- SHFL_IDX (R241): Shuffle by lane index. -/
  | shflIdx (a : Agent)
  /-- SHFL_UP (R241): Shuffle up by a distance. -/
  | shflUp (a : Agent)
  /-- SHFL_DOWN (R241): Shuffle down by a distance. -/
  | shflDown (a : Agent)
  /-- SHFL_XOR (R241): Shuffle by lane xor a distance. -/
  | shflXor (a : Agent)
  /-- VOTE_ALL (R241): Predicate true in every member. -/
  | voteAll (a : Agent)
  /-- VOTE_ANY (R241): Predicate true in at least one member. -/
  | voteAny (a : Agent)
  /-- VOTE_BALLOT (R241): Mask of members whose predicate is true. -/
  | voteBallot (a : Agent)
  /-- BAR_GROUP (R241): Group barrier across all 32 lanes. -/
  | barGroup (a : Agent)
  /-- GMMA (R210): Group 16×16×16 matrix multiply-add in the reference order. -/
  | gmma (a : Agent)
  /-- WCLK_HOUSE_CYCLE (R41): While the cue counter is stopped, a house cycle of 63,161,284 WCLK periods elapses and management work paced in house cycles runs. -/
  | wclkHouseCycle
  /-- BUSBAR_POWER_LOSS (R476): Busbar power is lost, ending every session, reservation and WCLK-domain copy in progress. -/
  | busbarPowerLoss
  /-- BUS_MASTER_ENABLE_SET (R368): The host sets Bus Master Enable again, so the device may resume writes and messages to that host. -/
  | busMasterEnableSet (port : Nat)
  /-- READ_COMPLETION (R364): A successful completion arrives for a device read of host memory, delivering data to the mover, core or call desk that asked for it. -/
  | readCompletion (port : Nat) (tag : Nat) (data : List Byte)
  /-- PHY_TRAINED (R410): A tenon link's PHY finishes training at generation 1 or 2 rates, so CAPS can be sent or, after generation 2 retraining, HELLO begins. -/
  | phyTrained (l : Nat) (ok : Bool)
  /-- ETHERNET_LINK_UP (R426): Clause 73 auto-negotiation and link training complete on an Ethernet-mode link, which enters STATE 6. -/
  | ethernetLinkUp (l : Nat) (rate : Nat)
  /-- ETHERNET_LINK_DOWN (R426): An Ethernet-mode link loses its physical link and leaves STATE 6. -/
  | ethernetLinkDown (l : Nat)
  /-- FRAME_RETRY (R416): A tenon hop receives a bad frame and the frames are resent go-back-N, with 16 successive retries bringing the link down. -/
  | frameRetry (l : Nat) (seq : Nat)
  /-- LINK_CTL_WRITE (R406): A write to LINK_CTL from the management port changes ENABLE, MODE, ROLE, TIME, MAX_GEN or ETH_200, holding a link down or releasing it. -/
  | linkCtlWrite (path : Path) (l : Nat) (value : W64)
  /-- MODULE_PART_FAULT (R36): A regulator, reference oscillator, resonator, flash or sensor on the module reports a fault, which is logged in the health record. -/
  | modulePartFault (part : Nat)
  /-- BAD_OPCODE_PACKET (R382): A command packet with an opcode no table defines starts and completes with BAD_OPCODE. -/
  | badOpcodePacket (q : Nat)
  /-- ILLEGAL_WORD (R245): A core reaches an illegal instruction word and takes trap cause ILLEGAL. -/
  | illegalWord (c : Nat)
deriving DecidableEq, Repr

end Sys2Proof
end

