-- ==== Sys2Proof/Decode.lean ====
section
/-! DEFINITION. The decoder of the opcode table's bits: no row of the table gives bits, so no word spells a command. -/

namespace Sys2Proof

/-- The command that a word of the table spells: none, because no row has bits. -/
def decodeTableWord (nbits w : Nat) : Option Instr :=
  match nbits, w with
  | _, _ => none

end Sys2Proof
end

