-- ==== Sys2Proof/Machine/Table.lean ====
section
/-! DEFINITION. Sparse tables in one canonical form (strictly rising keys, no entry equal to the default), bit fields,
byte order (R3) and small list helpers. Memory, register files and every numbered array of the device use them. -/

namespace Sys2Proof.Machine

/-- The value of key `k`; an unlisted key holds the default `d`. -/
def tget {α : Type} (d : α) : Table α → Nat → α
  | [], _ => d
  | (k', v) :: t, k => if k = k' then v else tget d t k

/-- The table with key `k` removed, so that it holds the default. -/
def terase {α : Type} : Table α → Nat → Table α
  | [], _ => []
  | (k', v) :: t, k => if k = k' then terase t k else (k', v) :: terase t k

/-- The table with key `k` holding `v`, listed at its place in the rising order. -/
def tinsert {α : Type} : Table α → Nat → α → Table α
  | [], k, v => [(k, v)]
  | (k', v') :: t, k, v =>
    if k < k' then (k, v) :: (k', v') :: t
    else if k = k' then (k, v) :: t
    else (k', v') :: tinsert t k v

/-- Writing the default removes the entry; any other value is listed. -/
def tput {α : Type} [DecidableEq α] (d : α) (t : Table α) (k : Nat) (v : α) : Table α :=
  if v = d then terase t k else tinsert t k v

/-- The canonical form: keys rise strictly and no entry holds the default. -/
def twf {α : Type} [DecidableEq α] (d : α) : Table α → Bool
  | [] => true
  | [(_, v)] => decide (v ≠ d)
  | (k, v) :: (k', v') :: t => decide (v ≠ d) && decide (k < k') && twf d ((k', v') :: t)

/-- The values of keys `k`, `k + 1`, …, `n` of them. -/
def tgetN {α : Type} (d : α) (t : Table α) : Nat → Nat → List α
  | _, 0 => []
  | k, n + 1 => tget d t k :: tgetN d t (k + 1) n

/-- Keys `k`, `k + 1`, … hold the values of the list. -/
def tputN {α : Type} [DecidableEq α] (d : α) : Table α → Nat → List α → Table α
  | t, _, [] => t
  | t, k, v :: vs => tputN d (tput d t k v) (k + 1) vs

/-- Change of one entry. -/
def tmod {α : Type} [DecidableEq α] (d : α) (t : Table α) (k : Nat) (f : α → α) : Table α :=
  tput d t k (f (tget d t k))

/-- Every listed value changed (the default must be a fixed point of `f`); entries that become the default are removed. -/
def tmap {α : Type} [DecidableEq α] (d : α) (t : Table α) (f : Nat → α → α) : Table α :=
  (t.map (fun kv => (kv.1, f kv.1 kv.2))).filter (fun kv => decide (kv.2 ≠ d))

/-- The numbers `k`, `k + 1`, …, `n` of them. -/
def upFrom : Nat → Nat → List Nat
  | _, 0 => []
  | k, n + 1 => k :: upFrom (k + 1) n

/-- Bits [hi:lo] of a word, as a number (R2). -/
def bits {n : Nat} (w : BitVec n) (hi lo : Nat) : Nat := w.toNat / 2 ^ lo % 2 ^ (hi + 1 - lo)

/-- Bit `i` of a word. -/
def bit {n : Nat} (w : BitVec n) (i : Nat) : Bool := w.getLsbD i

/-- A number placed at bit `lo` of a 64-bit word, cut to `width` bits. -/
def fld (v width lo : Nat) : W64 := BitVec.ofNat 64 (v % 2 ^ width * 2 ^ lo)

/-- A flag placed at bit `i`. -/
def flag (b : Bool) (i : Nat) : W64 := if b then BitVec.ofNat 64 (2 ^ i) else 0

/-- Bits [hi:lo] of a word replaced. -/
def setBits (w : W64) (hi lo v : Nat) : W64 :=
  (w &&& ~~~ (BitVec.ofNat 64 ((2 ^ (hi + 1 - lo) - 1) * 2 ^ lo))) ||| fld v (hi + 1 - lo) lo

/-- A number read as two's complement of `width` bits. -/
def signed (width v : Nat) : Int :=
  let m := v % 2 ^ width
  if 2 * m < 2 ^ width then (m : Int) else (m : Int) - (2 ^ width : Nat)

/-- Little-endian bytes of a number (R3), `n` of them. -/
def leBytes : Nat → Nat → List Byte
  | 0, _ => []
  | n + 1, v => BitVec.ofNat 8 v :: leBytes n (v / 256)

/-- The number that little-endian bytes spell (R3). -/
def leNat : List Byte → Nat
  | [] => 0
  | b :: bs => b.toNat + 256 * leNat bs

/-- The 64-bit words of a byte string (R3); the last word is zero-extended. -/
def leWords : Nat → List Byte → List W64
  | 0, _ => []
  | n + 1, bs => BitVec.ofNat 64 (leNat (bs.take 8)) :: leWords n (bs.drop 8)

/-- The bytes of 64-bit words (R3). -/
def wordBytes (ws : List W64) : List Byte := ws.flatMap (fun w => leBytes 8 w.toNat)

/-- Word `i` of a packet or record; a word that is not there reads 0. -/
def wordAt (ws : List W64) (i : Nat) : W64 := ws.getD i 0

/-- Rounding up of a quotient. -/
def ceilDiv (a b : Nat) : Nat := (a + b - 1) / b

/-- Element `i` replaced. -/
def lset {α : Type} : List α → Nat → α → List α
  | [], _, _ => []
  | _ :: l, 0, v => v :: l
  | a :: l, n + 1, v => a :: lset l n v

/-- The numbers below `n` whose bit is set in `m`. -/
def bitList (m n : Nat) : List Nat := (upFrom 0 n).filter (fun i => m.testBit i)

/-- Insertion into a list kept in the order `le`. -/
def insertBy {α : Type} (le : α → α → Bool) (a : α) : List α → List α
  | [] => [a]
  | b :: l => if le a b then a :: b :: l else b :: insertBy le a l

/-- Sorting by insertion; equal elements keep their order. -/
def sortBy {α : Type} (le : α → α → Bool) (l : List α) : List α := l.foldr (insertBy le) []

/-- A fold of a state over a list of work items. -/
def foldS {σ α : Type} (f : σ → α → σ) (s : σ) (l : List α) : σ := l.foldl f s

end Sys2Proof.Machine
end

