-- ==== Sys2Proof/Machine/Num.lean ====
section
/-! DEFINITION. Number formats, exact internal values and rounding (R126–R139), and the exact operations that every
engine rounds once. -/

namespace Sys2Proof.Machine

/-- The exact internal form of R139: NaN, an infinity, or sign × significand × 2 ^ exponent (a zero keeps its sign). -/
inductive Val where
  | nan
  | inf (neg : Bool)
  | fin (neg : Bool) (m : Nat) (e : Int)
deriving DecidableEq, Repr

/-- A floating format: exponent bits, mantissa bits, bias, exponent and significand numerator of the largest finite
value (numerator over 2 ^ mantissa bits), whether it has infinities (R126, R128, R137). -/
structure Fmt where
  ebits : Nat
  mbits : Nat
  bias : Nat
  emax : Int
  mmax : Nat
  hasInf : Bool
deriving DecidableEq, Repr

def f64 : Fmt := ⟨11, 52, 1023, 1023, 2 ^ 53 - 1, true⟩
def f32 : Fmt := ⟨8, 23, 127, 127, 2 ^ 24 - 1, true⟩

/-- The floating format of a code 0x0–0x8 (R126, R128); other codes are not floating. -/
def fmtOf : Nat → Option Fmt
  | 0 => some f64
  | 1 => some f32
  | 2 => some ⟨8, 7, 127, 127, 255, true⟩
  | 3 => some ⟨5, 10, 15, 15, 2047, true⟩
  | 4 => some ⟨4, 3, 7, 8, 14, false⟩
  | 5 => some ⟨5, 2, 15, 15, 7, true⟩
  | 6 => some ⟨3, 2, 3, 4, 7, false⟩
  | 7 => some ⟨2, 3, 1, 2, 15, false⟩
  | 8 => some ⟨2, 1, 1, 2, 3, false⟩
  | _ => none

/-- Width of an element in bits (R126). -/
def fmtBits : Nat → Nat
  | 0 => 64
  | 1 => 32
  | 2 => 16
  | 3 => 16
  | 6 => 6
  | 7 => 6
  | 8 => 4
  | 10 => 4
  | _ => 8

/-- Class of a format (R126). -/
def fmtClass : Nat → Nat
  | 0 => 64
  | 1 => 32
  | 2 => 16
  | 3 => 16
  | 8 => 4
  | 10 => 4
  | _ => 8

/-- Formats that carry block scales (R71, R126). -/
def fmtScaled (f : Nat) : Bool := decide (4 ≤ f) && decide (f ≤ 10)

/-- Smallest normal exponent of a format: 1 − bias (R128). -/
def Fmt.emin (f : Fmt) : Int := 1 - f.bias

/-- Zero with a sign. -/
def vzero (neg : Bool) : Val := .fin neg 0 0

/-- Decoding of a floating element as encoded, with the flush of R131: subnormals become zero with their sign. -/
def decodeFloat (code : Nat) (f : Fmt) (raw : Nat) : Val :=
  let m := raw % 2 ^ f.mbits
  let e := raw / 2 ^ f.mbits % 2 ^ f.ebits
  let neg := decide (raw / 2 ^ (f.mbits + f.ebits) % 2 = 1)
  if e = 0 then vzero neg
  else if e = 2 ^ f.ebits - 1 && f.hasInf then (if m = 0 then .inf neg else .nan)
  else if code = 4 && e = 15 && m = 7 then .nan
  else .fin neg (2 ^ f.mbits + m) ((e : Int) - f.bias - f.mbits)

/-- Decoding of an element without its block scale (R128, R129, R131). -/
def decodeElem (code raw : Nat) : Val :=
  match fmtOf code with
  | some f => decodeFloat code f raw
  | none =>
    if code = 9 then let q := signed 8 raw; .fin (decide (q < 0)) q.natAbs (-6)
    else if code = 10 then let q := signed 4 raw; .fin (decide (q < 0)) q.natAbs (-2)
    else .fin false (raw % 256) 0

/-- Decoding with the E8M0 block scale of a scaled format (R130, R139). -/
def decodeScaled (code raw scale : Nat) : Val :=
  if fmtScaled code then
    if scale = 255 then .nan
    else match decodeElem code raw with
      | .fin n m e => .fin n m (e + scale - 127)
      | v => v
  else decodeElem code raw

/-- Rounding of m × 2 ^ e to p significant bits, to nearest even, exponent range unbounded (R132 step 2). -/
def roundSig (p : Nat) (m : Nat) (e : Int) : Nat × Int :=
  let n := Nat.log2 m + 1
  if m = 0 || n ≤ p then (m, e)
  else
    let sh := n - p
    let q := m / 2 ^ sh
    let r := m % 2 ^ sh
    let half := 2 ^ (sh - 1)
    let up := decide (r > half) || (decide (r = half) && decide (q % 2 = 1))
    (if up then q + 1 else q, e + sh)

/-- Unbiased exponent of a non-zero magnitude. -/
def expo (m : Nat) (e : Int) : Int := Nat.log2 m + e

/-- The magnitude exceeds the largest finite value of the format (R132 step 4). -/
def above (f : Fmt) (m : Nat) (e : Int) : Bool :=
  let x := expo m e
  decide (x > f.emax) ||
    (decide (x = f.emax) && decide (m * 2 ^ f.mbits > f.mmax * 2 ^ Nat.log2 m))

/-- Rounding to a floating format by steps 1, 2 and 4 of R132 with the outcomes of R133; `sat`: the overflow of a
block-scaled element saturates, and infinities of formats without them saturate. -/
def roundNoFlush (f : Fmt) (scaled : Bool) : Val → Val
  | .nan => .nan
  | .inf n => if f.hasInf then .inf n else .fin n f.mmax (f.emax - f.mbits)
  | .fin n m e =>
    let (q, x) := roundSig (f.mbits + 1) m e
    if q = 0 then vzero n
    else if above f q x then
      (if scaled then .fin n f.mmax (f.emax - f.mbits) else .inf n)
    else .fin n q x

/-- Step 3 of R132: a magnitude below the smallest normal becomes zero with its sign. -/
def flush (f : Fmt) : Val → Val
  | .fin n m e => if m ≠ 0 && decide (expo m e < f.emin) then vzero n else .fin n m e
  | v => v

/-- Rounding to a floating format (R132, R133). -/
def roundF (f : Fmt) (scaled : Bool) (v : Val) : Val :=
  match v with
  | .fin n m e =>
    let (q, x) := roundSig (f.mbits + 1) m e
    roundNoFlush f scaled (flush f (.fin n q x))
  | v => roundNoFlush f scaled v

/-- Canonical NaN of a format of 16 bits or more (R128). -/
def canonNan (f : Fmt) : Nat := ((2 ^ f.ebits - 1) * 2 + 1) * 2 ^ (f.mbits - 1)

/-- The encoding of a value that the format represents (R126). -/
def encodeF (f : Fmt) : Val → Nat
  | .nan => canonNan f
  | .inf n => (if n then 2 ^ (f.ebits + f.mbits) else 0) + (2 ^ f.ebits - 1) * 2 ^ f.mbits
  | .fin n m e =>
    let s := if n then 2 ^ (f.ebits + f.mbits) else 0
    if m = 0 then s
    else
      let x := expo m e
      let sig := if f.mbits ≥ Nat.log2 m then m * 2 ^ (f.mbits - Nat.log2 m) else m / 2 ^ (Nat.log2 m - f.mbits)
      s + (x + f.bias).toNat * 2 ^ f.mbits + sig % 2 ^ f.mbits

/-- Rounding to the nearest integer, ties to even, of m × 2 ^ e. -/
def roundInt (m : Nat) (e : Int) : Nat :=
  if e ≥ 0 then m * 2 ^ e.toNat
  else
    let sh := (-e).toNat
    let q := m / 2 ^ sh
    let r := m % 2 ^ sh
    let half := 2 ^ (sh - 1)
    if decide (r > half) || (decide (r = half) && decide (q % 2 = 1)) then q + 1 else q

/-- The element of an integer format (R129, R133): fraction bits and largest magnitude, two's complement. -/
def encodeInt (frac lim width : Nat) : Val → Nat
  | .nan => 0
  | .inf n => if n then 2 ^ width - lim else lim
  | .fin n m e =>
    let q := min (roundInt m (e + frac)) lim
    if n && q ≠ 0 then 2 ^ width - q else q

/-- UINT8 (R133). -/
def encodeU8 : Val → Nat
  | .nan => 0
  | .inf n => if n then 0 else 255
  | .fin n m e => if n then 0 else min (roundInt m e) 255

/-- Conversion of an exact value to an element, without a block scale (R132, R133); a NaN of a scaled format writes 0. -/
def encodeElem (code : Nat) (v : Val) : Nat :=
  match fmtOf code with
  | some f =>
    if fmtScaled code && v = .nan then 0 else encodeF f (roundF f (fmtScaled code) v)
  | none =>
    if code = 9 then encodeInt 6 127 8 v
    else if code = 10 then encodeInt 2 7 4 v
    else encodeU8 v

/-- Division of a value by 2 ^ X, exact (R138). -/
def scaleBy (x : Int) : Val → Val
  | .fin n m e => .fin n m (e - x)
  | v => v

/-- emax and Mmax × 128 of a scaled element format (R137). -/
def recipeOf : Nat → Int × Nat
  | 4 => (8, 224)
  | 5 => (15, 224)
  | 6 => (4, 224)
  | 7 => (2, 240)
  | 8 => (2, 192)
  | 9 => (0, 254)
  | _ => (0, 224)

/-- The kinds whose rule is CEIL: WEIGHT, GRADIENT, OPTIMIZER_STATE (R136). -/
def kindCeil (kind : Nat) : Bool := kind == 0 || kind == 2 || kind == 3

/-- Block length of a kind: 16 for GRADIENT, 32 otherwise (R71, R136). -/
def blockLen (kind : Nat) : Nat := if kind = 2 then 16 else 32

/-- The first magnitude is at most the second (non-zero exact magnitudes). -/
def magLe (m1 : Nat) (e1 : Int) (m2 : Nat) (e2 : Int) : Bool :=
  if e1 ≤ e2 then decide (m1 ≤ m2 * 2 ^ (e2 - e1).toNat) else decide (m1 * 2 ^ (e1 - e2).toNat ≤ m2)

/-- The largest finite magnitude of a block, infinities left out (R137). -/
def amax (vs : List Val) : Nat × Int :=
  vs.foldl (fun a v => match v with
    | .fin _ m e => if m = 0 then a else if a.1 = 0 then (m, e) else if magLe a.1 a.2 m e then (m, e) else a
    | _ => a) (0, 0)

/-- The shared exponent X of a block (R137). -/
def sharedExp (code kind : Nat) (vs : List Val) : Int :=
  let (m, e) := amax vs
  if m = 0 then 0
  else
    let ee := expo m e
    let (em, mm) := recipeOf code
    let x := if kindCeil kind && decide (m * 128 > mm * 2 ^ Nat.log2 m) then ee - em + 1 else ee - em
    max (-127) (min 127 x)

/-- A block of a scaled format as written: scale byte and elements (R137, R138); `enc` rounds one scaled value. -/
def encodeBlock (enc : Val → Nat) (code kind : Nat) (vs : List Val) : Nat × List Nat :=
  if vs.any (fun v => v = .nan) then (255, vs.map (fun _ => 0))
  else
    let x := sharedExp code kind vs
    ((x + 127).toNat, vs.map (fun v => enc (scaleBy x v)))

/-- The sign of a value that has one. -/
def vneg : Val → Val
  | .nan => .nan
  | .inf n => .inf (!n)
  | .fin n m e => .fin (!n) m e

/-- Exact product (R134, R139). -/
def vmul : Val → Val → Val
  | .nan, _ => .nan
  | _, .nan => .nan
  | .inf a, .inf b => .inf (a != b)
  | .inf a, .fin b m _ => if m = 0 then .nan else .inf (a != b)
  | .fin a m _, .inf b => if m = 0 then .nan else .inf (a != b)
  | .fin a m e, .fin b n f => .fin (a != b) (m * n) (e + f)

/-- A signed significand at exponent `e0 ≤ e`. -/
def atExp (e0 : Int) (n : Bool) (m : Nat) (e : Int) : Int :=
  let v : Int := ((m * 2 ^ (e - e0).toNat : Nat) : Int)
  if n then -v else v

/-- Exact sum with the zero signs of R135. -/
def vadd : Val → Val → Val
  | .nan, _ => .nan
  | _, .nan => .nan
  | .inf a, .inf b => if a = b then .inf a else .nan
  | .inf a, .fin _ _ _ => .inf a
  | .fin _ _ _, .inf b => .inf b
  | .fin a m e, .fin b n f =>
    if m = 0 then (if n = 0 then vzero (a && b) else .fin b n f)
    else if n = 0 then .fin a m e
    else
      let e0 := min e f
      let s := atExp e0 a m e + atExp e0 b n f
      if s = 0 then vzero false else .fin (decide (s < 0)) s.natAbs e0

/-- Exact difference. -/
def vsub (a b : Val) : Val := vadd a (vneg b)

/-- Exact order of two values that are not NaN: −0 and +0 are equal. -/
def vlt : Val → Val → Bool
  | .nan, _ => false
  | _, .nan => false
  | .inf a, .inf b => a && !b
  | .inf a, .fin _ _ _ => a
  | .fin _ _ _, .inf b => !b
  | .fin a m e, .fin b n f =>
    let e0 := min e f
    decide (atExp e0 a m e < atExp e0 b n f)

/-- Value equality: −0 and +0 are equal, NaN equals nothing. -/
def veq : Val → Val → Bool
  | .nan, _ => false
  | _, .nan => false
  | a, b => !vlt a b && !vlt b a

/-- A CMP predicate (R175). -/
def cmpHolds (p : Nat) (x y : Val) : Bool :=
  let nan := decide (x = .nan) || decide (y = .nan)
  match p with
  | 0 => veq x y
  | 1 => nan || !veq x y
  | 2 => vlt x y
  | 3 => vlt x y || veq x y
  | 4 => vlt y x
  | 5 => vlt y x || veq x y
  | 6 => nan
  | _ => false

/-- The sign of a value. -/
def vsign : Val → Bool
  | .nan => false
  | .inf n => n
  | .fin n _ _ => n

/-- Lesser: −0 is less than +0; a NaN gives NaN (R175, R177). -/
def vmin (a b : Val) : Val :=
  if a = .nan || b = .nan then .nan
  else if vlt a b then a else if vlt b a then b else if vsign a then a else b

/-- Greater: +0 is greater than −0; a NaN gives NaN (R175, R177). -/
def vmax (a b : Val) : Val :=
  if a = .nan || b = .nan then .nan
  else if vlt a b then b else if vlt b a then a else if vsign a then b else a

/-- Working formats: binary64 when `wide`, else binary32. -/
def wfmt (wide : Bool) : Fmt := if wide then f64 else f32

/-- A value rounded to a working format. -/
def rnd (wide : Bool) (v : Val) : Val := roundF (wfmt wide) false v

/-- Exact sum of a list (R142): a NaN term or both infinities give NaN; an exactly zero sum is +0. -/
def exactSum (vs : List Val) : Val :=
  match vs.foldl vadd (vzero false) with
  | .fin n m e => if m = 0 then vzero false else .fin n m e
  | v => v

/-- Integer square root, bit by bit from bit `n`. -/
def isqrtFrom : Nat → Nat → Nat → Nat
  | 0, x, r => if (r + 1) * (r + 1) ≤ x then r + 1 else r
  | n + 1, x, r =>
    let r' := r + 2 ^ (n + 1)
    isqrtFrom n x (if r' * r' ≤ x then r' else r)

/-- The largest number whose square is at most `x`. -/
def isqrt (x : Nat) : Nat := isqrtFrom (Nat.log2 x / 2 + 1) x 0

/-- A magnitude with a sticky bit below it, so that one rounding to at most 62 bits is correct. -/
def jam (q : Nat) (exact : Bool) (e : Int) (neg : Bool) : Val :=
  .fin neg (2 * q + (if exact then 0 else 1)) (e - 1)

/-- Quotient of finite magnitudes to 64 bits with a sticky bit. -/
def magDiv (neg : Bool) (m : Nat) (e : Int) (n : Nat) (f : Int) : Val :=
  let k := 64 + Nat.log2 n
  let a := m * 2 ^ k
  jam (a / n) (decide (a % n = 0)) (e - f - k) neg

/-- Division (R134, R177). -/
def vdiv : Val → Val → Val
  | .nan, _ => .nan
  | _, .nan => .nan
  | .inf _, .inf _ => .nan
  | .inf a, .fin b _ _ => .inf (a != b)
  | .fin a _ _, .inf b => vzero (a != b)
  | .fin a m e, .fin b n f =>
    if n = 0 then (if m = 0 then .nan else .inf (a != b))
    else if m = 0 then vzero (a != b)
    else magDiv (a != b) m e n f

/-- Square root (R177). -/
def vsqrt : Val → Val
  | .nan => .nan
  | .inf n => if n then .nan else .inf false
  | .fin n m e =>
    if m = 0 then vzero n
    else if n then .nan
    else
      let k : Nat := 130 + (if e % 2 = 0 then 0 else 1)
      let a := m * 2 ^ k
      let r := isqrt a
      jam r (decide (r * r = a)) ((e - k) / 2) false

/-- Reciprocal square root (R177). -/
def vrsqrt : Val → Val
  | .nan => .nan
  | .inf n => if n then .nan else vzero false
  | .fin n m e =>
    if m = 0 then .inf n
    else if n then .nan
    else
      -- 1 / √(m × 2 ^ e) = √(2 ^ k / m) × 2 ^ (−(k + e) / 2), with k + e even
      let k0 : Nat := 132 + 2 * Nat.log2 m
      let k := if (k0 + e) % 2 = 0 then k0 else k0 + 1
      let r := isqrt (2 ^ k / m)
      jam r (decide (r * r * m = 2 ^ k)) (-((k + e) / 2)) false

/-- Reciprocal (R177). -/
def vrcp (v : Val) : Val := vdiv (.fin false 1 0) v

/-- One fused multiply-add, exact before its rounding. -/
def vfma (a b c : Val) : Val := vadd (vmul a b) c

/-- Binary32 or binary64 bits to a value, with the flush of R131. -/
def ofBits (wide : Bool) (w : W64) : Val :=
  if wide then decodeElem 0 w.toNat else decodeElem 1 (w.toNat % 2 ^ 32)

/-- A value of a working format as bits. -/
def toBits (wide : Bool) (v : Val) : W64 := BitVec.ofNat 64 (encodeF (wfmt wide) v)

end Sys2Proof.Machine
end

