-- ==== Sys2Proof/Machine/State.lean ====
section
/-! DEFINITION. The state of the device as plain data. Every field's comment gives its width, the rule of the spec that
names it and its value at reset. Arrays of the device are sparse tables whose default is the entry's reset value. Field
values are numbers where the spec counts, words where software reads or writes a word whole. -/

namespace Sys2Proof.Machine

/-- Clocks, the cue counter and the module law of the DVFS step. -/
structure Clock where
  /-- cue counter; 64 bits; R40, R43 (CUE_COUNT); reset 0 -/
  cue : Nat := 0
  /-- the counter is stopped, every partition being in IDLE or deeper; 1 bit; R40; reset 0 (DESIGN CHOICE, log 4) -/
  stopped : Bool := false
  /-- cues for which no command has been in progress and every partition is IDLE or deeper; R40; reset 0 (DESIGN CHOICE, log 4) -/
  quiet : Nat := 0
  /-- idle ticks counted while the counter is stopped; R42; reset 0 -/
  ticks : Nat := 0
  /-- idle ticks since reset; R42; reset 0 -/
  idle : Nat := 0
  /-- cues since the last house-cycle boundary, by DVFS step; R24, R59; reset none -/
  cycleCues : Table Nat := []
  /-- ACLK was restarted by a take at an idle tick and the first boundary has not come yet; R42; reset 0 -/
  restarting : Bool := false
  /-- house-cycle boundary reached whose work has not run yet; R40; reset 0 -/
  houseCycleDue : Bool := false
  /-- the call point of the cue has passed; R44; reset 0 -/
  called : Bool := false
  /-- DVFS step in force; 4 bits; R43 CLOCK_STATUS.STEP, R60; reset 10 -/
  aclk : Nat := 10
  /-- DVFS step of the cue before; R440; reset 10 -/
  aclkPrev : Nat := 10
  /-- step the house has decided; 4 bits; R43 STEP_TARGET; reset 10 -/
  aclkTarget : Nat := 10
  /-- boundary at which the decided ACLK step takes effect; R60; reset none -/
  aclkDue : Option Nat := none
  /-- PCLK step in force; 3 bits; R446, R453; reset 4 -/
  pclk : Nat := 4
  /-- decided PCLK step; 3 bits; R446; reset 4 -/
  pclkTarget : Nat := 4
  /-- boundary at which the decided PCLK step takes effect; R447; reset none -/
  pclkDue : Option Nat := none
  /-- ACLK ceiling; 4 bits; R449, R453; reset 15 -/
  aclkMax : Nat := 15
  /-- PCLK ceiling; 3 bits; R449, R453; reset 7 -/
  pclkMax : Nat := 7
  /-- shed input asserted; 1 bit; R43 SHED, R450; reset 0 -/
  shed : Bool := false
  /-- coolant flow low; 1 bit; R436, R453 FLOW_LOW; reset 0 -/
  flowLow : Bool := false
  /-- consecutive over cues; R447; reset 0 -/
  overCount : Nat := 0
  /-- consecutive under cues; R447; reset 0 -/
  underCount : Nat := 0
  /-- first cue the law counts; R447 item 4; reset 0 -/
  lawFrom : Nat := 0
  /-- cue master, the lowest-numbered hub in service; 3 bits; R39; reset 0 -/
  cueMaster : Nat := 0
deriving DecidableEq, Repr

/-- A die as the wardens see it (numbered as THERMAL_STATUS numbers dies). -/
structure Die where
  /-- power has been removed or never applied; R15, R438; reset 0 for the table's default -/
  unpowered : Bool := false
  /-- count of cues and idle ticks at which the die was powered, while its full-load period of 64 cues runs; R439; reset none -/
  fullFrom : Option Nat := none
  /-- cue of the trip that removed its power; R454; reset none -/
  tripped : Option Nat := none
  /-- hottest corrected reading, units of 0.125 °C; R438, R453; reset 0 -/
  temp : Int := 0
  /-- energy of the last cue that is shared among runs (hub without its core counters, stack); R444; reset 0 -/
  pool : Nat := 0
  /-- estimate of the last cue, units of 2^-10 µJ; R438; reset 0 -/
  energy : Nat := 0
  /-- power estimate of the last cue, units of 2^-22 W; R438; reset 0 -/
  watts : Nat := 0
  /-- cue of the last estimate, plus one; R440; reset 0 -/
  estCue : Nat := 0
  /-- a hub or stack tripped and its recheck after 1 ms is due; R452; reset 0 -/
  recheck : Bool := false
  /-- the die failed; R31, R452; reset 0 -/
  failed : Bool := false
  /-- code of the die's latest event; 6 bits; R491; reset 0 -/
  event : Nat := 0
deriving DecidableEq, Repr

/-- The understudies of the default tile map are not powered (R15). -/
def spareDies : Table Die :=
  [9, 19, 29, 39, 49, 59, 69, 79].map (fun n => (n, { unpowered := true }))

/-- Power, temperature and calibration. -/
structure Power where
  /-- module cap, W; 16 bits; R449, R453 CAP_W; reset 5,000 -/
  cap : Nat := 5000
  /-- thermal limit, °C; 8 bits; R449, R453 T_LIM_C; reset 105 -/
  tLim : Nat := 105
  /-- module estimate of the last evaluated cue, W; 16 bits; R453 EST_W; reset 0 -/
  est : Nat := 0
  /-- dies 0–105; R438, R453; reset all at their defaults -/
  dies : Table Die := spareDies
  /-- measured busbar power, W; 16 bits; R453 INPUT_W; reset 0 -/
  inputW : Nat := 0
  /-- coolant supply, °C; 8 bits; R453; reset 0 -/
  inlet : Nat := 0
  /-- coolant return, °C; 8 bits; R453; reset 0 -/
  outlet : Nat := 0
  /-- coolant flow, 0.1 L/min; 8 bits; R453; reset 0 -/
  flow : Nat := 0
  /-- thermal trips since cold reset, saturating; 16 bits; R453; reset 0 -/
  trips : Nat := 0
  /-- module energy since cold reset, units of 2^-10 µJ; R443, R445 MODULE_ENERGY; reset 0 -/
  energy : Nat := 0
  /-- user calibration offsets as stored (8-bit signed pattern), keyed by CALIBRATE word 1 without its offset; R441, R488; reset 0 -/
  offsets : Table Nat := []
  /-- offsets in use: power weights since the last house-cycle boundary, temperatures since the last boundary, presets and trims since the last bring-up or training; R441; reset 0 -/
  inUse : Table Nat := []
deriving DecidableEq, Repr

/-- One direction of a truss link. -/
structure Flits where
  /-- errored flits in this house cycle; R24; reset 0 -/
  errored : Nat := 0
  /-- successive retries of the flit being retried; R24; reset 0 -/
  retries : Nat := 0
  /-- sequence number of the flit being retried; 8 bits; R23; reset 0 -/
  bad : BitVec 8 := 0
  /-- sequence number of the sender's next new flit; 8 bits; R22, R23; reset 0 -/
  send : BitVec 8 := 0
  /-- sequence number of the flit that the receiver accepts next; 8 bits; R22, R23; reset 0 -/
  expect : BitVec 8 := 0
  /-- replay buffer: sequence number and 128 bytes of each flit sent and not acknowledged, oldest first, at most 64; R23; reset empty -/
  replay : List (BitVec 8 × BitVec 1024) := []
  /-- flits of the replay buffer sent since it was last gone back to; R23; reset 0 -/
  cursor : Nat := 0
  /-- the receiver discards every flit until the first bad one is resent; R23; reset 0 -/
  discard : Bool := false
deriving DecidableEq, Repr

/-- A truss link (R21). -/
structure Truss where
  /-- direction 0; R21; reset default -/
  a : Flits := {}
  /-- direction 1; R21; reset default -/
  b : Flits := {}
  /-- the house's epoch of the link; 16 bits; R28; reset 0 -/
  epoch : Nat := 0
  /-- training record of the end named first in R21; 64 bits; R28; reset 0 -/
  endA : W64 := 0
  /-- training record of the other end; 64 bits; R28; reset 0 -/
  endB : W64 := 0
  /-- the link is declared failed or held down; R24, R29; reset 0 -/
  failed : Bool := false
  /-- case of R24 of the failure (1–4), 0 none; R24, R492; reset 0 -/
  case : Nat := 0
  /-- the failure has not taken effect yet; R26; reset 0 -/
  pending : Bool := false
deriving DecidableEq, Repr

/-- The panel: tile map, truss, hubs and the FOH pair. -/
structure Panel where
  /-- active tile-map word of each bay; 64 bits; R16 TILE_MAP_ACTIVE; reset from flash or fuses (DESIGN CHOICE, log 5: index i in slot i, understudy slot 9) -/
  mapActive : Table W64 := []
  /-- word stored by TILE_MAP since the bay's last reset; 64 bits; R16, R18 TILE_MAP_PENDING; reset none -/
  mapPending : Table (Option W64) := []
  /-- positions out of service; R15, R27; reset none -/
  posOut : Table Bool := []
  /-- truss links 0–175; R21, R28; reset default -/
  truss : Table Truss := []
  /-- hubs that have failed; R31; reset none -/
  hubFailed : Table Bool := []
  /-- FOH dies that have failed; R34; reset none -/
  fohFailed : Table Bool := []
  /-- primary FOH; 1 bit; R32, R498; reset 0 -/
  primary : Nat := 0
  /-- the mirror link is down; R34, R491; reset 0 -/
  mirrorDown : Bool := false
  /-- heartbeats of each FOH missed in succession; R34; reset 0 -/
  missed : Table Nat := []
  /-- module parts that reported a fault: bit 0 regulator, 1 reference oscillator, 2 resonator, 3 flash, 4 sensor; 5 bits; R36, R491; reset 0 -/
  partFaults : Nat := 0
deriving DecidableEq, Repr

/-- A resident script (R94, R97). -/
structure Script where
  /-- the slot holds a script that is not unloaded; R97, R116; reset 0 -/
  used : Bool := false
  /-- GENERATION; 8 bits; R97, R116; reset 0 -/
  gen : Nat := 0
  /-- the slot was given out before, so that its next use increments GENERATION; R97; reset 0 -/
  reused : Bool := false
  /-- owning context; 12 bits; R116; reset 0 -/
  ctx : Nat := 0
  /-- steps of the plan; R97, R106; reset empty -/
  steps : List PlanStep := []
  /-- PRIORITY; 3 bits; R89; reset 0 -/
  prio : Nat := 0
  /-- TAG; 32 bits; R66, R121; reset 0 -/
  tag : Nat := 0
  /-- CRC-32C of the play; 32 bits; R121; reset 0 -/
  crc : Nat := 0
  /-- node records, one list of 8 words each; R75; reset empty -/
  nodes : List (List W64) := []
  /-- tensor records, 16 words each; R67; reset empty -/
  tensors : List (List W64) := []
  /-- tensors that each node reads, and those it writes, a KERNEL by its use list; R70, R82, R88; reset empty -/
  uses : List (List Nat × List Nat) := []
  /-- house granules holding INTERNAL tensors; R101; reset empty -/
  granules : List Nat := []
  /-- physical pieces of INTERNAL tensors, elements then scales, by tensor number; R73, R101; reset empty -/
  places : List (Nat × List (Nat × Nat)) := []
  /-- regions of the tile stores (logical tile, first byte, length); R94, R123; reset empty -/
  regions : List (Nat × Nat × Nat) := []
  /-- how the records of weight updates stand in their tensors; R79, R186; reset empty -/
  linear : List LinearMap := []
  /-- number of its plan among the plans made (the model's own, log 114); R96, R122; reset 0 -/
  made : Nat := 0
  /-- the unloads of the script that were started and wait (queue, entry of the PLAY_UNLOAD); R117; reset empty -/
  unloading : List (Nat × Nat) := []
deriving DecidableEq, Repr

/-- A run on the run list of a partition (R108, R112). -/
structure Run where
  /-- number of the run within the partition; R112 -/
  id : Nat := 0
  /-- queue of its PLAY_RUN; R108 -/
  queue : Nat := 0
  /-- ring entry of its PLAY_RUN; R108 -/
  idx : Nat := 0
  /-- context; R113 -/
  ctx : Nat := 0
  /-- script slot; R112 -/
  slot : Nat := 0
  /-- priority; R108 -/
  prio : Nat := 0
  /-- cue in which the call desk sampled the PLAY_RUN; R108 -/
  sampled : Nat := 0
  /-- next step to be placed; R109 -/
  next : Nat := 0
  /-- positions waited without placing a step; R108 -/
  waited : Nat := 0
  /-- first entry has started; R58 -/
  begun : Bool := false
  /-- last step has left force; R113 -/
  left : Bool := false
  /-- hold cues counted; R58 -/
  holds : Nat := 0
  /-- energy attributed, units of 2^-10 µJ; R444, R445 -/
  energy : Nat := 0
  /-- nodes whose work is complete; R75, R87, R88 -/
  done : List Nat := []
  /-- nodes whose work was complete at the last boundary; R88 -/
  ready : List Nat := []
  /-- transfers of the run that leave the partition and are not yet delivered or dropped; R88, R113 -/
  xfers : List Nat := []
deriving DecidableEq, Repr

/-- A placed step: run, step number (R109). -/
abbrev Placed := Nat × Nat

/-- A position of the running order with the steps placed there. -/
structure Position where
  /-- running-order position; R108 -/
  pos : Nat := 0
  /-- steps placed; R109 -/
  steps : List Placed := []
  /-- its entries stand in the program memories; R110 -/
  written : Bool := false
deriving DecidableEq, Repr

/-- A hold-log entry (R58): cue counter, position, mask of late logical tiles. -/
structure HoldEntry where
  cue : Nat
  pos : Nat
  tiles : Nat
  /-- steps in force, for the attribution of R120 -/
  steps : List (Nat × Nat × Nat)
deriving DecidableEq, Repr

/-- A hold history (R120, R121). -/
structure History where
  tag : Nat
  crc : Nat
  bays : Nat
  runs : Nat
  /-- step number, attributed holds -/
  holds : List (Nat × Nat)
  /-- numbers, among the plans made, of the plan of the last run recorded and of the first (R122) -/
  prior : Nat
  base : Nat
deriving DecidableEq, Repr

/-- The verdict of a partition for its next boundary (R55). -/
inductive Verdict where
  | reset
  | hold
  | idle
  | advance
deriving DecidableEq, Repr

/-- The kind of the cue in progress (R44). -/
inductive CueKind where
  | advance
  | hold
  | idle
deriving DecidableEq, Repr

/-- A partition definition as PARTITION_SET gives it (R482). -/
structure Shape where
  /-- the partition is defined; R482 -/
  defined : Bool := false
  /-- FIRST_BAY; 3 bits; R482, R484 -/
  first : Nat := 0
  /-- SIZE_LOG; 2 bits; R482, R484 -/
  sizeLog : Nat := 0
  /-- BINDING; 2 bits; R482, R484 -/
  binding : Nat := 0
  /-- SCRATCH; 4 bits; R482, R484 -/
  scratch : Nat := 0
  /-- CORE_CONTEXT; 12 bits; R482, R483 -/
  coreCtx : Nat := 0
deriving DecidableEq, Repr

/-- What a plan is a function of (R96): the play's bytes, whether sums follow R144 (log 114), the partition's shape, the active map
words of its bays, its tiles in service, where each page of the play's EXTERNAL tensors lies, and the hold history. -/
structure PlanKey where
  play : List Byte
  legacy : Bool
  shape : Shape
  maps : List W64
  serving : List Nat
  pages : List (Nat × Option Nat)
  history : Option History
deriving DecidableEq, Repr

/-- A plan made: what it was made from, and its steps, the places of work lists apart (R96). -/
structure Made where
  key : PlanKey
  steps : List PlanStep
deriving DecidableEq, Repr

/-- A step that was in force in a cue, for the attribution of its energy: run, queue of its PLAY_RUN, claim (R444). -/
structure Share where
  run : Nat
  queue : Nat
  claim : Claim
deriving DecidableEq, Repr

/-- A partition's running order and run list. -/
structure Order where
  /-- position in force; R108; reset 0 -/
  pos : Nat := 0
  /-- advance cues since the order began, the next position to come into force; R54; reset 0 -/
  entered : Nat := 0
  /-- the entry in force was not written at its boundary (program underrun); R54; reset 0 -/
  under : Bool := false
  /-- the entries of an entry in underrun have been written since; R54; reset 0 -/
  mended : Bool := false
  /-- an entry is in force; R56; reset 0 -/
  live : Bool := false
  /-- steps in force; R109; reset empty -/
  inForce : List Placed := []
  /-- steps in force in the cue before, or in an idle cue those whose chain runs on; R61, R444; reset empty -/
  prev : List Share := []
  /-- steps in force in this cue as `prev` will hold them; R444; reset empty -/
  now : List Share := []
  /-- positions fixed ahead, lowest first; R110; reset empty -/
  fixed : List Position := []
  /-- next position the composer fixes; R109; reset 0 -/
  nextPos : Nat := 0
  /-- kind of the cue in progress; R44; reset advance -/
  kind : CueKind := .advance
  /-- verdict formed for the next boundary; R55; reset none -/
  verdict : Option Verdict := none
  /-- logical tiles that reported LATE at the last call point, as a mask; 72 bits; R44, R58; reset 0 -/
  late : Nat := 0
  /-- consecutive hold cues of the entry in force; R57; reset 0 -/
  holdCount : Nat := 0
  /-- run list; R108; reset empty -/
  runs : List Run := []
  /-- number the next run takes; R112; reset 0 -/
  nextRun : Nat := 0
  /-- hold log, oldest first; R58; reset empty -/
  log : List HoldEntry := []
  /-- hold histories, last used last, at most 4,096; R121; reset empty -/
  histories : List History := []
  /-- loads and unloads taken and not carried out, oldest first (queue, ring entry); R95; reset empty -/
  loads : List (Nat × Nat) := []
deriving DecidableEq, Repr

/-- A partition (0–7). -/
structure Partition where
  /-- STATE; 2 bits; R484 PARTITION; reset from flash (DESIGN CHOICE, log 6: undefined) -/
  state : Nat := 0
  /-- the shape in force; R482, R484; reset from flash (DESIGN CHOICE, log 6: none) -/
  shape : Shape := {}
  /-- the shape that the pending reset brings in; R482; reset none -/
  newShape : Option Shape := none
  /-- RESETS, saturating; 16 bits; R484; reset 0 -/
  resets : Nat := 0
  /-- a reset is pending, with its cause code; R55, R506; reset none -/
  resetCause : Option Nat := none
  /-- the reset has begun at a boundary; R55 row 1; reset 0 -/
  resetBegun : Bool := false
  /-- commands that complete when the partition leaves reset (queue, ring entry); R482, R485; reset empty -/
  waiters : List (Nat × Nat) := []
  /-- power state: 0 ACTIVE, 1 IDLE, 2 NAP, 3 OFF; 2 bits; R453, R455; reset 0 -/
  power : Nat := 0
  /-- commands of POWER_STATE ACTIVE that wait for the first cue (queue, ring entry); R487; reset empty -/
  wakers : List (Nat × Nat) := []
  /-- consecutive cues of empty entries with no command started; R455; reset 0 -/
  emptyCues : Nat := 0
  /-- partition cap, W; 16 bits; R449, R453; reset 0 -/
  cap : Nat := 0
  /-- dilution level L; 3 bits; R451, R453; reset 0 -/
  level : Nat := 0
  /-- level in force from the boundary after the decision; R451; reset 0 -/
  levelDue : Option Nat := none
  /-- AT_LIMIT; 1 bit; R451, R453; reset 0 -/
  atLimit : Bool := false
  /-- partition estimate, W; 16 bits; R453; reset 0 -/
  est : Nat := 0
  /-- consecutive cues over the cap; R451; reset 0 -/
  overCount : Nat := 0
  /-- consecutive cues at most 95 % of the cap; R451; reset 0 -/
  underCount : Nat := 0
  /-- first cue that counts after a decision; R447, R451; reset 0 -/
  lawFrom : Nat := 0
  /-- advance cues since the last idle cue, or since the level rose from 0; R451; reset 0 -/
  advances : Nat := 0
  /-- an idle cue is pending; R451, R55; reset 0 -/
  idlePending : Bool := false
  /-- energy since the last reset, units of 2^-10 µJ; R444; reset 0 -/
  energy : Nat := 0
  /-- running order and run list; R108; reset default -/
  order : Order := {}
  /-- resident scripts by slot; R97; reset none -/
  scripts : Table Script := []
  /-- slots freed, longest ago first; R116; reset empty -/
  freed : List Nat := []
deriving DecidableEq, Repr

/-- A context state (R370). -/
inductive CtxState where
  | free
  | live
  | lost
deriving DecidableEq, Repr

/-- The fault record of a context (R501): its fields; bit masks as numbers. -/
structure FaultRecord where
  /-- VALID; R501; reset 0 -/
  valid : Bool := false
  /-- STATUS; 16 bits; R501; reset 0 -/
  status : Nat := 0
  /-- CAUSE; 8 bits; R501, R245; reset 0 -/
  cause : Nat := 0
  /-- AGENT; 12 bits; R501, R332; reset 0 -/
  agent : Nat := 0
  /-- CUE; 64 bits; R501; reset 0 -/
  cue : Nat := 0
  /-- ADDRESS; 64 bits; R501, R502; reset 0 -/
  address : W64 := 0
  /-- WHERE; 64 bits; R501; reset 0 -/
  whereAt : W64 := 0
  /-- HOUSE; 1 bit; R501; reset 0 -/
  house : Bool := false
  /-- UNIT_MASK; 28 bits; R501; reset 0 -/
  units : Nat := 0
  /-- TILES; 72 bits; R501; reset 0 -/
  tiles : Nat := 0
  /-- HUBS; 8 bits; R501; reset 0 -/
  hubs : Nat := 0
  /-- MERGED, saturating; 16 bits; R501; reset 0 -/
  merged : Nat := 0
deriving DecidableEq, Repr

/-- A context (1–4,095; context 0 is the house, R370). -/
structure Context where
  /-- state; R370; reset free -/
  st : CtxState := .free
  /-- partition; 3 bits; R371; reset 0 -/
  part : Nat := 0
  /-- binding: 0 host port 0, 1 host port 1, 2 application cores; R371; reset 0 -/
  binding : Nat := 0
  /-- LEGACY_ORDER; 1 bit; R371, R144; reset 0 -/
  legacy : Bool := false
  /-- DEBUG; 1 bit; R371; reset 0 -/
  debug : Bool := false
  /-- SEED; 64 bits; R371, R148; reset 0 -/
  seed : W64 := 0
  /-- physical address of the root table node; 48 bits; R309, R312; reset 0 -/
  root : Nat := 0
  /-- house granules that hold its table nodes, with the 64 KiB nodes used in each; R312; reset empty -/
  nodes : List (Nat × Nat) := []
  /-- fault that has arisen and whose loss has not taken effect; R330, R332; reset none -/
  fault : Option FaultRecord := none
  /-- agents that faulted in the recorded cue, for the masks of the record; R332, R501; reset empty -/
  agents : List Nat := []
  /-- FAULT_RECORD; 64 bytes; R501; reset 0 -/
  record : FaultRecord := {}
  /-- energy since creation, units of 2^-10 µJ; R444; reset 0 -/
  energy : Nat := 0
deriving DecidableEq, Repr

/-- The outcome of a command whose record is not written yet. -/
structure Done where
  /-- boundary at which the record is written; R380, R384 -/
  due : Nat
  /-- STATUS; 16 bits; R384 -/
  status : Nat
  /-- RESULT; 64 bits; R384, R386 -/
  result : W64
  /-- HOLDS before saturation; R58, R384 -/
  holds : Nat
  /-- ENERGY, units of 2^-10 µJ; R443, R445 -/
  energy : Nat
  /-- MISMATCH; R347, R384 -/
  mismatch : Bool
  /-- FAULT; R373, R384 -/
  fault : Bool
deriving DecidableEq, Repr

/-- A command taken from a ring and not completed (R378–R380). -/
structure Cmd where
  /-- count of ring entries before it since the ring was started; R378, R379 -/
  idx : Nat := 0
  /-- ring entries it occupies; 1–4; R378 -/
  entries : Nat := 1
  /-- words of the packet; R381 -/
  words : List W64 := []
  /-- boundary at which it was taken; R379, R380 -/
  taken : Nat := 0
  /-- boundary at which it started; R380 -/
  started : Option Nat := none
  /-- progress of a command that takes more than one step: 0 not begun; the row's own stages follow -/
  stage : Nat := 0
  /-- bytes of host memory read for the command, by byte offset of its source, or the data that travels with it between the
  jack and its sender; R65, R474, R479, R489 -/
  got : Table (List Byte) := []
  /-- host reads of the command are outstanding or done; R364 -/
  asked : Bool := false
  /-- last fence value read by a wait; 64 bits; R386, R390 -/
  last : W64 := 0
  /-- energy attributed to the command, units of 2^-10 µJ; R444, R445 -/
  energy : Nat := 0
  /-- object whose device count holds this MAP; R398 -/
  counted : Option Nat := none
  /-- it counts as complete for the order of its queue (OBJ_RELEASE, house ABORT); R399, R403 -/
  passed : Bool := false
  /-- outcome, when its record is due; R384 -/
  fin : Option Done := none
deriving DecidableEq, Repr

/-- A queue (0–1,023; 1,024 stands for the management jack, R478). -/
structure Queue where
  /-- the queue exists; R374; reset 0 (queues 0 and 1 are always present) -/
  used : Bool := false
  /-- its context; 12 bits; R376; reset 0 -/
  ctx : Nat := 0
  /-- KIND: 0 compute, 1 copy, 2 house; R374, R376; reset 0 -/
  kind : Nat := 0
  /-- binding of its context; R374; reset 0 -/
  binding : Nat := 0
  /-- ring size is 2^(ORDER + 6); 4 bits; R376; reset 0 -/
  ord : Nat := 0
  /-- RING_VA; 55 bits; R376; reset 0 -/
  ring : Nat := 0
  /-- DONE_VA; 55 bits; R376; reset 0 -/
  doneVa : Nat := 0
  /-- INT_EN; R376; reset 0 -/
  intEn : Bool := false
  /-- CORE; 7 bits; R376; reset 0 -/
  core : Nat := 0
  /-- VECTOR; 11 bits; R376; reset 0 -/
  vector : Nat := 0
  /-- LINE; 4 bits; R376; reset 0 -/
  line : Nat := 0
  /-- TAIL_VA; 55 bits; R376; reset 0 -/
  tailVa : Nat := 0
  /-- callboard entry as last written; 64 bits; R352; reset 0 -/
  tail : W64 := 0
  /-- callboard entry as last taken, which a read returns; 64 bits; R352; reset 0 -/
  tailTaken : W64 := 0
  /-- entries taken since the ring was started; R379; reset 0 -/
  taken : Nat := 0
  /-- host reads outstanding for ring entries announced up to this count; R379; reset 0 -/
  seen : Nat := 0
  /-- accepted tails with the boundary that took each, oldest first; R379; reset empty -/
  marks : List (Nat × Nat) := []
  /-- words of ring entries read and not yet joined to a command, by ring entry count; R379; reset empty -/
  buffer : Table (List W64) := []
  /-- commands taken and not completed, in ring order; R380; reset empty -/
  cmds : List Cmd := []
  /-- records written of late: SEQUENCE, STATUS, cue; what ABORT reports of a target that has completed; R386, R404; reset empty -/
  recent : List (Nat × Nat × Nat) := []
  /-- later tails are ignored (a QUEUE_DESTROY is in progress); R376; reset 0 -/
  closing : Bool := false
  /-- energy since creation, units of 2^-10 µJ; R401, R444; reset 0 -/
  energy : Nat := 0
deriving DecidableEq, Repr

/-- A memory object's record (R396). -/
structure Obj where
  /-- STATE; 2 bits; R396; reset 0 -/
  state : Nat := 0
  /-- SHARED; R396; reset 0 -/
  shared : Bool := false
  /-- CREATOR; 12 bits; R396; reset 0 -/
  creator : Nat := 0
  /-- STACKS; 16 bits; R396; reset 0 -/
  mstacks : Nat := 0
  /-- BINDING; 2 bits; R396; reset 0 -/
  binding : Nat := 0
  /-- granule numbers of the object in order (GRANULES is its length); R395, R396; reset empty -/
  granules : List Nat := []
  /-- 64 KiB pages of the object that a load has moved: page of the object, physical page; R99; reset empty -/
  moved : List (Nat × Nat) := []
  /-- HOST_COUNT; 64 bits; R396; reset 0 -/
  hostCount : W64 := 0
  /-- pages mapped, second term of DEVICE_COUNT; R398; reset 0 -/
  pages : Nat := 0
  /-- MAP commands taken and not completed, first term; R398; reset 0 -/
  maps : Nat := 0
  /-- GENERATION; 32 bits; R396; reset 0 -/
  gen : Nat := 0
  /-- partition of the creator; R395; reset 0 -/
  part : Nat := 0
  /-- boundary at which the release started; R399; reset 0 -/
  released : Nat := 0
  /-- both counts were 0 at the release's start; R399; reset 0 -/
  zeroAtStart : Bool := false
  /-- the OBJ_RELEASE that waits (queue, ring entry); R399; reset none -/
  waiter : Option (Nat × Nat) := none
deriving DecidableEq, Repr

/-- A receive window (R400, R424). -/
structure Window where
  /-- open; R424; reset 0 -/
  opened : Bool := false
  /-- boundary of the completion of its WINDOW_OPEN: packets checked after it find the window open; R424; reset 0 -/
  openFrom : Nat := 0
  /-- boundary at which a WINDOW_CLOSE takes effect; R425; reset none -/
  closeAt : Option Nat := none
  /-- context that opened it; R400; reset 0 -/
  ctx : Nat := 0
  /-- VA of its range; 55 bits; R400; reset 0 -/
  va : Nat := 0
  /-- size in bytes; R400; reset 0 -/
  size : Nat := 0
  /-- READ; R400; reset 0 -/
  read : Bool := false
  /-- WRITE; R400; reset 0 -/
  write : Bool := false
  /-- ATOMIC; R400; reset 0 -/
  atomic : Bool := false
  /-- EPOCH in use, and after the close the last epoch used; 16 bits; R400, R424; reset 0 -/
  epoch : Nat := 0
  /-- GID_LO; 24 bits; R400; reset 0 -/
  lo : Nat := 0
  /-- GID_HI; 24 bits; R400; reset 0 -/
  hi : Nat := 0
deriving DecidableEq, Repr

/-- A send slot (R316). -/
structure SendSlot where
  /-- VALID; R316; reset 0 -/
  valid : Bool := false
  /-- OWNER; 12 bits; R316; reset 0 -/
  owner : Nat := 0
  /-- GID; 24 bits; R316; reset 0 -/
  gid : Nat := 0
  /-- WINDOW; 12 bits; R316; reset 0 -/
  window : Nat := 0
  /-- EPOCH; 16 bits; R316; reset 0 -/
  epoch : Nat := 0
  /-- BASE; 40 bits; R316; reset 0 -/
  base : Nat := 0
  /-- pages mapped onto the slot; R315; reset 0 -/
  pages : Nat := 0
deriving DecidableEq, Repr

/-- The two words of a send slot, as both FOH dies hold them (R315, R316). -/
def SendSlot.words (d : SendSlot) : List W64 :=
  [(if d.valid then 1 <<< 63 else 0) ||| BitVec.ofNat 64 (d.owner % 4096 * 2 ^ 51 + d.gid % 2 ^ 24 * 2 ^ 24 + d.window % 4096 * 2 ^ 12),
   BitVec.ofNat 64 (d.epoch % 65536 * 2 ^ 48 + d.base % 2 ^ 40)]

/-- What asked for a read of host memory (R364). -/
inductive ReadFor where
  /-- ring entry `idx` of queue `q` (R379) -/
  | ring (q idx : Nat)
  /-- piece `k` of the transfer tile in progress of a job (R338) -/
  | tile (j : Job) (k : Nat)
  /-- a load of core `c` into its destination (R239) -/
  | core (c : Nat)
  /-- a load of threads of a group processor (R239) -/
  | gp (t g thread : Nat)
  /-- bytes at offset `off` of the source of the command in progress of queue `q`: a play (R65), a staged chunk (R474) or
  link credentials (R489) -/
  | cmd (q off : Nat)
deriving DecidableEq, Repr

/-- An outstanding device read of host memory. -/
structure HostRead where
  tag : Nat
  bus : Nat
  len : Nat
  ctx : Nat
  purpose : ReadFor
  /-- it has timed out once and was issued again; R365 -/
  again : Bool
deriving DecidableEq, Repr

/-- A posted write or message of a port to its host: bus address, bytes, Relaxed Ordering (R363). -/
structure Tlp where
  bus : Nat
  data : List Byte
  relaxed : Bool
  /-- an MSI-X message of this vector (R355) -/
  msix : Option Nat
deriving DecidableEq, Repr

/-- The completion of a host request to BAR0 or BAR2: 0 Successful, 1 Unsupported Request, 2 Completer Abort (R360). -/
structure Cpl where
  status : Nat
  data : List Byte
deriving DecidableEq, Repr

/-- An aperture entry (R357). -/
structure Aperture where
  /-- word 0; 64 bits; R357; reset 0 -/
  w0 : W64 := 0
  /-- word 1; 64 bits; R357; reset 0 -/
  w1 : W64 := 0
  /-- word 1 was last written with its reserved bit set, which an install refuses and a read does not show; 1 bit; R7, R358; reset false -/
  odd : Bool := false
deriving DecidableEq, Repr

/-- An MSI-X table entry (R351, R355; layout by PCI-SIG). -/
structure Msix where
  /-- message address; 64 bits; R351; reset 0 (PRESUMED, log 8) -/
  addr : W64 := 0
  /-- message data; 32 bits; R351; reset 0 (PRESUMED, log 8) -/
  data : BitVec 32 := 0
  /-- vector control, bit 0 mask; 32 bits; R355; reset 1 (PRESUMED, log 8) -/
  control : BitVec 32 := 1
  /-- pending bit; R355; reset 0 -/
  pend : Bool := false
deriving DecidableEq, Repr

/-- A host port. -/
structure Port where
  /-- LINK_UP; R354 PORT_STATUS; reset 0 -/
  linkUp : Bool := false
  /-- BUS_MASTER; R354; reset 0 -/
  busMaster : Bool := false
  /-- GEN; 4 bits; R354; reset 0 -/
  gen : Nat := 0
  /-- WIDTH; 8 bits; R354; reset 0 -/
  width : Nat := 0
  /-- HOLDING; R354, R367; reset 0 -/
  holding : Bool := false
  /-- CUES_HELD; 17 bits; R354, R367; reset 0 -/
  cuesHeld : Nat := 0
  /-- held writes in issue order; at most 4 MiB; R367; reset empty -/
  held : List Tlp := []
  /-- the device writes nothing to the host until Bus Master Enable is set with the link up; R368, R354; reset 1 (PRESUMED
  PCI-SIG, log 8) -/
  silent : Bool := true
  /-- the port's FOH failed: out of service until the module is replaced; R34, R369; reset 0 -/
  lost : Bool := false
  /-- PORT_EVENTS.REFUSED; 16 bits; R354; reset 0 -/
  refused : Nat := 0
  /-- PORT_EVENTS bits 3 PORT_LOST, 2 RESET_DISCARD, 1 LINK_RETURNED, 0 LINK_DOWN; 4 bits; R354; reset 0 -/
  events : Nat := 0
  /-- PORT_CTL; 64 bits; R354; reset 0 -/
  ctl : W64 := 0
  /-- the event vector was sent in this cue; R493, R355; reset 0 -/
  sentVecs : List Nat := []
  /-- aperture table entries 0–1,023; R357; reset 0 -/
  apertures : Table Aperture := []
  /-- APERTURE_STATUS.BUSY with the entry and, for an install, the word 0 written; R358; reset none -/
  apAction : Option (Nat × Option W64) := none
  /-- APERTURE_STATUS.RESULT; 3 bits; R358; reset 0 -/
  apResult : Nat := 0
  /-- APERTURE_STATUS.ENTRY; 10 bits; R358; reset 0 -/
  apEntry : Nat := 0
  /-- MSI-X table; R351, R355; reset masked (PRESUMED, log 8) -/
  msix : Table Msix := []
  /-- Function Mask; R355; reset 0 (PRESUMED, log 8) -/
  funcMask : Bool := false
  /-- HOUSE_RING; 64 bits; R375; reset 0 -/
  houseRing : W64 := 0
  /-- HOUSE_DONE; 64 bits; R375; reset 0 -/
  houseDone : W64 := 0
  /-- log2 of the BAR2 size; R349, R359; reset 30 (DESIGN CHOICE, log 9) -/
  bar2 : Nat := 30
  /-- the next write is issued without Relaxed Ordering after every earlier one; R363, R387; reset 0 -/
  orderNext : Bool := false
  /-- Max Payload Size the host programmed, bytes; R349, R364; reset 128 (PRESUMED, log 8) -/
  mps : Nat := 128
  /-- Max Read Request Size the host programmed, bytes; R349, R364; reset 512 (PRESUMED, log 8) -/
  mrrs : Nat := 512
  /-- queue that the call desk of this port's FOH served last; R380; reset 0 (DESIGN CHOICE, log 10) -/
  deskLast : Nat := 0
  /-- commands that call desk has started in this cue; R380; reset 0 -/
  deskCount : Nat := 0
  /-- outstanding device reads of host memory; R364; reset empty -/
  reads : List HostRead := []
  /-- tag of the next device read; 10 bits; R349; reset 0 -/
  nextTag : Nat := 0
  /-- writes and messages issued to the host, oldest first; R363, R364; reset empty -/
  out : List Tlp := []
  /-- completions returned to the host, oldest first; R360, R361; reset empty -/
  cpls : List Cpl := []
  /-- AER reports, oldest first: 0 correctable, 1 Unsupported Request, 2 Completer Abort, 3 completion timeout, 4 poisoned, 5 fatal; R365; reset empty -/
  aer : List Nat := []
deriving DecidableEq, Repr

/-- A channel of a stack (R280, R289–R300). -/
structure Channel where
  /-- lanes marked failed, as a mask of codeword positions 0–8; R288, R289; reset 0 -/
  marked : Nat := 0
  /-- codeword position the spare lane carries; R292; reset none -/
  spared : Option Nat := none
  /-- sweep counter j, mod 531; R295; reset 0 -/
  sweep : Nat := 0
  /-- cue of the channel's last dark period, from which the controller counts; R51; reset 0 -/
  darkAt : Nat := 0
  /-- next line to be scrubbed; R297; reset 0 -/
  scrub : Nat := 0
  /-- a lane test is due in the next dark period; R290; reset 0 -/
  testDue : Bool := false
  /-- single-bit corrections of each codeword position in this house cycle; R289; reset 0 -/
  corrections : Table Nat := []
  /-- row copies in progress, oldest first: (bank × 2^14 + layer × 2^10 + row, lines copied); R300; reset empty -/
  copies : List (Nat × Nat) := []
deriving DecidableEq, Repr

/-- An M-stack (0–15). -/
structure Stack where
  /-- STATE: 0 not trained, 1 in service, 2 failed, 3 self-refresh; 2 bits; R305; reset 0 -/
  state : Nat := 0
  /-- case of R304 of a failure that has not taken effect (1 training, 2 two lanes marked, 3 loss of lock, 4 supply);
  reset none -/
  lost : Option Nat := none
  /-- channels whose PHY lost lock in the cue `lockCue`; R304; reset empty -/
  lock : List Nat := []
  /-- cue of those losses of lock; R304; reset 0 -/
  lockCue : Nat := 0
  /-- channels 0–255; R280; reset default -/
  channels : Table Channel := []
  /-- SOFT_REMAPS before saturation; R305, R300; reset from flash (DESIGN CHOICE, log 7: 0) -/
  soft : Nat := 0
  /-- HARD_REPAIRS before saturation; R305, R301; reset from flash (DESIGN CHOICE, log 7: 0) -/
  hard : Nat := 0
  /-- RETIRED before saturation; R305, R301; reset from flash (DESIGN CHOICE, log 7: 0) -/
  retired : Nat := 0
  /-- bad rows without a free soft spare, deferred; R301; reset from flash (DESIGN CHOICE, log 7: none) -/
  deferred : List Nat := []
  /-- rows remapped to a soft spare; R300; reset from flash (DESIGN CHOICE, log 7: none) -/
  remapped : List Nat := []
  /-- soft spares used of each (channel, bank, layer); 0–32; R280, R300; reset 0 -/
  spares : Table Nat := []
  /-- hard-repair rows used of each (channel, bank, layer); 0–4; R280, R301; reset 0 -/
  repairs : Table Nat := []
  /-- reads that needed corrections of each row in this house cycle; R299; reset 0 -/
  rowCorr : Table Nat := []
deriving DecidableEq, Repr

/-- A table entry held in a translation cache (R317): the cache, the context, the level of its node, the virtual address without
the bits below that level's index, the entry word. -/
structure Tlb where
  stream : Nat
  ctx : Nat
  level : Nat
  page : Nat
  word : W64
deriving DecidableEq, Repr

/-- Memory, granules, stacks and translations. -/
structure Mem where
  /-- bytes of the device physical map at their home (stack or last-level memory data, scratchpad, tile stores); an unlisted byte reads 0; R291, R306; reset empty -/
  cells : List Host.Cell := []
  /-- uncorrectable 32-byte bursts, by burst number PA / 32; R302; reset empty -/
  bad : Table Bool := []
  /-- uncorrectable bursts whose loss has not taken effect, with the contexts whose requests got no data and their agents;
  R303, R503; reset empty -/
  badDue : List (Nat × List (Nat × Nat)) := []
  /-- ownership entries by granule number PA / 2 MiB; 16 bits; R324; reset 0 (free) -/
  owner : Table (BitVec 16) := []
  /-- M-stacks 0–15; R280, R305; reset default -/
  mstacks : Table Stack := []
  /-- translation caches; R317; reset empty -/
  tlb : List Tlb := []
  /-- free 64 KiB pages of granules owned by contexts (page number, owner); R99, R326; reset empty -/
  pages : Table Nat := []
deriving DecidableEq, Repr

/-- A coherent cache's state of a line (R265; I is absence). -/
inductive Mesi where
  | m
  | e
  | s
deriving DecidableEq, Repr

/-- A line in a cache. -/
structure Line where
  /-- line address, PA / 128; R251 -/
  line : Nat
  /-- state; R265 -/
  st : Mesi
  /-- 128 bytes, little-endian; R251 -/
  data : BitVec 1024
  /-- in a writeback buffer: a snoop has been answered from this copy, so that its PUT changes nothing; R265, R267; reset 0 -/
  taken : Bool := false
deriving DecidableEq, Repr

/-- A coherent request or drop (R265, R267). -/
inductive Req where
  | rdShared
  | rdOwn
  | ownNodata
  | upgrade
  | putS
  | putE
  | putM
deriving DecidableEq, Repr

/-- The requester of a line at its home: a coherent cache, or an uncached agent's access (R266). -/
inductive Asker where
  | cache (x : Nat) (r : Req)
  | read (c pa len : Nat)
  | write (c pa mask : Nat) (data : List Byte)
  | atomic (c pa op size : Nat) (operand comparand : W64)
deriving DecidableEq, Repr

/-- A directory entry (R261): STATE 1 SHARED, 2 OWNED, sharers as a mask of 200 bits, and, while BUSY, the request in
progress with the snoops that are not answered yet. -/
structure DirEntry where
  /-- OWNED rather than SHARED; R261; reset 0 -/
  owned : Bool := false
  /-- sharer mask; 200 bits; R259, R261; reset 0 (UNCACHED) -/
  sharers : Nat := 0
  /-- BUSY: request in progress; R261, R263; reset none -/
  busy : Option Asker := none
  /-- caches whose answers are awaited, with the snoop: 0 DOWNGRADE, 1 INVALIDATE, 2 READ_ONCE; R265; reset empty -/
  awaiting : List (Nat × Nat) := []
  /-- granted to this cache, the grant not taken yet: state and data; R265; reset none -/
  granted : Option (Nat × Mesi × Option (BitVec 1024)) := none
  /-- data an owner in M gave up for the requester, or dropped for an OWN_NODATA that is not granted yet; R267, R272; reset none -/
  data : Option (BitVec 1024) := none
  /-- allocation order of the entry; R264; reset 0 -/
  age : Nat := 0
deriving DecidableEq, Repr

/-- Threads or a core waiting for lines (R265). -/
structure Waiter where
  who : Agent
  threads : List Nat
  lines : List Nat
  /-- a core's instruction fetch waits, rather than its access; R253 -/
  fetch : Bool := false
deriving DecidableEq, Repr

/-- Caches and directory. -/
structure Coh where
  /-- tile L2s (sharers 0–71) and core L2s (72–199), most recently used line first; R251, R259; reset empty -/
  l2 : Table (List Line) := []
  /-- lines evicted and not acknowledged, by sharer; R265; reset empty -/
  wb : Table (List Line) := []
  /-- L1 data cache of each core, most recently used line first, with its dirty mark; the core L2 includes every line and holds
  its bytes; R251, R252; reset empty -/
  l1d : Table (List (Nat × Bool)) := []
  /-- L1 instruction cache of each core, most recently used line first; the same; R251, R252; reset empty -/
  l1i : Table (List Nat) := []
  /-- L1 of each GP (tile × 16 + gp), most recently used first; R215; reset empty -/
  l1 : Table (List (Nat × BitVec 1024)) := []
  /-- last-level cache of each hub: (line, dirty), most recently used first; R251, R257; reset empty -/
  llm : Table (List (Nat × Bool)) := []
  /-- stack contents of lines that are dirty in the last-level cache, by line; R277; reset empty -/
  stale : Table (Option (BitVec 1024)) := []
  /-- directory entries by line; R261; reset UNCACHED -/
  dir : Table DirEntry := []
  /-- requests waiting at the homes, oldest first, with their line; R263; reset empty -/
  queue : List (Nat × Asker) := []
  /-- next allocation order; R264; reset 0 -/
  age : Nat := 0
  /-- accesses waiting for grants; R265; reset empty -/
  waiters : List Waiter := []
  /-- answers to uncached requests of the message rows, oldest first; R268; reset empty -/
  replies : List (List Byte) := []
deriving DecidableEq, Repr

/-- A start of an engine unit that the cue program orders (R52). -/
structure Start where
  /-- tile-store offset of the work descriptor; R52 -/
  desc : Nat
  /-- run that owns the step; R109 -/
  run : Nat
  /-- position by whose call point the work must be done; R83, R103 -/
  last : Nat
  /-- node of the play; R75, R501 -/
  node : Nat
deriving DecidableEq, Repr

/-- An engine unit (28 × logical tile + unit, R52, R332). -/
structure EngUnit where
  /-- starts waiting for the list in progress to end; R168; reset empty -/
  waiting : List Start := []
  /-- list in progress; R155, R187, R197, R334; reset none -/
  cur : Option Start := none
  /-- CONTEXT of the list; R155; reset 0 -/
  ctx : Nat := 0
  /-- COUNT of the list; R155; reset 0 -/
  count : Nat := 0
  /-- LEGACY; R155; reset 0 -/
  legacy : Bool := false
  /-- DEBUG; R197; reset 0 -/
  debug : Bool := false
  /-- SEED; R187; reset 0 -/
  seed : W64 := 0
  /-- next record; R155; reset 0 -/
  recNo : Nat := 0
  /-- the record's stream is done and its ACC_OUT action is due; R157; reset 0 -/
  outDue : Bool := false
  /-- a fault stopped the unit's list: it starts nothing more until the loss of the context takes effect; R158, R191, R201; reset 0 -/
  broken : Bool := false
deriving DecidableEq, Repr

/-- An accumulator cell of one bank (R152, R162). -/
structure Cell where
  /-- chunk register T; binary32 in the low half, or binary64; R152; reset empty -/
  t : Option W64 := none
  /-- tree stack, levels 0–7 (lanes 0–3 under LEGACY); R152; reset empty -/
  stack : List (Option W64) := []
  /-- sum of the 256th chunk; R162; reset none -/
  root : Option W64 := none
deriving DecidableEq, Repr

/-- A bank of an MXE (R152). -/
structure Bank where
  /-- the bank holds state left by KEEP or being formed; R157; reset 0 -/
  held : Bool := false
  /-- context of the state; R169; reset 0 -/
  ctx : Nat := 0
  /-- position of K at which the state stopped; R158; reset 0 -/
  k : Nat := 0
  /-- position of K at which the sequence was FRESH; R157; reset 0 -/
  k0 : Nat := 0
  /-- blocks added since FRESH; R158, R162; reset 0 -/
  blocks : Nat := 0
  /-- cells by 128 × row + column; R152; reset empty -/
  cells : Table Cell := []
deriving DecidableEq, Repr

/-- A matrix engine (4 × tile + number). -/
structure Mxe where
  /-- bank 0; R152; reset default -/
  b0 : Bank := {}
  /-- bank 1; R152; reset default -/
  b1 : Bank := {}
  /-- sums of a COMBINE that go to the output pipeline; R165; reset empty -/
  sums : Table W64 := []
deriving DecidableEq, Repr

/-- A vector engine (4 × tile + number). -/
structure Vxe where
  /-- first record of the sequence in progress; R187; reset 0 -/
  seq : Nat := 0
  /-- strip in progress; R189; reset 0 -/
  strip : Nat := 0
  /-- vector registers, 2,048 × number + element; 32 bits; R171; reset 0 -/
  regs : Table (BitVec 32) := []
  /-- mask registers, 2,048 × number + element; R171; reset 0 -/
  masks : Table Bool := []
  /-- terms of the reduced set in progress of each record of the sequence; R180, R189; reset empty -/
  terms : Table (List (Option W64)) := []
deriving DecidableEq, Repr

/-- What a thread of a GP is doing (R205). -/
inductive ThreadSt where
  | ready
  | exited
  | memory
  | barBlock
  | barCluster
  | collective (pc mask : Nat)
deriving DecidableEq, Repr

/-- A thread position of a GP (R194, R224). -/
structure Thread where
  /-- g0–g63; 64 bits each; R224; reset 0 at release (R200) -/
  g : Table W64 := []
  /-- p0–p7; 8 bits; R224; reset 0 at release -/
  p : BitVec 8 := 0
  /-- program counter, byte offset in the code; 64 bits; R224; reset ENTRY at release -/
  pc : Nat := 0
  /-- status; R205; reset ready at release -/
  st : ThreadSt := .ready
  /-- data of a load from a host or another device that has arrived; R239; reset none -/
  arrived : Option (List Byte) := none
deriving DecidableEq, Repr

/-- The block of a GP (R198, R199). -/
structure Block where
  /-- CODE_AT; 32 bits; R198 -/
  codeAt : Nat := 0
  /-- CODE_BYTES; 32 bits; R198 -/
  codeBytes : Nat := 0
  /-- THREADS; R198 -/
  threads : Nat := 0
  /-- CLUSTER; R198 -/
  cluster : Nat := 0
  /-- RANK; R198 -/
  rank : Nat := 0
  /-- BLOCK; R198 -/
  block : Nat := 0
  /-- BLOCKS; R198 -/
  blocks : Nat := 0
  /-- LOCAL_BYTES; R198 -/
  localBytes : Nat := 0
  /-- RANK_GP; R198 -/
  rankGp : W64 := 0
  /-- NODE; R198 -/
  node : Nat := 0
deriving DecidableEq, Repr

/-- A group processor (16 × tile + number). -/
structure Gp where
  /-- a block is running; R199; reset 0 -/
  running : Bool := false
  /-- a trap stopped the block; R218; reset 0 -/
  stopped : Bool := false
  /-- block record in force; R198; reset default -/
  blk : Block := {}
  /-- threads 0–255; R194; reset default -/
  threads : Table Thread := []
  /-- last lead group; R205; reset 7 (DESIGN CHOICE, log 10: the round-robin begins at group 0) -/
  lead : Nat := 7
  /-- groups halted by a debugger, as a mask; 8 bits; R222; reset 0 -/
  halted : Nat := 0
  /-- groups that halt again after one issue, as a mask; 8 bits; R222; reset 0 -/
  stepping : Nat := 0
  /-- local memory; 192 KiB; R194; reset 0 at release (R200) -/
  mem : Table Byte := []
deriving DecidableEq, Repr

/-- A stream of bytes on its way (R335, R336, R391). -/
structure Transfer where
  /-- context of the work; R333 -/
  ctx : Nat := 0
  /-- SRC_KIND: 0 virtual address, 1 tile store, 2 pattern, 3 bytes in hand (no record has it); R335 -/
  srcKind : Nat := 0
  /-- DST_KIND: 0 virtual address, 1 tile store, 2 nothing (packets take the bytes); R335 -/
  dstKind : Nat := 0
  /-- CHECK_MODE as R344 orders the modes: 0 NONE, 1 APPEND, 2 VERIFY, 3 COMPUTE; R335, R391 -/
  mode : Nat := 0
  /-- POLY; R342 -/
  poly : Nat := 0
  /-- RUN_SAVE; R335 -/
  save : Bool := false
  /-- SRC_TILE; R335 -/
  srcTile : Nat := 0
  /-- DST_TILE; R335 -/
  dstTile : Nat := 0
  /-- SRC; 55 bits; R335 -/
  src : Nat := 0
  /-- DST; 55 bits; R335 -/
  dst : Nat := 0
  /-- COUNT[0–3]; R335 -/
  counts : List Nat := []
  /-- SRC_STRIDE[1–3]; R335 -/
  srcStride : List Int := []
  /-- DST_STRIDE[1–3]; R335 -/
  dstStride : List Int := []
  /-- PATTERN; R335 -/
  pattern : W64 := 0
  /-- RUN_AT; R335 -/
  runAt : Nat := 0
  /-- running check value; R343 -/
  running : Nat := 0
  /-- stream bytes moved; R338 -/
  at_ : Nat := 0
  /-- pieces of the tile in progress that come from a host or another device: bytes by offset in the tile, with their
  length (a refused piece has no bytes); none: not asked yet; R364, R420 -/
  fetch : Option (Table (Nat × List Byte)) := none
  /-- transfer over tenon links that carries the bytes written to other devices; R420; reset none -/
  xfer : Option Nat := none
  /-- transfer over tenon links that reads bytes of other devices; R420; reset none -/
  xferIn : Option Nat := none
  /-- the check value has been written or compared; R338, R341 -/
  checked : Bool := false
  /-- cue in which the last write was performed; R391; reset none -/
  ended : Option Nat := none
  /-- VERIFY found a difference; R344 -/
  mismatch : Bool := false
  /-- source tensor record of a transfer that leaves the partition, none otherwise; its elements, then its scales; R85 -/
  srcTensor : List W64 := []
  /-- destination tensor record of such a transfer; R85, R86 -/
  dstTensor : List W64 := []
  /-- bytes in hand of a transfer whose source is neither memory nor pattern: what a WINDOW_GET brought for a remote page; R86 -/
  hand : List Byte := []
  /-- physical pieces of an INTERNAL source of such a transfer; R73, R85 -/
  srcPlace : List (Nat × Nat) := []
  /-- physical pieces of an INTERNAL destination of such a transfer; R73, R85 -/
  dstPlace : List (Nat × Nat) := []
  /-- physical pieces of an INTERNAL CHECK_OUT of such a transfer; R73, R85 -/
  chkPlace : List (Nat × Nat) := []
  /-- stream bytes that the check unit takes, when not all; R85 -/
  checkLen : Option Nat := none
  /-- tile of the mover that moves a command; R345 -/
  tile : Nat := 0
deriving DecidableEq, Repr

/-- Engines of the tiles. -/
structure Engines where
  /-- engine units, 28 × tile + unit; R52; reset idle -/
  units : Table EngUnit := []
  /-- cue-program memory, 1,024 × sequencer (tile t is t, hub h is 72 + h) + position mod 1,024: 16 words; R52; reset empty -/
  prog : Table (List W64) := []
  /-- slot-run records, 32,768 × sequencer + program-memory offset of the first; R53; reset empty -/
  runs : Table (List W64) := []
  /-- allotment of each started unit of an entry, keyed as `prog`: (unit, run, last position, node); R103; reset empty -/
  allot : Table (List (Nat × Nat × Nat × Nat)) := []
  /-- matrix engines; R152; reset default -/
  mxe : Table Mxe := []
  /-- vector engines; R171; reset default -/
  vxe : Table Vxe := []
  /-- group processors; R194; reset default -/
  gp : Table Gp := []
  /-- transfers of scheduled movers, 4 × tile + mover; R335; reset none -/
  mover : Table (Option Transfer) := []
  /-- bytes that copy commands moved in this cue and in the one before: tile, queue, bytes; R437, R444; reset empty -/
  moved : List (Nat × Nat × Nat) := []
  /-- the same of the cue before; R444; reset empty -/
  movedPrev : List (Nat × Nat × Nat) := []
  /-- transfers of copy commands, by queue; R345; reset none -/
  copies : Table (Option Transfer) := []
  /-- GP_DEBUG_SEL; 64 bits; R221; reset 0 -/
  dbgSel : W64 := 0
  /-- GP_DEBUG_ADDR; 64 bits; R221; reset 0 -/
  dbgAddr : W64 := 0
  /-- GP_DEBUG_DATA; 64 bits; R221; reset 0 -/
  dbgData : W64 := 0
  /-- GP_DEBUG_BREAK; 64 bits; R221; reset 0 -/
  dbgBreak : W64 := 0
  /-- context for which the breakpoint is armed; R221, R223; reset none -/
  dbgArmed : Option Nat := none
  /-- action in progress (BUSY), with the RESULT it will give; 3 bits; R222; reset none -/
  dbgBusy : Option Nat := none
  /-- GP_DEBUG_STATUS.RESULT; 3 bits; R221; reset 0 -/
  dbgResult : Nat := 0
deriving DecidableEq, Repr

/-- A processor core (hub × 16 + core). -/
structure Core where
  /-- g0–g63; 64 bits each; R224; reset 0 (DESIGN CHOICE, log 3) -/
  g : Table W64 := []
  /-- p0–p7; 8 bits; R224; reset 0 (DESIGN CHOICE, log 3) -/
  p : BitVec 8 := 0
  /-- PC; 55-bit virtual address; R224; reset 0 until released at ENTRY (R483) -/
  pc : Nat := 0
  /-- MODE: [4] PIEN [3] PSUP [2] INTRAP [1] IEN [0] SUP; 5 bits; R250; reset 0b00101 -/
  mode : BitVec 5 := 0b00101
  /-- CTX; 12 bits; R250; reset as the core binding sets (0 until then, DESIGN CHOICE, log 3) -/
  ctx : Nat := 0
  /-- TVEC; 55 bits; R250; reset 0 -/
  tvec : Nat := 0
  /-- TPC; 55 bits; R250; reset 0 -/
  tpc : Nat := 0
  /-- TCAUSE; 8 bits; R250; reset 0 -/
  tcause : Nat := 0
  /-- TADDR; 64 bits; R250; reset 0 -/
  taddr : W64 := 0
  /-- TSAVE; 64 bits; R250; reset 0 -/
  tsave : W64 := 0
  /-- IPEND; 16 bits; R250, R377; reset 0 -/
  ipend : BitVec 16 := 0
  /-- the core has been released from reset; R250, R483; reset 0 -/
  on : Bool := false
  /-- halted by a trap in a trap handler, or with its hub; R249, R452; reset 0 -/
  halted : Bool := false
  /-- waiting in WFI; R240; reset 0 -/
  wfi : Bool := false
  /-- waiting for a grant or a host or remote read; R265, R239; reset 0 -/
  waiting : Bool := false
  /-- the waiting access already has its data; R239; reset none -/
  arrived : Option (List Byte) := none
  /-- word of an instruction fetched from a window that cannot be cached; 64 bits; R253; reset none -/
  fetched : Option W64 := none
deriving DecidableEq, Repr

/-- A transfer over tenon links, at its sender (R420, R422). -/
structure Xfer where
  /-- in use -/
  used : Bool := false
  /-- context -/
  ctx : Nat := 0
  /-- DST_GID; 24 bits; R415 -/
  gid : Nat := 0
  /-- WINDOW; R415 -/
  window : Nat := 0
  /-- EPOCH; R415 -/
  epoch : Nat := 0
  /-- byte offset in the window; R420 -/
  offset : Nat := 0
  /-- bytes; R420 -/
  len : Nat := 0
  /-- 0 data sent, 1 data read (WINDOW_GET) -/
  get : Bool := false
  /-- SIGNAL: window offset and value; R86 -/
  signal : Option (Nat × Nat × W64) := none
  /-- data packets sent so far; R415 SEQ -/
  sent : Nat := 0
  /-- bytes of the data packet being filled: it leaves when the data goes on behind it or ends; R420 -/
  tail : List Byte := []
  /-- where the byte behind them goes: GID, window, epoch, offset; R420 -/
  tailEnd : Nat × Nat × Nat × Nat := (0, 0, 0, 0)
  /-- bytes received of a read; R422 -/
  got : Nat := 0
  /-- first failing step seen; R422 -/
  step : Nat := 0
  /-- count of cues and idle ticks at which it started; R42, R422 -/
  started : Nat := 0
  /-- destination of a read: virtual address; R420 -/
  dst : Nat := 0
  /-- bytes of a read still to be stored in linear order; R420 -/
  data : Transfer := {}
  /-- node of the play that the transfer carries out; R88 -/
  node : Nat := 0
  /-- who waits: run of a partition (partition, run), copy command of a queue, core or GP thread -/
  owner : Nat × Nat := (0, 0)
  /-- 0 run, 1 copy command, 2 core, 3 GP thread, 4 a store of a core or thread, 5 packets of another transfer (the owner's first number), 6 bytes
  for the command in progress of a queue, at an offset of its source -/
  kind : Nat := 0
  /-- every packet has been sent and the ACK or the responses are awaited -/
  waiting : Bool := false
deriving DecidableEq, Repr

/-- The receiver's count of a transfer (R421). -/
structure RxCount where
  src : Nat
  xfer : Nat
  hub : Nat
  accepted : Nat
  step : Nat
deriving DecidableEq, Repr

/-- The state of bring-up and authentication of a tenon link or of an Ethernet peer (R410–R412, R428). -/
structure Handshake where
  /-- stage: 0 none, 1 PHY, 2 CAPS, 3 generation 2 retraining, 4 HELLO, 5 PROOF; R410; reset 0 -/
  stage : Nat := 0
  /-- count of cues and idle ticks at which the stage began; R42, R410; reset 0 -/
  since : Nat := 0
  /-- own ATTEMPT; 32 bits; R411; reset 0 -/
  attempt : Nat := 0
  /-- partner's ATTEMPT; 32 bits; R411; reset 0 -/
  partnerAttempt : Nat := 0
  /-- own nonce; 32 bytes; R410; reset empty -/
  nonce : List Byte := []
  /-- partner's nonce; 32 bytes; R410; reset empty -/
  partnerNonce : List Byte := []
  /-- partner's certificate; R409; reset empty -/
  cert : List Byte := []
  /-- the own PROOF has been sent; R410; reset 0 -/
  proved : Bool := false
  /-- the own PROOF waits for a signature index; R476; reset 0 -/
  owes : Bool := false
  /-- a new attempt is allowed since the last house-cycle boundary; R412, R428; reset 0 -/
  retryDue : Bool := false
deriving DecidableEq, Repr

/-- A tenon link (0–47). -/
structure Link where
  /-- LINK_CTL; 64 bits; R406; reset ENABLE 1, TIME 3, MAX_GEN 2 -/
  ctl : W64 := 0x8700000000000000
  /-- STATE; 3 bits; R406 LINK_STATUS; reset 0 -/
  state : Nat := 0
  /-- GEN; 2 bits; R406; reset 0 -/
  gen : Nat := 0
  /-- INITIATOR; R406; reset 0 -/
  initiator : Bool := false
  /-- TIME_ROLE; 2 bits; R406; reset 0 -/
  timeRole : Nat := 0
  /-- REASON; 8 bits; R406, R413; reset 0 -/
  reason : Nat := 0
  /-- PARTNER_GID; 24 bits; R406; reset 0 -/
  partner : Nat := 0
  /-- PARTNER_LINK; 8 bits; R406; reset 0 -/
  partnerLink : Nat := 0
  /-- RETRAINS, saturating; 16 bits; R406; reset 0 -/
  retrains : Nat := 0
  /-- bring-up and authentication in progress; R410–R412; reset default -/
  hand : Handshake := {}
  /-- failed attempts at generation 2; R410; reset 0 -/
  gen2Fails : Nat := 0
  /-- both ends offered generation 2; R410; reset 0 -/
  bothGen2 : Bool := false
  /-- own draw; 64 bits; R407; reset 0 -/
  draw : W64 := 0
  /-- frame being retried and successive retries; R414, R416; reset 0 -/
  frame : Nat := 0
  /-- successive retries of that frame; R414; reset 0 -/
  retries : Nat := 0
  /-- packets sent, oldest first: header words, payload; R415; reset empty -/
  out : List (List W64 × List Byte) := []
  /-- CONTROL packets sent, oldest first: header words, payload (control word and part of a message body); R411; reset empty -/
  ctlOut : List (List W64 × List Byte) := []
  /-- last announcement heard: master GID, hops, candidate, locked; R433; reset none -/
  heard : Option (Nat × Nat × Bool × Bool) := none
  /-- round in progress and its t1 (upstream) or own ROUND counter; R435; reset 0 -/
  round : Nat := 0
  /-- t1 to t3 of the follower's round; R434; reset 0 -/
  t1 : W64 := 0
  /-- arrival of the ANNOUNCE (t2); R434; reset 0 -/
  t2 : W64 := 0
  /-- departure of the REPLY (t3); R434; reset 0 -/
  t3 : W64 := 0
  /-- arrival of the REPLY (t4) at the sender of the ANNOUNCE, 0 none; R435; reset 0 -/
  t4 : W64 := 0
deriving DecidableEq, Repr

/-- An Ethernet port (links 0–7; 8 is the management jack): ETH_SET words 1–5 (R490). -/
structure Eth where
  /-- ETH_SET words 1–5; R490; reset 0 -/
  words : List W64 := []
  /-- transmission paused on these priorities, as a mask; R426; reset 0 -/
  paused : Nat := 0
  /-- frames sent, oldest first: destination MAC, bytes; R426; reset empty -/
  out : List (Nat × List Byte) := []
deriving DecidableEq, Repr

/-- An Ethernet peer (1,024 × port + entry; R427, R428). -/
structure Peer where
  /-- VALID; R427; reset 0 -/
  valid : Bool := false
  /-- PEER_GID; 24 bits; R427; reset 0 -/
  gid : Nat := 0
  /-- IP; 128 bits; R427; reset 0 -/
  ip : Nat := 0
  /-- MAC; 48 bits; R427; reset 0 -/
  mac : Nat := 0
  /-- authenticated; R428; reset 0 -/
  auth : Bool := false
  /-- reason of its quarantine; 8 bits; R428, R413; reset 0 -/
  reason : Nat := 0
  /-- its authentication in progress; R428; reset default -/
  hand : Handshake := {}
  /-- next PSEQ to be received; 32 bits; R428; reset 0 -/
  rx : Nat := 0
  /-- next PSEQ to be sent; 32 bits; R428; reset 0 -/
  tx : Nat := 0
  /-- datagrams sent and not acknowledged, oldest first; at most 256; R428; reset empty -/
  unacked : List (List W64 × List Byte) := []
  /-- retransmissions of the oldest datagram; R428; reset 0 -/
  retries : Nat := 0
deriving DecidableEq, Repr

/-- A RoCE queue pair (256 × port + entry; R430). -/
structure Qp where
  /-- VALID; R430; reset 0 -/
  valid : Bool := false
  /-- REMOTE_QPN; 24 bits; R430; reset 0 -/
  remote : Nat := 0
  /-- PEER_GID; 24 bits; R430; reset 0 -/
  gid : Nat := 0
  /-- IP; 128 bits; R430; reset 0 -/
  ip : Nat := 0
  /-- MAC; 48 bits; R430; reset 0 -/
  mac : Nat := 0
  /-- PMTU; 2 bits; R430; reset 0 -/
  pmtu : Nat := 0
  /-- expected PSN; 24 bits; R430; reset 0 -/
  epsn : Nat := 0
  /-- error state; R431; reset 0 -/
  error : Bool := false
  /-- next byte offset of the message in progress; R429; reset 0 -/
  next : Nat := 0
  /-- R_Key of the message in progress; R429; reset 0 -/
  rkey : BitVec 32 := 0
  /-- replies sent, oldest first: (kind 0 ACK, 1 NAK Remote Access Error, 2 NAK Remote Operational Error, 3 READ response, 4 NAK PSN sequence error; data); R429, R431; reset empty -/
  out : List (Nat × List Byte) := []
deriving DecidableEq, Repr

/-- Links, routes, transfers, the drop log and pod time. -/
structure Net where
  /-- own GID, that of the own certificate; 24 bits; R408; reset 0 (no certificate, log 11) -/
  gid : Nat := 0
  /-- links 0–47; R406; reset default -/
  links : Table Link := []
  /-- route entries by GID; 8 bits; R417; reset 0xFF -/
  routes : Table Nat := []
  /-- route entries held in hub caches (hub, GID, value); R418; reset empty -/
  routeCache : List (Nat × Nat × Nat) := []
  /-- transfers in progress by XFER; R420; reset none -/
  xfers : Table Xfer := []
  /-- accepted-packet counts; 16,384 per hub; R421; reset empty -/
  rx : List RxCount := []
  /-- DROP_COUNT.TOTAL, mod 2^32; R423; reset 0 -/
  drops : Nat := 0
  /-- DROP_LOG words (entry → word 0, word 1); R423; reset 0 -/
  dropLog : Table (W64 × W64) := []
  /-- receive windows 0–4,095; R400, R424; reset closed -/
  windows : Table Window := []
  /-- send slots 0–4,095; R315, R316; reset free -/
  slots : Table SendSlot := []
  /-- Ethernet ports 0–7 and the management jack 8; R426, R490; reset 0 -/
  eth : Table Eth := []
  /-- peers, 1,024 × port + entry; R427; reset invalid -/
  peers : Table Peer := []
  /-- queue pairs, 256 × port + entry; R430; reset invalid -/
  qps : Table Qp := []
  /-- POD_TIME; 64 bits; R432; reset 0 -/
  podTime : W64 := 0
  /-- POD_STATUS.LOCKED; R432; reset 0 -/
  locked : Bool := false
  /-- exchanges held within 20 ns in succession; R432; reset 0 -/
  good : Nat := 0
  /-- POD_STATUS.MASTER; R432; reset 0 -/
  master : Bool := false
  /-- POD_STATUS.STEPPED; R432; reset 0 -/
  stepped : Bool := false
  /-- POD_STATUS.UPSTREAM; 8 bits; R432; reset 0xFF -/
  upstream : Nat := 0xFF
  /-- POD_STATUS.MASTER_GID; 24 bits; R432; reset 0 -/
  masterGid : Nat := 0
  /-- POD_STATUS.HOPS; 4 bits; R432; reset 0 -/
  hops : Nat := 0
  /-- POD_STATUS.OFFSET, signed, saturating; 16 bits; R432; reset 0 -/
  offset : Int := 0
  /-- ns still to be slewed; R434; reset 0 -/
  slew : Int := 0
  /-- POD_CTL; 64 bits; R432; reset 0 -/
  podCtl : W64 := 0
deriving DecidableEq, Repr

/-- A staging session (R474). -/
structure Stage where
  /-- OPEN; R477; reset 0 -/
  opened : Bool := false
  /-- TARGET; R477; reset 0 -/
  target : Nat := 0
  /-- CHECK; 8 bits; R477; reset 0 -/
  check : Nat := 0
  /-- SESSION; 32 bits; R477; reset 0 -/
  session : Nat := 0
  /-- 64 KiB blocks already written; R474; reset empty -/
  blocks : Table Bool := []
deriving DecidableEq, Repr

/-- A record of the authenticated store (R460). -/
structure StoreRecord where
  /-- SEQ; 64 bits -/
  seq : Nat
  /-- KIND: 1 SIG_NEXT; 2 ACTIVE; 3 OWNER_FLOOR -/
  kind : Nat
  /-- VALUE; 128 bits -/
  value : Nat
deriving DecidableEq, Repr

/-- Boot, keys, signature indices and flash. -/
structure Sec where
  /-- LIMP; R477, R465; reset 0 -/
  limp : Bool := false
  /-- PENDING; R477, R475; reset 0 -/
  pend : Bool := false
  /-- OWNER_OK; R477; reset 0 -/
  ownerOk : Bool := false
  /-- REASON; 8 bits; R477, R462; reset 0 -/
  reason : Nat := 0
  /-- COPY, bundle copy in force; R477; reset 0 -/
  copy : Nat := 0
  /-- owner image copy in force; R460; reset 0 -/
  ownerCopy : Nat := 0
  /-- SVN in force; 16 bits; R477; reset 0 -/
  svn : Nat := 0
  /-- FLOOR, fused; 8 bits; R477; reset fuses (DESIGN CHOICE, log 12: 0) -/
  floor : Nat := 0
  /-- hashes in the four owner slots, highest last; R472; reset fuses (DESIGN CHOICE, log 12: none) -/
  ownerSlots : List (List Byte) := []
  /-- VERSIONS in force: house, hub, prompter, microcode; 16 bits each; R477 FW_VERSIONS; reset 0 -/
  versions : List Nat := []
  /-- indices left in the block; R477 SIG_INDEX.LEFT; reset 0 -/
  left : Nat := 0
  /-- next index to be used; 40 bits; R477; reset 0 -/
  next : Nat := 0
  /-- authenticated store: the records whose TAG checks, in ascending SEQ; R459, R460; reset empty (DESIGN CHOICE, log 12) -/
  journal : List StoreRecord := []
  /-- SIG_NEXT copy of each FOH; 40 bits; R460, R470; reset none -/
  sigCopy : Table (Option Nat) := []
  /-- highest SEQ each FOH has seen; R460; reset 0 -/
  seqCopy : Table Nat := []
  /-- the reservation failed and is tried again; R470; reset 0 -/
  retryIndex : Bool := false
  /-- staging session; R474, R477; reset default -/
  stage : Stage := {}
  /-- measurement registers 0–7, 32 bytes each; R466, R477 MEASURE; reset 0 -/
  measure : Table (List Byte) := []
  /-- flash contents by byte offset (R459: bundles at 0 and 64 MiB, owner images at 128 and 160 MiB); erased bytes read 0xFF; reset erased (DESIGN CHOICE, log 12) -/
  flash : Table Byte := []
  /-- trust anchors 0–7: public key, MIN_SERIAL; R408, R489; reset none -/
  anchors : Table (Option (List Byte × Nat)) := []
  /-- own certificate; R408, R489; reset none -/
  cert : Option (List Byte) := none
  /-- a debug context has existed since boot; R469; reset 0 -/
  debugSeen : Bool := false
  /-- random draws taken; R407, R410; reset 0 (the model's own counter, log 13) -/
  draws : Nat := 0
deriving DecidableEq, Repr

/-- A health event (R492). -/
structure Event where
  cue : Nat
  code : Nat
  die : Nat
  detail : List Nat
deriving DecidableEq, Repr

/-- A kept reply of the management jack (R480). -/
structure Reply where
  tag : Nat
  /-- bytes of the REPLY after its header; none while the command is in progress -/
  data : Option (List W64 × List Byte)
deriving DecidableEq, Repr

/-- Management plane: health record, jack, resets. -/
structure Mgmt where
  /-- READY; R498; reset 0 -/
  ready : Bool := false
  /-- PHASE; 4 bits; R498; reset 0 -/
  phase : Nat := 0
  /-- LAST_RESET; 2 bits; R498; reset 0 -/
  lastReset : Nat := 0
  /-- CHANGES; 48 bits; R491, R498; reset 0 -/
  changes : Nat := 0
  /-- event ring by entry; R491; reset empty -/
  events : Table (Option Event) := []
  /-- snapshot bytes 8–255; R491, R492; reset 0 -/
  snapshot : List Byte := []
  /-- counters 0–95; R491; reset 0 -/
  counters : Table Nat := []
  /-- replies kept, newest last, at most 64; R480; reset empty -/
  replies : List Reply := []
  /-- a device reset is due at the next boundary; R485; reset none -/
  resetDue : Option Nat := none
  /-- the module turns off at the next boundary, or, with PHASE 0, is off; R455, R487; reset 0 -/
  off : Bool := false
  /-- house commands forwarded by the secondary and not completed (queue, ring entry); R32, R494; reset empty -/
  forwarded : List (Nat × Nat) := []
  /-- the plans that the prompter has made (the model's own, log 114): one function of their inputs; R96; reset empty -/
  plans : List Made := []
deriving DecidableEq, Repr

/-- The device. -/
structure State where
  /-- clocks and the cue counter; R37–R43 -/
  clk : Clock := {}
  /-- power and temperature; R436–R456 -/
  pow : Power := {}
  /-- panel; R12–R36 -/
  panel : Panel := {}
  /-- partitions 0–7; R482 -/
  parts : Table Partition := []
  /-- contexts 1–4,095; R370 -/
  ctxs : Table Context := []
  /-- queues 0–1,024; R374, R478 -/
  queues : Table Queue := []
  /-- objects 0–262,143; R395 -/
  objs : Table Obj := []
  /-- host ports 0 and 1; R349 -/
  ports : Table Port := []
  /-- memory; R280–R332 -/
  mem : Mem := {}
  /-- caches and directory; R251–R279 -/
  coh : Coh := {}
  /-- tile engines; R52, R151–R223, R333–R348 -/
  eng : Engines := {}
  /-- processor cores 0–127; R224–R250 -/
  cores : Table Core := []
  /-- links and windows; R405–R435 -/
  net : Net := {}
  /-- security; R457–R477 -/
  sec : Sec := {}
  /-- management; R478–R498 -/
  mgmt : Mgmt := {}
  /-- commands waiting, first in, first out (the block's own queue of the model) -/
  pending : List Instr := []
deriving DecidableEq, Repr

/-- How a step can fault: no step of this model does. -/
inductive Fault where
  /-- Never raised: kept so that the type is not empty. Safe. -/
  | unreachable
deriving DecidableEq, Repr

/-- How a step can be refused. -/
inductive Refusal where
  /-- An arm of exec whose command has no meaning yet answers with it. Safe: nothing is claimed of the command. -/
  | notModelled (mnemonic : String)
deriving DecidableEq, Repr

/-- The outcome of a command. -/
abbrev Out := Host.Outcome State Fault Refusal

/-- The machine right after reset: the state from which COLD_RESET (R497) runs; every field at its reset value, no
command waiting. -/
def State.reset : State := {}

end Sys2Proof.Machine
end

