-- ==== Sys2Proof/Machine/Ops.lean ====
section
/-! DEFINITION. The named operations over the state: its numbered parts, the tile map and the partitions (R13–R16, R482),
the raising of faults (R330, R332, R503), the physical map and the owner check (R306, R307, R325). -/

namespace Sys2Proof.Machine

/-! ### Numbered parts -/

def partOf (s : State) (p : Nat) : Partition := tget {} s.parts p
def setPart (s : State) (p : Nat) (v : Partition) : State := { s with parts := tput {} s.parts p v }
def modPart (s : State) (p : Nat) (f : Partition → Partition) : State := setPart s p (f (partOf s p))

def ctxOf (s : State) (c : Nat) : Context := tget {} s.ctxs c
def setCtx (s : State) (c : Nat) (v : Context) : State := { s with ctxs := tput {} s.ctxs c v }
def modCtx (s : State) (c : Nat) (f : Context → Context) : State := setCtx s c (f (ctxOf s c))

def queueOf (s : State) (q : Nat) : Queue := tget {} s.queues q
def setQueue (s : State) (q : Nat) (v : Queue) : State := { s with queues := tput {} s.queues q v }
def modQueue (s : State) (q : Nat) (f : Queue → Queue) : State := setQueue s q (f (queueOf s q))

def objOf (s : State) (i : Nat) : Obj := tget {} s.objs i
def setObj (s : State) (i : Nat) (v : Obj) : State := { s with objs := tput {} s.objs i v }
def modObj (s : State) (i : Nat) (f : Obj → Obj) : State := setObj s i (f (objOf s i))

def portOf (s : State) (p : Nat) : Port := tget {} s.ports p
def setPort (s : State) (p : Nat) (v : Port) : State := { s with ports := tput {} s.ports p v }
def modPort (s : State) (p : Nat) (f : Port → Port) : State := setPort s p (f (portOf s p))

/-- The count that cue-paced work goes by: cues, and idle ticks while the cue counter is stopped (R42). -/
def beat (s : State) : Nat := s.clk.cue + s.clk.idle

def dieOf (s : State) (d : Nat) : Die := tget {} s.pow.dies d
def modDie (s : State) (d : Nat) (f : Die → Die) : State :=
  { s with pow := { s.pow with dies := tmod {} s.pow.dies d f } }

def trussOf (s : State) (l : Nat) : Truss := tget {} s.panel.truss l
def modTruss (s : State) (l : Nat) (f : Truss → Truss) : State :=
  { s with panel := { s.panel with truss := tmod {} s.panel.truss l f } }

def stackOf (s : State) (k : Nat) : Stack := tget {} s.mem.mstacks k
def modStack (s : State) (k : Nat) (f : Stack → Stack) : State :=
  { s with mem := { s.mem with mstacks := tmod {} s.mem.mstacks k f } }

def chanOf (s : State) (k ch : Nat) : Channel := tget {} (stackOf s k).channels ch
def modChan (s : State) (k ch : Nat) (f : Channel → Channel) : State :=
  modStack s k (fun x => { x with channels := tmod {} x.channels ch f })

def linkOf (s : State) (l : Nat) : Link := tget {} s.net.links l
def modLink (s : State) (l : Nat) (f : Link → Link) : State :=
  { s with net := { s.net with links := tmod {} s.net.links l f } }

def windowOf (s : State) (w : Nat) : Window := tget {} s.net.windows w
def modWindow (s : State) (w : Nat) (f : Window → Window) : State :=
  { s with net := { s.net with windows := tmod {} s.net.windows w f } }

def slotOf (s : State) (d : Nat) : SendSlot := tget {} s.net.slots d
def modSlot (s : State) (d : Nat) (f : SendSlot → SendSlot) : State :=
  { s with net := { s.net with slots := tmod {} s.net.slots d f } }

def coreOf (s : State) (c : Nat) : Core := tget {} s.cores c
def modCore (s : State) (c : Nat) (f : Core → Core) : State := { s with cores := tmod {} s.cores c f }

/-- Engine unit `u` of logical tile `t`, the unit number being also its agent number (R332). -/
def unitOf (s : State) (t u : Nat) : EngUnit := tget {} s.eng.units (28 * t + u)
def modUnit (s : State) (t u : Nat) (f : EngUnit → EngUnit) : State :=
  { s with eng := { s.eng with units := tmod {} s.eng.units (28 * t + u) f } }

def gpOf (s : State) (t g : Nat) : Gp := tget {} s.eng.gp (16 * t + g)
def modGp (s : State) (t g : Nat) (f : Gp → Gp) : State :=
  { s with eng := { s.eng with gp := tmod {} s.eng.gp (16 * t + g) f } }

def mxeOf (s : State) (t m : Nat) : Mxe := tget {} s.eng.mxe (4 * t + m)
def modMxe (s : State) (t m : Nat) (f : Mxe → Mxe) : State :=
  { s with eng := { s.eng with mxe := tmod {} s.eng.mxe (4 * t + m) f } }

def vxeOf (s : State) (t m : Nat) : Vxe := tget {} s.eng.vxe (4 * t + m)
def modVxe (s : State) (t m : Nat) (f : Vxe → Vxe) : State :=
  { s with eng := { s.eng with vxe := tmod {} s.eng.vxe (4 * t + m) f } }

/-! ### Bays, tiles and partitions -/

/-- Slot bound to an index by a tile-map word (R16). -/
def mapSlot (w : W64) (i : Nat) : Nat := bits w (4 * i + 3) (4 * i)

/-- The tile-map word of a bay that no flash word replaces: index i in slot i, understudy 9 (log 5). -/
def mapDefault : W64 := 0x0024000876543210

/-- Active tile-map word of a bay (R16). -/
def mapWord (s : State) (b : Nat) : W64 := tget mapDefault s.panel.mapActive b

/-- Position of a logical tile; none when its index is unbound (R14, R16). -/
def tilePos (s : State) (t : Nat) : Option Nat :=
  let sl := mapSlot (mapWord s (t / 9)) (t % 9)
  if sl < 10 then some (10 * (t / 9) + sl) else none

/-- Logical tile bound to a position. -/
def posTile (s : State) (n : Nat) : Option Nat :=
  ((upFrom 0 9).find? (fun i => mapSlot (mapWord s (n / 10)) i == n % 10)).map (fun i => 9 * (n / 10) + i)

def posIsOut (s : State) (n : Nat) : Bool := tget false s.panel.posOut n
def hubIsUp (s : State) (h : Nat) : Bool := !tget false s.panel.hubFailed h
def fohIsUp (s : State) (f : Nat) : Bool := !tget false s.panel.fohFailed f

/-- The tile is bound, in service, and its hub serves. -/
def tileServes (s : State) (t : Nat) : Bool :=
  match tilePos s t with
  | some n => !posIsOut s n && hubIsUp s (t / 9)
  | none => false

/-- Bays of a shape (R482). -/
def shapeBays (sh : Shape) : List Nat := if sh.defined then upFrom sh.first (2 ^ sh.sizeLog) else []

def partBays (s : State) (p : Nat) : List Nat := shapeBays (partOf s p).shape

/-- The partition that owns a bay. -/
def bayPart (s : State) (b : Nat) : Option Nat := (upFrom 0 8).find? (fun p => (partBays s p).contains b)

/-- Logical tiles of a partition. -/
def partTiles (s : State) (p : Nat) : List Nat := (partBays s p).flatMap (fun b => upFrom (9 * b) 9)

def partStacks (s : State) (p : Nat) : List Nat := (partBays s p).flatMap (fun b => [2 * b, 2 * b + 1])

/-- Application cores of a hub: all but core 0, which runs the prompter (R250). -/
def appCores (h : Nat) : List Nat := upFrom (16 * h + 1) 15

/-- The partition runs: STATE 2 (R484). -/
def partRuns (s : State) (p : Nat) : Bool := (partOf s p).state == 2

/-- The partition's sequencers take cues: it runs and is in ACTIVE (R455). -/
def partCues (s : State) (p : Nat) : Bool := partRuns s p && (partOf s p).power == 0

/-! ### Contexts and faults -/

/-- The context is LIVE; context 0 always is (R370). -/
def ctxLive (s : State) (c : Nat) : Bool := c == 0 || (ctxOf s c).st == .live

/-- A loss of the context is due at the present boundary or has been (R330). -/
def ctxFalling (s : State) (c : Nat) : Bool :=
  match (ctxOf s c).fault with
  | some f => f.cue < s.clk.cue
  | none => false

/-- Status codes of R499 that lose a context. -/
def stTranslation : Nat := 0x0101
def stOwner : Nat := 0x0102
def stMemory : Nat := 0x0103
def stCollective : Nat := 0x0104
def stStall : Nat := 0x0105
def stPort : Nat := 0x0106
def stTile : Nat := 0x0107
def stTrap : Nat := 0x0108

/-- Agent number of the house (R332). -/
def houseAgent : Nat := 2144

/-- A fault of this cue. -/
def faultOf (s : State) (status cause agent : Nat) (address whereAt : W64) : FaultRecord :=
  { valid := true, status, cause, agent, cue := s.clk.cue, address, whereAt }

/-- A fault arises for a context: the first by cue and agent number is recorded, others of its cue are merged, later
ones dropped (R332). Context 0 is never lost. -/
def raise (s : State) (c : Nat) (r : FaultRecord) : State :=
  let x := ctxOf s c
  if c = 0 || x.st != .live then s
  else match x.fault with
    | none => setCtx s c { x with fault := some r, agents := [r.agent] }
    | some f =>
      if r.cue < f.cue then setCtx s c { x with fault := some r, agents := [r.agent] }
      else if f.cue < r.cue then s
      else
        let base := if r.agent < f.agent then r else f
        setCtx s c { x with fault := some { base with merged := f.merged + 1 }, agents := r.agent :: x.agents }

/-- A loss that the house raises at a boundary: agent 2,144, in the cue that ends there (R503). -/
def houseLoss (s : State) (c status : Nat) (address : W64) : State :=
  raise s c { valid := true, status, cause := 0, agent := houseAgent, cue := s.clk.cue - 1, address, whereAt := 0 }

/-- The contexts that exist and satisfy a condition. -/
def ctxsWhere (s : State) (f : Nat → Context → Bool) : List Nat :=
  (s.ctxs.filter (fun kv => kv.2.st == .live && f kv.1 kv.2)).map (fun kv => kv.1)

/-! ### Calibration offsets (R441) -/

/-- The stored offsets of the keys that satisfy a condition come into use. -/
def useOffsets (s : State) (f : Nat → Bool) : State :=
  { s with pow := { s.pow with
    inUse := (s.pow.offsets.filter (fun kv => f kv.1)).foldl (fun t kv => tput 0 t kv.1 kv.2)
      (s.pow.inUse.filter (fun kv => !f kv.1)) } }

/-! ### The physical map (R306) -/

def stackBytes : Nat := 0xC00000000
def inStack (pa : Nat) : Bool := decide (pa < 0xC000000000)
def inScratch (pa : Nat) : Bool := decide (0x10000000000 ≤ pa) && decide (pa < 0x10030000000)
def inTileStore (pa : Nat) : Bool := decide (0x20000000000 ≤ pa) && decide (pa < 0x200A0000000)
def inDieRegs (pa : Nat) : Bool := decide (0x40000000000 ≤ pa) && decide (pa < 0x4005A000000)
def inRemote (pa : Nat) : Bool := decide (0x100000000000 ≤ pa) && decide (pa < 0x200000000000)
/-- The host window of a physical address: port and bus address. -/
def hostOf (pa : Nat) : Option (Nat × Nat) :=
  if 0x800000000000 ≤ pa && pa < 0xC00000000000 then some (0, pa - 0x800000000000)
  else if 0xC00000000000 ≤ pa && pa < 0x1000000000000 then some (1, pa - 0xC00000000000)
  else none

/-- Stack memory or last-level scratchpad: the addresses with a home hub (R253, R259). -/
def cacheable (pa : Nat) : Bool := inStack pa || inScratch pa

/-- Home hub of a cacheable address (R259, R281). -/
def homeHub (pa : Nat) : Nat := if inStack pa then pa / stackBytes / 2 else (pa - 0x10000000000) / 0x6000000

/-- Scratchpad share of a hub: that of the partition that owns its bay (R254). -/
def scratchShare (s : State) (h : Nat) : Nat :=
  match bayPart s h with
  | some p => (partOf s p).shape.scratch
  | none => 0

/-- Start of the tile store of a logical tile (R306). -/
def tileBase (s : State) (t : Nat) : Nat := 0x20000000000 + (tilePos s t).getD 0 * 0x2000000

/-- The ownership entry that governs an address: scratchpad beyond the split is retired for every request (R256). -/
def ownerEntry (s : State) (pa : Nat) : BitVec 16 :=
  if inScratch pa && decide ((pa - 0x10000000000) % 0x6000000 ≥ scratchShare s (homeHub pa) * 0xC00000) then 0x4000
  else tget 0 s.mem.owner (pa / 0x200000)

/-- The owner check (R325, R307, R314, R315). -/
def ownerOk (s : State) (c pa : Nat) : Bool :=
  if cacheable pa then
    let e := ownerEntry s pa
    let st := bits e 14 13
    let owner := bits e 11 0
    if st ≥ 2 then false
    else if c = 0 then true
    else if st = 0 then false
    else decide (owner = c) || (bit e 12 && decide (bayPart s (homeHub pa) = some (ctxOf s c).part))
  else if inTileStore pa || inDieRegs pa then decide (c = 0)
  else if inRemote pa then
    let d := slotOf s ((pa - 0x100000000000) / 0x100000000)
    d.valid && decide (d.owner = c)
  else match hostOf pa with
    | some (p, _) => decide (c = 0) || decide ((ctxOf s c).binding = p)
    | none => false

end Sys2Proof.Machine
end

