-- ==== Sys2Proof/Machine/Coh.lean ====
section
/-! DEFINITION. Memory at its home and through the caches (R251–R272, R302): lines, the directory and its entries, the
last-level caches, the cache-side transitions, requests and snoops at the homes, and the accesses of uncached agents. -/

namespace Sys2Proof.Machine

/-! ### Lines and the caches' copies -/

/-- Byte `k` of a line. -/
def lineByte (d : BitVec 1024) (k : Nat) : Byte := d.extractLsb' (8 * k) 8

/-- A line with byte `k` replaced. -/
def setLineByte (d : BitVec 1024) (k : Nat) (b : Byte) : BitVec 1024 :=
  (d &&& ~~~ ((0xFF : BitVec 1024) <<< (8 * k))) ||| (b.zeroExtend 1024 <<< (8 * k))

/-- A line of 128 bytes. -/
def lineOf (bs : List Byte) : BitVec 1024 := BitVec.ofNat 1024 (leNat bs)

def lineBytes (d : BitVec 1024) : List Byte := leBytes 128 d.toNat

/-- A line as its home holds it (last-level memory or stack, R257). -/
def homeLine (s : State) (line : Nat) : BitVec 1024 := lineOf (tgetN 0 s.mem.cells (128 * line) 128)

/-- A cache's copy of a line: in the cache, or in its writeback buffer while no snoop has been answered from there (R265). -/
def copyOf (s : State) (x line : Nat) : Option Line :=
  match (tget [] s.coh.l2 x).find? (fun l => l.line == line) with
  | some l => some l
  | none => (tget [] s.coh.wb x).reverse.find? (fun l => l.line == line && !l.taken)

def dirOf (s : State) (line : Nat) : DirEntry := tget {} s.coh.dir line
def modDir (s : State) (line : Nat) (f : DirEntry → DirEntry) : State :=
  { s with coh := { s.coh with dir := tmod {} s.coh.dir line f } }

/-- The four words of a directory entry (R261). -/
def dirWords (line : Nat) (e : DirEntry) : List W64 :=
  let part := fun (lo : Nat) => BitVec.ofNat 64 (e.sharers / 2 ^ lo)
  [fld (if e.sharers = 0 then 0 else if e.owned then 2 else 1) 2 62 ||| flag e.busy.isSome 61 |||
     fld (if e.owned then Nat.log2 e.sharers else 0) 8 53 ||| fld (e.sharers / 2 ^ 192) 8 45 ||| fld line 41 0,
   part 0, part 64, part 128]

/-- The dirty data of a line where it is not at home: on its way to its new owner, kept while an OWN_NODATA that dropped it
is not granted yet, or in its owner in M (R267, R272). -/
def dirtyLine (s : State) (line : Nat) : Option (BitVec 1024) :=
  let e := dirOf s line
  match e.granted with
  | some (_, .m, some d) => some d
  | _ => match e.data with
    | some d => some d
    | none =>
      if e.owned then
        match copyOf s (Nat.log2 e.sharers) line with
        | some l => if l.st = .m then some l.data else none
        | none => none
      else none

/-- The latest value of a byte in coherence order (R272). -/
def readByte (s : State) (pa : Nat) : Byte :=
  match dirtyLine s (pa / 128) with
  | some d => lineByte d (pa % 128)
  | none => tget 0 s.mem.cells pa

/-- An uncached read (R268). -/
def readBytes (s : State) (pa n : Nat) : List Byte := (upFrom pa n).map (readByte s)

/-- A 64-bit word of memory (R3). -/
def readWord (s : State) (pa : Nat) : W64 := BitVec.ofNat 64 (leNat (readBytes s pa 8))

/-- The line is in its hub's last-level cache. -/
def llmHas (s : State) (line : Nat) : Bool :=
  (tget [] s.coh.llm (homeHub (128 * line))).any (fun x => x.1 == line)

/-- The line is dirty in its hub's last-level cache. -/
def llmDirty (s : State) (line : Nat) : Bool :=
  (tget [] s.coh.llm (homeHub (128 * line))).any (fun x => x.1 == line && x.2)

/-- The last-level cache keeps at most (15 − 2k) lines of each set of 49,152, the least recently used leaving first;
the stack takes a dirty line that leaves (R251, R257). -/
def llmPlace (s : State) (line : Nat) (dirty : Bool) : State :=
  let h := homeHub (128 * line)
  let old := tget [] s.coh.llm h
  let rest := old.filter (fun x => x.1 != line)
  let inSet := rest.filter (fun x => x.1 % 49152 == line % 49152)
  let ways := 15 - 2 * scratchShare s h
  let out := (inSet.drop (ways - 1)).map (fun x => x.1)
  let keep := (line, dirty || old.any (fun x => x.1 == line && x.2)) :: rest.filter (fun x => !out.contains x.1)
  { s with coh := { s.coh with llm := tput [] s.coh.llm h keep, stale := out.foldl terase s.coh.stale } }

/-- A line already in the last-level cache becomes dirty; the stack keeps what it held (R257, R277). -/
def llmSoil (s : State) (line : Nat) : State :=
  if llmHas s line then
    let s1 := if llmDirty s line then s
      else { s with coh := { s.coh with stale := tput none s.coh.stale line (some (homeLine s line)) } }
    llmPlace s1 line true
  else s

/-- A whole line written back to its home: dirty in the last-level cache for stack memory, in place for scratchpad
(R253, R257). The line's uncorrectable bursts are replaced. -/
def writeLine (s : State) (line : Nat) (d : BitVec 1024) : State :=
  let s1 := if inStack (128 * line) then
      let s0 := if llmDirty s line then s
        else { s with coh := { s.coh with stale := tput none s.coh.stale line (some (homeLine s line)) } }
      llmPlace s0 line true
    else s
  { s1 with mem := { s1.mem with
      cells := tputN 0 s1.mem.cells (128 * line) (lineBytes d)
      bad := (upFrom (4 * line) 4).foldl terase s1.mem.bad } }

/-- A burst of the range that cannot be read: uncorrectable in the stack, with no copy of its line in the last-level
cache and no dirty copy elsewhere (R257, R302). -/
def badBurst (s : State) (pa n : Nat) : Option Nat :=
  (upFrom (pa / 32) ((pa + n + 31) / 32 - pa / 32)).find? (fun b =>
    tget false s.mem.bad b && !llmHas s (b / 4) && (dirtyLine s (b / 4)).isNone)

/-- First uncorrectable burst that a write of some pieces covers only in part: the write is not performed (R302). -/
def badPartial (s : State) (pas : List (Nat × Nat)) : Option Nat :=
  pas.findSome? (fun x =>
    let head := if x.1 % 32 = 0 then none else badBurst s x.1 (min x.2 1)
    let e := x.1 + x.2
    let tail := if e % 32 = 0 || x.2 = 0 then none else badBurst s (e - 1) 1
    match head with
    | some b => some (32 * b)
    | none => tail.map (fun b => 32 * b))

/-- An uncorrectable burst has been met by requests of these contexts, made by these agents: the house acts on it at a
boundary (R303). -/
def meetBad (s : State) (burst : Nat) (cs : List (Nat × Nat)) : State :=
  { s with mem := { s.mem with badDue := s.mem.badDue ++ [(burst, cs)] } }

/-- An address whose stack has failed or whose hub is out of service, with the address its fault record gives
(R278, R304, R502). -/
def deadAddr (s : State) (pa : Nat) : Option Nat :=
  if cacheable pa then
    if !hubIsUp s (homeHub pa) then some (pa / 128 * 128)
    else if inStack pa && decide ((stackOf s (pa / stackBytes)).state = 2) then some (pa / stackBytes * stackBytes)
    else none
  else none

/-! ### Caches (R251, R252, R259, R265) -/

/-- Sharer number of the L2 behind an issuer (R259). -/
def l2Number : Agent → Nat
  | .core c => 72 + c
  | .gp t _ => t

/-- Sets of an L2 (R251). -/
def l2Sets (x : Nat) : Nat := if x < 72 then 2048 else 512

def l2Of (s : State) (x : Nat) : List Line := tget [] s.coh.l2 x
def setL2 (s : State) (x : Nat) (ls : List Line) : State := { s with coh := { s.coh with l2 := tput [] s.coh.l2 x ls } }

def l2Find (s : State) (x line : Nat) : Option Line := (l2Of s x).find? (fun l => l.line == line)

/-- The request that reports an eviction (R262, R265). -/
def putOf : Mesi → Req
  | .m => .putM
  | .e => .putE
  | .s => .putS

/-- A line removed from a core's L1s, which its L2 includes (R252). -/
def dropCoreL1 (s : State) (x line : Nat) : State :=
  { s with coh := { s.coh with
    l1d := tmod [] s.coh.l1d (x - 72) (fun ls => if x < 72 then ls else ls.filter (fun y => y.1 != line))
    l1i := tmod [] s.coh.l1i (x - 72) (fun ls => if x < 72 then ls else ls.filter (fun y => y != line)) } }

/-- A line leaves a cache for its writeback buffer, with a PUT to its home; a core's L1s lose it first (R252, R262, R265). -/
def evictLine (s : State) (x : Nat) (l : Line) : State :=
  let s0 := dropCoreL1 s x l.line
  let s1 := setL2 s0 x ((l2Of s0 x).filter (fun y => y.line != l.line))
  { s1 with coh := { s1.coh with
      wb := tput [] s1.coh.wb x (tget [] s1.coh.wb x ++ [l])
      queue := s1.coh.queue ++ [(l.line, .cache x (putOf l.st))] } }

/-- Lines leave the last-level caches, the stacks taking what was dirty (R258, R279). -/
def flushLlm (s : State) (f : Nat → Bool) : State :=
  { s with coh := { s.coh with
    llm := tmap [] s.coh.llm (fun _ ls => ls.filter (fun l => !f l.1))
    stale := s.coh.stale.filter (fun x => !f x.1) } }

/-- A line placed first in a cache; a seventeenth line of its set leaves, least recently used first (R251). -/
def placeLine (s : State) (x : Nat) (l : Line) : State :=
  let s1 := setL2 s x (l :: (l2Of s x).filter (fun y => y.line != l.line))
  let inSet := (l2Of s1 x).filter (fun y => y.line % l2Sets x == l.line % l2Sets x)
  (inSet.drop 16).foldl (fun s y => evictLine s x y) s1

/-- A hit makes the line the most recently used. -/
def touchLine (s : State) (x line : Nat) : State :=
  match l2Find s x line with
  | some l => setL2 s x (l :: (l2Of s x).filter (fun y => y.line != line))
  | none => s

/-- A line placed first in a core's L1 data cache of 64 sets and 8 ways (R251). The L2 includes it and holds its bytes: the
two levels share the line's data, and `dirty` says which lines the L1 has yet to write back. -/
def l1dPlace (s : State) (c line : Nat) (dirty : Bool) : State :=
  { s with coh := { s.coh with l1d := tmod [] s.coh.l1d c (fun ls =>
    let rest := ls.filter (fun y => y.1 != line)
    let out := ((rest.filter (fun y => y.1 % 64 == line % 64)).drop 7).map (fun y => y.1)
    (line, dirty || ls.any (fun y => y.1 == line && y.2)) :: rest.filter (fun y => !out.contains y.1)) } }

/-- A line placed first in a core's L1 instruction cache (R251). -/
def l1iPlace (s : State) (c line : Nat) : State :=
  { s with coh := { s.coh with l1i := tmod [] s.coh.l1i c (fun ls =>
    let rest := ls.filter (fun y => y != line)
    let out := (rest.filter (fun y => y % 64 == line % 64)).drop 7
    line :: rest.filter (fun y => !out.contains y)) } }

/-- What an access needs of a line. -/
inductive LineUse where
  | read
  | write
  | zero
deriving DecidableEq, Repr

/-- The line is held in a state that lets the access be performed at once (R265). -/
def lineReady (s : State) (x line : Nat) (u : LineUse) : Bool :=
  match l2Find s x line with
  | some l => u == .read || l.st != .s
  | none => false

/-- The request of an access that misses (R265). -/
def requestFor (s : State) (x line : Nat) (u : LineUse) : Req :=
  match u with
  | .read => .rdShared
  | .write => if (l2Find s x line).isSome then .upgrade else .rdOwn
  | .zero => .ownNodata

def isPut : Req → Bool
  | .putS => true
  | .putE => true
  | .putM => true
  | _ => false

/-- A request of the cache for the line is on its way or in progress. -/
def requested (s : State) (x line : Nat) : Bool :=
  let mine := fun (a : Asker) => match a with
    | .cache y r => y == x && !isPut r
    | _ => false
  s.coh.queue.any (fun q => q.1 == line && mine q.2) || ((dirOf s line).busy.any mine)

/-- The request goes to the home, once (R263, R265). -/
def askLine (s : State) (x line : Nat) (u : LineUse) : State :=
  if lineReady s x line u || requested s x line then s
  else { s with coh := { s.coh with queue := s.coh.queue ++ [(line, .cache x (requestFor s x line u))] } }

/-- Data of a line that a cache holds in M or E is changed; the line is then in M (R265). -/
def changeLine (s : State) (x line : Nat) (f : BitVec 1024 → BitVec 1024) : State :=
  setL2 s x ((l2Of s x).map (fun l => if l.line = line then { l with st := .m, data := f l.data } else l))

/-- Bytes stored into a line. -/
def storeBytes (d : BitVec 1024) (at_ : Nat) (bs : List Byte) : BitVec 1024 :=
  (bs.zip (upFrom at_ bs.length)).foldl (fun d x => setLineByte d x.2 x.1) d

/-! ### Homes (R261–R268) -/

/-- First request for a line at its home, none while the line is BUSY (R263). -/
def nextAsker (s : State) (line : Nat) : Option Asker :=
  if (dirOf s line).busy.isSome then none
  else (s.coh.queue.find? (fun q => q.1 == line)).map (fun q => q.2)

/-- The first entry of the queue that equals `q` removed. -/
def dropAsker (s : State) (q : Nat × Asker) : State := { s with coh := { s.coh with queue := s.coh.queue.erase q } }

/-- The home hub of the line serves. -/
def homeServes (s : State) (line : Nat) : Bool := cacheable (128 * line) && hubIsUp s (homeHub (128 * line))

/-- Home data for a cache: served from the last-level cache, or read from the stack and allocated (R257). -/
def homeFill (s : State) (line : Nat) : State := if inStack (128 * line) then llmPlace s line false else s

/-- The entry of a line names its holders; one that names none is free (R259, R261). -/
def setEntry (s : State) (line : Nat) (owned : Bool) (sharers : Nat) : State :=
  modDir s line (fun e => if sharers = 0 then {} else { e with owned, sharers })

/-- A grant is sent to a cache: the line stays BUSY until the cache takes it. -/
def sendGrant (s : State) (x line : Nat) (r : Req) (st : Mesi) (data : Option (BitVec 1024)) : State :=
  modDir s line (fun e => { e with busy := some (.cache x r), awaiting := [], granted := some (x, st, data), data := none })

/-- A waiter is the next-line fetch of a group processor, which no thread waits for (R216). -/
def Waiter.nextLine (w : Waiter) : Bool :=
  match w.who with
  | .gp _ _ => w.threads.isEmpty
  | .core _ => false

/-- The contexts whose accesses wait for a line in a cache, with their agents. -/
def waitingCtxs (s : State) (x line : Nat) : List (Nat × Nat) :=
  (s.coh.waiters.filter (fun w => l2Number w.who == x && w.lines.contains line && !w.nextLine)).map (fun w => match w.who with
    | .core c => ((coreOf s c).ctx, 2016 + c)
    | .gp t g => ((unitOf s t (8 + g)).ctx, 28 * t + 8 + g))

/-- A fill gets no data (R302): the accesses that wait for it meet the burst, and next-line fetches of it are dropped (R216). -/
def fillFails (s : State) (x line burst : Nat) : State :=
  let s1 := meetBad s burst (waitingCtxs s x line)
  let e := dirOf s1 line
  let s2 := setEntry (modDir s1 line (fun e => { e with busy := none, awaiting := [] })) line e.owned e.sharers
  { s2 with coh := { s2.coh with
    waiters := s2.coh.waiters.filter (fun w => !(l2Number w.who == x && w.nextLine && w.lines.contains line)) } }

/-- The request is complete at the home: the line goes to X as R267 says. A line with an uncorrectable burst is not
delivered and no cache allocates it (R302). -/
def completeRequest (s : State) (x line : Nat) (r : Req) : State :=
  let e := dirOf s line
  match r with
  | .ownNodata => setEntry (modDir (sendGrant s x line r .m none) line (fun g => { g with data := e.data })) line true (2 ^ x)
  | .upgrade => setEntry (sendGrant s x line r .m none) line true (2 ^ x)
  | _ =>
    match e.data with
    | some d =>
      -- an M line that its owner gave up
      if r = .rdShared then setEntry (sendGrant s x line r .s (some d)) line false (e.sharers ||| 2 ^ x)
      else setEntry (sendGrant s x line r .m (some d)) line true (2 ^ x)
    | none =>
      match badBurst s (128 * line) 128 with
      | some b => fillFails s x line b
      | none =>
        let s1 := homeFill s line
        let d := some (homeLine s line)
        if r = .rdShared then
          if e.sharers = 0 then setEntry (sendGrant s1 x line r .e d) line true (2 ^ x)
          else setEntry (sendGrant s1 x line r .s d) line false (e.sharers ||| 2 ^ x)
        else setEntry (sendGrant s1 x line r .m d) line true (2 ^ x)

/-- A request that needs snoops waits for their answers. -/
def awaitSnoops (s : State) (line : Nat) (a : Asker) (ys : List (Nat × Nat)) : State :=
  modDir s line (fun e => { e with busy := some a, awaiting := ys })

/-- Sharers of an entry other than a cache. -/
def othersOf (e : DirEntry) (x : Nat) : List Nat := (bitList e.sharers 200).filter (fun y => y != x)

/-- A new entry takes the next allocation order (R264). -/
def allocEntry (s : State) (line : Nat) : State :=
  if (dirOf s line).sharers ≠ 0 then s
  else
    let s1 := modDir s line (fun e => { e with age := s.coh.age })
    { s1 with coh := { s1.coh with age := s1.coh.age + 1 } }

/-- The home takes a request of a cache (R267). -/
def homeTake (s : State) (x line : Nat) (r : Req) : State :=
  let s := allocEntry s line
  let e := dirOf s line
  let others := othersOf e x
  -- an UPGRADE of a cache that is no longer a sharer is an RD_OWN
  let r' := if r = .upgrade && !e.sharers.testBit x then Req.rdOwn else r
  if others.isEmpty then completeRequest s x line r'
  else if e.owned then awaitSnoops s line (.cache x r') (others.map (fun y => (y, if r' = .rdShared then 0 else 1)))
  else if r' = .rdShared then completeRequest s x line r'
  else awaitSnoops s line (.cache x r') (others.map (fun y => (y, 1)))

/-- The home acknowledges a PUT: the writeback buffer lets its oldest copy of the line go. A PUT that crossed a snoop, or
whose cache holds the line again, finds the cache not recorded as it was and changes nothing; neither does a PUT_S where the
entry is OWNED (R265, R267). -/
def putHome (x line : Nat) (r : Req) (s : State) : Out :=
  if !(homeServes s line && nextAsker s line = some (.cache x r)) then .next s
  else
    let s1 := dropAsker s (line, .cache x r)
    let l := (tget [] s1.coh.wb x).find? (fun l => l.line == line && putOf l.st == r)
    let s2 := { s1 with coh := { s1.coh with wb := tput [] s1.coh.wb x (match l with
      | some l => (tget [] s1.coh.wb x).erase l
      | none => tget [] s1.coh.wb x) } }
    let e := dirOf s2 line
    if !e.sharers.testBit x || (l2Find s2 x line).isSome then .next s2
    else if !e.owned then .next (setEntry s2 line false (e.sharers - 2 ^ x))
    else match r, l with
      | .putM, some l => .next (if l.taken then s2 else setEntry (writeLine s2 line l.data) line false 0)
      | .putE, some l => .next (if l.taken then s2 else setEntry s2 line false 0)
      | _, _ => .next s2

/-- PUT_S (R267). -/
def execPutS (x line : Nat) (s : State) : Out := putHome x line .putS s
/-- PUT_E (R267). -/
def execPutE (x line : Nat) (s : State) : Out := putHome x line .putE s
/-- PUT_M (R267). -/
def execPutM (x line : Nat) (s : State) : Out := putHome x line .putM s

/-! ### Uncached requests (R266, R268) -/

/-- The bytes of an uncached read go to its agent; an uncorrectable burst gives none (R302). -/
def answerRead (s : State) (c pa len : Nat) (dirty : Option (BitVec 1024)) : State :=
  let bs := match dirty with
    | some d => some ((upFrom (pa % 128) len).map (lineByte d))
    | none => if (badBurst s pa len).isSome then none else some (tgetN 0 s.mem.cells pa len)
  match bs with
  | some bs => { s with coh := { s.coh with replies := s.coh.replies ++ [bs] } }
  | none => meetBad s ((badBurst s pa len).getD 0) [(c, houseAgent)]

/-- An AtomicOp at a word of `size` bytes: 0 FetchAdd, 1 Swap, 2 CAS (R268, R361). -/
def atomicOp (op size : Nat) (old operand comparand : Nat) : Nat :=
  let m := 2 ^ (8 * size)
  if op = 0 then (old + operand) % m
  else if op = 1 then operand % m
  else if old = comparand % m then operand % m else old

/-- Bytes merged at their home, no cache holding their line (R257, R268). -/
def mergeAt (s : State) (pa : Nat) (bs : List Byte) : State :=
  let s1 := llmSoil s (pa / 128)
  let whole := (upFrom (pa / 32) ((pa + bs.length) / 32 - pa / 32)).filter (fun b => decide (pa ≤ 32 * b))
  { s1 with mem := { s1.mem with cells := tputN 0 s1.mem.cells pa bs, bad := whole.foldl terase s1.mem.bad } }

/-- The bytes that a byte mask lets through, as runs: address and bytes of each (R266). -/
def maskRuns : Nat → Nat → List Byte → List (Nat × List Byte)
  | _, _, [] => []
  | pa, m, b :: bs =>
    let rest := maskRuns (pa + 1) (m / 2) bs
    if m % 2 = 0 then rest
    else match rest with
      | (a, r) :: more => if a = pa + 1 then (pa, b :: r) :: more else (pa, [b]) :: rest
      | [] => [(pa, [b])]

/-- Runs of bytes merged at a home with no holder left (R268); a burst that they would change only in part and that cannot
be read is met instead (R302). -/
def mergeHome (s : State) (c : Nat) (runs : List (Nat × List Byte)) : State :=
  match badPartial s (runs.map (fun r => (r.1, r.2.length))) with
  | some a => meetBad s (a / 32) [(c, houseAgent)]
  | none => runs.foldl (fun s r => mergeAt s r.1 r.2) s

/-- An uncached request is performed once no holder is left (R268). -/
def finishUncached (s : State) (line : Nat) (a : Asker) : State :=
  let e := dirOf s line
  let s0 := setEntry (modDir s line (fun e => { e with busy := none, awaiting := [], data := none })) line e.owned e.sharers
  match a with
  | .read c pa len => answerRead s0 c pa len (dirOf s line).data
  | .write c pa mask bs => mergeHome (setEntry s0 line false 0) c (maskRuns pa mask bs)
  | .atomic c pa op size operand comparand =>
    let s1 := setEntry s0 line false 0
    if (badBurst s1 pa size).isSome then meetBad s1 ((badBurst s1 pa size).getD 0) [(c, houseAgent)]
    else
      let old := leNat (tgetN 0 s1.mem.cells pa size)
      let s2 := mergeAt s1 pa (leBytes size (atomicOp op size old operand.toNat comparand.toNat))
      { s2 with coh := { s2.coh with replies := s2.coh.replies ++ [leBytes size old] } }
  | .cache _ _ => s

/-- A line taken from every coherent cache for an uncached access, a recall or the house (R264, R268, R279). What arrived
at the home before is taken first (R263): dirty data goes home, uncached requests in progress or waiting are performed in
order, and a cache whose request is in progress is granted the line and loses it again, so that its request comes back
(log 20). -/
def recallLine (s : State) (line : Nat) : State :=
  let s1 := match dirtyLine s line with
    | some d => writeLine s line d
    | none => s
  let drop := fun (_ : Nat) (ls : List Line) => ls.filter (fun l => l.line != line)
  let uncached := fun (a : Asker) => match a with
    | .cache _ _ => false
    | _ => true
  let busy := (dirOf s line).busy.toList
  let first := busy.filter uncached ++ (s.coh.queue.filter (fun q => q.1 == line && uncached q.2)).map (fun q => q.2)
  let s2 := { s1 with coh := { s1.coh with
      l2 := tmap [] s1.coh.l2 drop
      wb := tmap [] s1.coh.wb drop
      l1d := tmap [] s1.coh.l1d (fun _ ls => ls.filter (fun y => y.1 != line))
      l1i := tmap [] s1.coh.l1i (fun _ ls => ls.filter (fun y => y != line))
      dir := terase s1.coh.dir line
      queue := (busy.filter (fun a => !uncached a)).map (fun a => (line, a)) ++
        s1.coh.queue.filter (fun q => !(q.1 == line && uncached q.2)) } }
  first.foldl (fun s a => finishUncached s line a) s2

/-- The bytes of one line merged at its home by an uncached agent, every cache having lost the line (R268). -/
def mergeLine (s : State) (pa : Nat) (bs : List Byte) : State :=
  let line := pa / 128
  mergeAt (if dirOf s line = {} && !s.coh.queue.any (fun q => q.1 == line) then s else recallLine s line) pa bs

/-- The home has an entry for a line, or makes room for one: a full set of 16 loses its oldest entry that is not BUSY, which
is recalled. While all 16 are BUSY there is none, and the request waits (R264). -/
def roomFor (s : State) (line : Nat) : Option State :=
  if (dirOf s line).sharers ≠ 0 then some s
  else
    let inSet := s.coh.dir.filter (fun kv => kv.1 % 131072 == line % 131072 && homeHub (128 * kv.1) == homeHub (128 * line))
    if inSet.length < 16 then some s
    else
      let idle := sortBy (fun a b => decide (a.2.age ≤ b.2.age)) (inSet.filter (fun kv => kv.2.busy.isNone))
      idle.head?.map (fun kv => recallLine s kv.1)

/-- A row of a request: the home takes it when it is the first for its line and an entry has room (R263, R264). -/
def requestRow (x line : Nat) (r : Req) (s : State) : Out :=
  .next (if homeServes s line && nextAsker s line = some (.cache x r) then
      match roomFor s line with
      | some s1 => homeTake (dropAsker s1 (line, .cache x r)) x line r
      | none => s
    else s)

/-- RD_SHARED (R267). -/
def execRdShared (x line : Nat) (s : State) : Out := requestRow x line .rdShared s
/-- RD_OWN (R267). -/
def execRdOwn (x line : Nat) (s : State) : Out := requestRow x line .rdOwn s
/-- OWN_NODATA (R267). -/
def execOwnNodata (x line : Nat) (s : State) : Out := requestRow x line .ownNodata s
/-- UPGRADE (R267). -/
def execUpgrade (x line : Nat) (s : State) : Out := requestRow x line .upgrade s

/-- The home takes an uncached request: snoops first, where a cache may hold newer data or must lose the line (R268). -/
def takeUncached (s : State) (line : Nat) (a : Asker) : State :=
  let e := dirOf s line
  let holders := bitList e.sharers 200
  match a with
  | .read _ _ _ => if e.owned then awaitSnoops s line a (holders.map (fun y => (y, 2))) else finishUncached s line a
  | _ => if holders.isEmpty then finishUncached s line a else awaitSnoops s line a (holders.map (fun y => (y, 1)))

/-- An uncached request arrives at its home, and is taken when it is the first for its line (R263). The access must lie in
one line of memory with a home; a failed owner check, or memory that is gone, loses the context (R266, R278, R325, R330). -/
def uncachedRow (c pa len : Nat) (a : Asker) (s : State) : Out :=
  let line := pa / 128
  if len = 0 || pa % 128 + len > 128 || !cacheable pa then .next s
  else if !ownerOk s c pa then .next (raise s c (faultOf s stOwner 0 houseAgent (BitVec.ofNat 64 pa) 0))
  else if (deadAddr s pa).isSome then .next (raise s c (faultOf s stMemory 0 houseAgent (BitVec.ofNat 64 ((deadAddr s pa).getD 0)) 0))
  else if !homeServes s line then .next s
  else
    let s1 := if s.coh.queue.contains (line, a) then s else { s with coh := { s.coh with queue := s.coh.queue ++ [(line, a)] } }
    .next (if nextAsker s1 line = some a then takeUncached (dropAsker s1 (line, a)) line a else s1)

/-- READ_ONCE (R268). -/
def execReadOnce (c pa len : Nat) (s : State) : Out := uncachedRow c pa len (.read c pa len) s
/-- WRITE_INV (R268). -/
def execWriteInv (c pa mask : Nat) (data : List Byte) (s : State) : Out := uncachedRow c pa data.length (.write c pa mask data) s
/-- HOME_ATOMIC (R268). -/
def execHomeAtomic (c pa op size : Nat) (operand comparand : W64) (s : State) : Out :=
  if pa % size ≠ 0 then .next s else uncachedRow c pa size (.atomic c pa op size operand comparand) s

/-- The bytes of a write cut at line boundaries: address and bytes of each piece. -/
def cutLines : Nat → Nat → List Byte → List (Nat × List Byte)
  | 0, _, _ => []
  | fuel + 1, pa, bs =>
    if bs.isEmpty then []
    else
      let n := 128 - pa % 128
      (pa, bs.take n) :: cutLines fuel (pa + n) (bs.drop n)

/-- An uncached write (R268). -/
def writeBytes (s : State) (pa : Nat) (bs : List Byte) : State :=
  (cutLines (bs.length / 128 + 2) pa bs).foldl (fun s x => mergeLine s x.1 x.2) s

/-- Bytes of the tile stores and of other house memory, which no cache holds (R253, R307). -/
def writeStore (s : State) (pa : Nat) (bs : List Byte) : State :=
  { s with mem := { s.mem with cells := tputN 0 s.mem.cells pa bs } }

/-- A range of memory set to zero with every cached copy dropped (R291, R326); requests in progress come back. -/
def zeroRange (s : State) (pa n : Nat) : State :=
  let inR := fun a => decide (pa ≤ a) && decide (a < pa + n)
  let keep := fun (_ : Nat) (ls : List Line) => ls.filter (fun l => !inR (128 * l.line))
  let again := (s.coh.dir.filter (fun x => inR (128 * x.1))).flatMap (fun x => (x.2.busy.map (fun a => (x.1, a))).toList)
  { s with
    mem := { s.mem with
      cells := s.mem.cells.filter (fun x => !inR x.1)
      bad := s.mem.bad.filter (fun x => !inR (32 * x.1)) }
    coh := { s.coh with
      l2 := tmap [] s.coh.l2 keep
      wb := tmap [] s.coh.wb keep
      l1d := tmap [] s.coh.l1d (fun _ ls => ls.filter (fun y => !inR (128 * y.1)))
      l1i := tmap [] s.coh.l1i (fun _ ls => ls.filter (fun y => !inR (128 * y)))
      queue := again ++ s.coh.queue
      dir := s.coh.dir.filter (fun x => !inR (128 * x.1))
      llm := tmap [] s.coh.llm (fun _ ls => ls.filter (fun l => !inR (128 * l.1)))
      stale := s.coh.stale.filter (fun x => !inR (128 * x.1)) } }

/-! ### Snoops (R265) -/

/-- A cache's line changes its state, or leaves it, with the L1s of a core (R252); the copy of a writeback buffer that
answers the snoop is used up. -/
def setMesi (s : State) (y line : Nat) (st : Option Mesi) : State :=
  if (l2Find s y line).isSome then
    let s1 := if st.isNone then dropCoreL1 s y line else s
    setL2 s1 y ((l2Of s1 y).filterMap (fun l => if l.line = line then st.map (fun v => { l with st := v }) else some l))
  else { s with coh := { s.coh with
    wb := tmod [] s.coh.wb y (fun ls => ls.map (fun l => if l.line = line then { l with taken := true } else l)) } }

/-- The last answer ends the wait (R267, R268). -/
def answered (s : State) (y kind line : Nat) : State :=
  let s1 := modDir s line (fun e => { e with awaiting := e.awaiting.erase (y, kind) })
  let e := dirOf s1 line
  if !e.awaiting.isEmpty then s1
  else match e.busy with
    | some (.cache x r) => completeRequest s1 x line r
    | some a => finishUncached s1 line a
    | none => s1

/-- The snoop is awaited from this cache. -/
def snoopDue (s : State) (y kind line : Nat) : Bool := (dirOf s line).awaiting.contains (y, kind)

/-- DOWNGRADE (R265): an M line goes to the requester and to home; the line is then S. -/
def execDowngrade (y line : Nat) (s : State) : Out :=
  if !snoopDue s y 0 line then .next s
  else
    let s1 := match copyOf s y line with
      | some l =>
        if l.st = .m then
          let s2 := writeLine s line l.data
          modDir s2 line (fun e => { e with data := some l.data, owned := false })
        else modDir s line (fun e => { e with owned := false })
      | none => modDir s line (fun e => { e with owned := false })
    .next (answered (setMesi s1 y line (some .s)) y 0 line)

/-- INVALIDATE (R265): an M line goes to the requester, to home for an uncached write, or is dropped for OWN_NODATA; what is
dropped is kept aside until the grant, as the value that other agents still read (R272). -/
def execInvalidate (y line : Nat) (s : State) : Out :=
  if !snoopDue s y 1 line then .next s
  else
    let e := dirOf s line
    let s1 := match copyOf s y line, e.busy with
      | some l, some (.cache _ _) =>
        if l.st = .m && e.owned then modDir s line (fun e => { e with data := some l.data }) else s
      | some l, some _ => if l.st = .m && e.owned then writeLine s line l.data else s
      | _, _ => s
    let s2 := setMesi s1 y line none
    let s3 := modDir s2 line (fun e => { e with owned := false, sharers := if e.sharers.testBit y then e.sharers - 2 ^ y else e.sharers })
    .next (answered s3 y 1 line)

/-- READ_ONCE snoop (R265): an M line's data is returned, and the line stays as it is. -/
def execReadOnceSnoop (y line : Nat) (s : State) : Out :=
  if !snoopDue s y 2 line then .next s
  else
    let s1 := match copyOf s y line with
      | some l => if l.st = .m then modDir s line (fun e => { e with data := some l.data }) else s
      | none => s
    .next (answered s1 y 2 line)

/-- The line of a grant enters the cache (R265): the data granted, the copy an UPGRADE finds in the cache or its writeback
buffer, or the zeros that OWN_NODATA was asked for (R215). -/
def takeGrant (s : State) (x line : Nat) : State :=
  match (dirOf s line).granted with
  | some (y, st, data) =>
    if y ≠ x then s
    else
      let e := dirOf s line
      let old := if e.busy = some (.cache x .ownNodata) then 0
        else match l2Find s x line with
          | some l => l.data
          | none => (((tget [] s.coh.wb x).reverse.find? (fun l => l.line == line)).map (fun l => l.data)).getD 0
      let s1 := modDir s line (fun e => { e with busy := none, granted := none, data := none })
      placeLine s1 x { line, st, data := data.getD old }
  | none => s

end Sys2Proof.Machine
end

