-- ==== Sys2Proof/Config.lean ====
section
/-! DEFINITION. What each module has fused or draws for itself and what the spec leaves open: constants without a body,
so that no proof can see their values. -/

namespace Sys2Proof.Config

/-- Factory power weight of a die's counter, unit 2^-4 pJ (R441). -/
opaque weight (die counter : Nat) : Nat
/-- Fused leakage power of a die at 85 °C and V_ref, units of 2^-10 W (R438). -/
opaque leak (die : Nat) : Nat
/-- Fused full-load power of a die, W (R439). -/
opaque fullW (die : Nat) : Nat
/-- Core rail voltage of a die in a cue as its warden trims it, as a ratio to V_ref in units of 2^-16 (R438). -/
opaque rail (die cue : Nat) : Nat

/-- Which of the status codes of R499 an ABORT reports of a target that has no status yet, or of no target (R386 names the target's
status only). -/
opaque openStatus (cue queue seq : Nat) : Nat

/-- Byte that the check unit takes for a source byte whose remote read was refused (R422 gives it no value). -/
opaque lostByte (ctx off : Nat) : BitVec 8

/-- Fused SHAKE256 hash of the Trewemund root key (R457). -/
opaque rootHash : BitVec 256
/-- Digest of the boot ROM (R467). -/
opaque romDigest : BitVec 256
/-- Identity public key, 68 bytes (R457). -/
opaque identityKey : BitVec 544
/-- Serial number of the module (R458). -/
opaque serial : BitVec 32
/-- Trewemund's signature under the factory certificate, 2,820 bytes (R458). -/
opaque factorySignature : BitVec 22560
/-- TAG of a store record: KMAC256 under the store key over its first 32 bytes (R457, R460). -/
opaque storeTag (record : List (BitVec 8)) : BitVec 256
/-- Fused MAC address of the management jack (R479). -/
opaque jackMac : BitVec 48

/-- XMSS-SHAKE256_20_256 verification of a signature over a message under a 68-byte key (R457; SP 800-208). -/
opaque xmssVerify (key message signature : List (BitVec 8)) : Bool
/-- XMSSMT-SHAKE256_40/4_256 verification (R457; SP 800-208). -/
opaque xmssmtVerify (key message signature : List (BitVec 8)) : Bool
/-- Identity-key signature over a message with an index, 9,893 bytes (R457, R468; SP 800-208). -/
opaque xmssmtSign (index : Nat) (message : List (BitVec 8)) : BitVec 79144
/-- The `n`th draw of the security engine's random source (R407, R410). -/
opaque random (n : Nat) : BitVec 256

/-- STAGE_STATUS.CHECK after a failed check of an owner image, by the condition of R473 that fails (R475 names the codes of
R462, none of which is given to an owner image). -/
opaque ownerCode (condition : Nat) : BitVec 8

/-- Temperature sensors of a die (R488 rejects a sensor that does not exist; no rule counts them). -/
opaque sensors (die : Nat) : Nat

/-- DETAIL of a health event as its 21 bytes hold it (R492 lists its values and gives them no layout). -/
opaque eventDetail (code : Nat) (detail : List Nat) : BitVec 168

/-- Bytes that D holds for an Ethernet peer where R410 has a link number (0) and a generation (1), which R428 does not give. -/
opaque peerByte (which : Nat) : BitVec 8

end Sys2Proof.Config
end

