-- ==== Sys2Proof/Machine/Crc.lean ====
section
/-! DEFINITION. The check units' polynomials (R342, R343). -/

namespace Sys2Proof.Machine

/-- Width of a POLY in bits (R342). -/
def crcWidth (poly : Nat) : Nat := if poly = 2 then 64 else if poly = 3 then 16 else 32

/-- Bytes of a check value (R344). -/
def crcBytes (poly : Nat) : Nat := crcWidth poly / 8

/-- Initial value (R342). -/
def crcInit (poly : Nat) : Nat := if poly = 2 then 0 else if poly = 3 then 0xFFFF else 0xFFFFFFFF

/-- Final XOR (R342). -/
def crcXor (poly : Nat) : Nat := if poly < 2 then 0xFFFFFFFF else 0

/-- One bit of a reflected register that shifts right; the polynomial has its bits reversed. -/
def crcRight (p : Nat) : Nat → Nat → Nat
  | 0, r => r
  | n + 1, r => crcRight p n (if r % 2 = 1 then (r / 2) ^^^ p else r / 2)

/-- One bit of a register that shifts left. -/
def crcLeft (p w : Nat) : Nat → Nat → Nat
  | 0, r => r
  | n + 1, r => crcLeft p w n (if r.testBit (w - 1) then (r * 2 % 2 ^ w) ^^^ p else r * 2 % 2 ^ w)

/-- A byte enters the register (R342). -/
def crcByte (poly r : Nat) (b : Byte) : Nat :=
  match poly with
  | 0 => crcRight 0x82F63B78 8 (r ^^^ b.toNat)
  | 1 => crcRight 0xEDB88320 8 (r ^^^ b.toNat)
  | 2 => crcLeft 0x42F0E1EBA9EA3693 64 8 (r ^^^ (b.toNat * 2 ^ 56))
  | _ => crcLeft 0x1021 16 8 (r ^^^ (b.toNat * 2 ^ 8))

/-- The running value after some bytes (R343). -/
def crcRun (poly r : Nat) (bs : List Byte) : Nat := bs.foldl (crcByte poly) r

/-- The check value of bytes from the initial value (R343). -/
def crcOf (poly : Nat) (bs : List Byte) : Nat := crcRun poly (crcInit poly) bs ^^^ crcXor poly

end Sys2Proof.Machine
end

