-- ==== Sys2Proof/Machine/Access.lean ====
section
/-! DEFINITION. Access to memory by virtual address: translation (R309–R315), the checks of an access (R325, R330, R331), the
pieces of a range, translations dropped (R320), and granules given and returned (R324, R326). -/

namespace Sys2Proof.Machine

/-! ### Translation (R309–R313) -/

/-- Permissions an access needs, in the order of the leaf bits [61:58]: READ 8, WRITE 4, ATOMIC 2, EXEC 1 (R310). -/
abbrev Need := Nat
def needRead : Need := 8
def needWrite : Need := 4
def needSignal : Need := 12
def needAtomic : Need := 14
def needFetch : Need := 9

/-- The granule of an address is owned by the house (R311, R312). -/
def houseGranule (s : State) (pa : Nat) : Bool :=
  inStack pa && decide (bits (ownerEntry s pa) 14 13 = 1) && decide (bits (ownerEntry s pa) 11 0 = 0)

/-- A table entry whose reserved bits are 0 (R310). -/
def entryClean (w : W64) : Bool := decide (bits w 57 48 = 0) && decide (bits w 15 0 = 0)

/-- Physical address bits of an entry (R310). -/
def entryPa (w : W64) : Nat := bits w 47 16 * 65536

/-- A valid pointer (R311). -/
def pointerOk (s : State) (w : W64) : Bool :=
  bit w 63 && !bit w 62 && entryClean w && decide (bits w 61 58 = 0) && houseGranule s (entryPa w)

/-- A valid leaf (R311); `big`: a 512 MiB page. -/
def leafOk (s : State) (big : Bool) (w : W64) : Bool :=
  let pa := entryPa w
  bit w 63 && bit w 62 && entryClean w &&
    if big then decide (bits w 28 16 = 0) && inStack pa
    else cacheable pa || (hostOf pa).isSome ||
      (inRemote pa && (slotOf s ((pa - 0x100000000000) / 0x100000000)).valid)

/-- The walk from a root node: the leaf of a virtual address and whether it maps 512 MiB (R309, R311). -/
def walk (s : State) (root va : Nat) : Option (W64 × Bool) :=
  if va ≥ 2 ^ 55 then none
  else
    let e3 := readWord s (root + 8 * (va / 2 ^ 42))
    if !pointerOk s e3 then none
    else
      let e2 := readWord s (entryPa e3 + 8 * (va / 2 ^ 29 % 8192))
      if bit e2 62 then (if leafOk s true e2 then some (e2, true) else none)
      else if !pointerOk s e2 then none
      else
        let e1 := readWord s (entryPa e2 + 8 * (va / 2 ^ 16 % 8192))
        if leafOk s false e1 then some (e1, false) else none

/-- Physical address of a virtual address through a leaf. -/
def leafAddr (leaf : W64 × Bool) (va : Nat) : Nat :=
  if leaf.2 then bits leaf.1 47 29 * 2 ^ 29 + va % 2 ^ 29 else entryPa leaf.1 + va % 65536

/-- The leaf grants the access (R313). -/
def leafGrants (leaf : W64) (need : Need) : Bool := (bits leaf 61 58) &&& need == need

/-- Translation of a virtual address of a context; context 0 is untranslated (R308, R313). -/
def translate (s : State) (c va : Nat) (need : Need) : Option Nat :=
  if c = 0 then (if va < 2 ^ 48 then some va else none)
  else match walk s (ctxOf s c).root va with
    | some leaf => if leafGrants leaf.1 need then some (leafAddr leaf va) else none
    | none => none

/-- A range cut at 64 KiB page boundaries: address and length of each piece. -/
def pagePieces : Nat → Nat → Nat → List (Nat × Nat)
  | 0, _, _ => []
  | fuel + 1, va, n =>
    if n = 0 then []
    else
      let k := min n (65536 - va % 65536)
      (va, k) :: pagePieces fuel (va + k) (n - k)

def pagesOf (va n : Nat) : List (Nat × Nat) := pagePieces (n / 65536 + 2) va n


/-- What an access meets: the physical pieces it covers, or the status and address of its fault (R330, R502). -/
inductive Access where
  | ok (pieces : List (Nat × Nat))
  | bad (status addr : Nat)
deriving DecidableEq, Repr

/-- A range of a context's addresses: every page is translated first, the lowest failing address being reported; then
each piece is checked against the owner of its memory (R313, R325, R330, R331). -/
def resolve (s : State) (c va n : Nat) (need : Need) : Access :=
  let ps := pagesOf va n
  match ps.find? (fun x => (translate s c x.1 need).isNone) with
  | some x => .bad stTranslation x.1
  | none =>
    let pas := ps.map (fun x => ((translate s c x.1 need).getD 0, x.2))
    match (ps.zip pas).find? (fun x => !ownerOk s c x.2.1) with
    | some x => .bad stOwner x.1.1
    | none =>
      match pas.findSome? (fun x => deadAddr s x.1) with
      | some a => .bad stMemory a
      | none => .ok pas

/-- The pieces lie in stack memory or the scratchpad (R76, R323, R360, R388). -/
def allLocal (pas : List (Nat × Nat)) : Bool := pas.all (fun x => cacheable x.1)

/-- An uncached read of local pieces. -/
def readPieces (s : State) (pas : List (Nat × Nat)) : List Byte := pas.flatMap (fun x => readBytes s x.1 x.2)

/-- An uncached write of local pieces. -/
def writePieces (s : State) : List (Nat × Nat) → List Byte → State
  | [], _ => s
  | (pa, n) :: rest, bs => writePieces (writeBytes s pa (bs.take n)) rest (bs.drop n)

/-- First uncorrectable burst of some pieces, as a byte address. -/
def badPiece (s : State) (pas : List (Nat × Nat)) : Option Nat :=
  (pas.findSome? (fun x => badBurst s x.1 x.2)).map (fun b => 32 * b)

/-- Every translation of a context dropped from every cache (R320). -/
def dropTlb (s : State) (c : Nat) : State :=
  { s with mem := { s.mem with tlb := s.mem.tlb.filter (fun e => e.ctx != c) } }

/-! ### Granules (R324, R326) -/

/-- The bay whose stacks or scratchpad hold a granule. -/
def granuleHub (g : Nat) : Nat := homeHub (g * 0x200000)

/-- Ownership entry word: owned by a context, or by the house for a shared object. -/
def ownedBy (c : Nat) (shared : Bool) : BitVec 16 := BitVec.ofNat 16 (0x2000 + (if shared then 0x1000 else c))

/-- A granule given to an owner, zeroed first (R326). -/
def giveGranule (s : State) (g c : Nat) (shared : Bool) : State :=
  let s1 := zeroRange s (g * 0x200000) 0x200000
  { s1 with mem := { s1.mem with owner := tput 0 s1.mem.owner g (ownedBy c shared) } }

/-- A granule returned to free memory, its lines recalled; a retired one stays retired (R279, R301, R326). -/
def freeGranule (s : State) (g : Nat) : State :=
  if bits (tget 0 s.mem.owner g) 14 13 ≥ 2 then s
  else
  let lines := (s.coh.dir.map (fun x => x.1)).filter (fun l => l / 16384 == g)
  let s1 := flushLlm (lines.foldl recallLine s) (fun l => l / 16384 == g)
  { s1 with mem := { s1.mem with owner := tput 0 s1.mem.owner g 0 } }

/-- A granule that is free, in stack memory or scratchpad of a partition, its stack in service. -/
def granuleFree (s : State) (p g : Nat) : Bool :=
  let pa := g * 0x200000
  cacheable pa && bits (ownerEntry s pa) 14 13 == 0 && (partBays s p).contains (homeHub pa) && (deadAddr s pa).isNone &&
    (!inStack pa || (stackOf s (pa / stackBytes)).state == 1)

end Sys2Proof.Machine
end

