-- ==== Sys2Proof/Machine/Flags.lean ====
section
/-! DEFINITION. Flags and status words that the device computes: completion records (R384), fault records (R501),
register fields that count with saturation. -/

namespace Sys2Proof.Machine

/-- A count that stops at its limit. -/
def satTo (lim n : Nat) : Nat := min lim n

/-- FLAGS of a completion record (R384): MISMATCH, HOLDS_SAT, ENERGY_SAT, FAULT, PHASE. -/
def recordFlags (d : Done) (firstPass : Bool) : W64 :=
  flag d.mismatch 48 ||| flag (decide (d.holds > 65535)) 49 ||| flag (decide (d.energy / 1024 > 2 ^ 48 - 1)) 50 |||
    flag d.fault 51 ||| flag firstPass 63

/-- The four words of a completion record (R384); PHASE is 1 on the even passes of the ring. -/
def recordWords (seq : Nat) (d : Done) (cue pass : Nat) : List W64 :=
  [recordFlags d (pass % 2 == 0) ||| fld d.status 16 32 ||| fld seq 32 0,
   BitVec.ofNat 64 cue,
   fld (satTo 65535 d.holds) 16 48 ||| fld (satTo (2 ^ 48 - 1) (d.energy / 1024)) 48 0,
   d.result]

/-- A mask of numbers. -/
def maskOf (ns : List Nat) : Nat := ns.foldl (fun m n => m ||| 2 ^ n) 0

/-- The engine, hub and house masks of a fault record from the agents that faulted in its cue (R332, R501). -/
def recordMasks (f : FaultRecord) (agents : List Nat) : FaultRecord :=
  let tiles := agents.filter (fun a => decide (a < 2016))
  let cores := agents.filter (fun a => decide (2016 ≤ a) && decide (a < 2144))
  { f with
    house := agents.any (fun a => a == 2144)
    units := if f.agent < 2016 then
        maskOf ((tiles.filter (fun a => a / 28 == f.agent / 28)).map (fun a => a % 28)) else 0
    tiles := maskOf (tiles.map (fun a => a / 28))
    hubs := maskOf (cores.map (fun a => (a - 2016) / 16)) }

/-- Word `i` of a fault record (R501). -/
def faultWord (f : FaultRecord) (i : Nat) : W64 :=
  match i with
  | 0 => flag f.valid 63 ||| fld f.status 16 32 ||| fld f.cause 8 24 ||| fld f.agent 12 0
  | 1 => BitVec.ofNat 64 f.cue
  | 2 => f.address
  | 3 => f.whereAt
  | 4 => flag f.house 63 ||| fld f.units 28 0
  | 5 => BitVec.ofNat 64 f.tiles
  | 6 => fld f.hubs 8 8 ||| fld (f.tiles / 2 ^ 64) 8 0
  | 7 => fld (satTo 65535 f.merged) 16 0
  | _ => 0

end Sys2Proof.Machine
end

