-- ==== Sys2Proof/Machine/Operands.lean ====
section
/-! DEFINITION. Operand fields of command packets (R381, R382): word 0, the lengths and queues that each opcode allows,
and the addresses of rings (R378). -/

namespace Sys2Proof.Machine

/-- OPCODE of word 0 (R381). -/
def pktOp (w : W64) : Nat := bits w 63 56
/-- CONTEXT of word 0 (R381). -/
def pktCtx (w : W64) : Nat := bits w 55 44
/-- ORDERED_COMPLETE (R381). -/
def pktOrdered (w : W64) : Bool := bit w 40
/-- NO_INTERRUPT (R381). -/
def pktQuiet (w : W64) : Bool := bit w 41
/-- LENGTH of word 0 (R381). -/
def pktLen (w : W64) : Nat := bits w 39 32
/-- SEQUENCE of word 0 (R381). -/
def pktSeq (w : W64) : Nat := bits w 31 0

/-- Ring entries that a packet occupies (R378). -/
def pktEntries (w : W64) : Nat := let n := pktLen w; if 1 ≤ n && n ≤ 4 then n else 1

/-- Opcodes of R382 and R481 that the call desk knows. -/
def knownOps : List Nat :=
  [0x00, 0x01, 0x02, 0x03, 0x10, 0x11, 0x12, 0x20, 0x21, 0x22, 0x30, 0x31, 0x32, 0x40, 0x41, 0x42, 0x43, 0x50, 0x60,
   0x70, 0x71, 0x80, 0x81, 0x82, 0x83, 0x84, 0x85, 0x86, 0x87, 0x88, 0x89, 0x8A, 0x8B, 0x8C, 0x8D, 0x8E, 0x90, 0x91,
   0x92, 0x93, 0xA0, 0xA1]

/-- Opcodes accepted on a compute queue (R382). -/
def computeOps : List Nat :=
  [0x00, 0x01, 0x02, 0x03, 0x10, 0x11, 0x12, 0x20, 0x21, 0x22, 0x30, 0x31, 0x32, 0x40, 0x41, 0x50, 0x60, 0x70, 0x71]

/-- Opcodes accepted on a copy queue (R382). -/
def copyOps : List Nat := [0x00, 0x01, 0x02, 0x03, 0x10, 0x11, 0x12, 0x50, 0x60]

/-- Opcodes a house queue refuses although they are known (R382). -/
def neverHouse : List Nat := [0x10, 0x11, 0x12, 0x20, 0x21, 0x22]

/-- House-only opcodes: NOT_HOUSE elsewhere (R382). -/
def houseOnly (op : Nat) : Bool := op == 0x42 || op == 0x43 || (decide (0x80 ≤ op) && decide (op ≤ 0xBF))

/-- The LENGTH is in the opcode's range (R382, R481). -/
def lengthOk (op n : Nat) : Bool :=
  if op = 0x00 then decide (1 ≤ n) && decide (n ≤ 4)
  else if op = 0x10 || op = 0x11 || op = 0x12 || op = 0x93 then n == 2
  else n == 1

/-- Entries of a queue's ring: 64 for a house queue, 2 ^ (ORDER + 6) otherwise (R374). -/
def ringSize (q ord : Nat) : Nat := if q < 2 || q = 1024 then 64 else 2 ^ (ord + 6)

end Sys2Proof.Machine
end

