-- ==== Sys2Proof/Machine/Post.lean ====
section
/-! DEFINITION. Traffic to the hosts (R355, R356, R363, R364, R367), health events (R491–R493), completion records
(R378, R384), the starting of commands (R380) and the checks of the call desk (R383). -/

namespace Sys2Proof.Machine

/-! ### Host traffic -/

/-- A number of bytes cut at 4 KiB boundaries and at a limit: offset and length of each piece (R364). -/
def cutBus : Nat → Nat → Nat → Nat → Nat → List (Nat × Nat)
  | 0, _, _, _, _ => []
  | fuel + 1, lim, bus, off, n =>
    if n = 0 then []
    else
      let k := min n (min (max lim 1) (4096 - (bus + off) % 4096))
      (off, k) :: cutBus fuel lim bus (off + k) (n - k)

/-- Bytes in the port's buffer (R354 HELD_KIB, R367). -/
def heldBytes (p : Port) : Nat := (p.held.map (fun t => t.data.length)).sum

/-- The port's 4 MiB buffer takes the bytes, or the port is not holding (R367 item 2). -/
def portTakes (s : State) (p n : Nat) : Bool :=
  let x := portOf s p
  !x.holding || decide (heldBytes x + n ≤ 4 * 1024 * 1024)

/-- A posted write or message of a port: dropped while the port is silent, kept in order while it holds (R367, R368). -/
def postOne (s : State) (p : Nat) (t : Tlp) : State :=
  let x := portOf s p
  if x.silent || x.lost then s
  else
    let t' := { t with relaxed := t.relaxed && !x.orderNext }
    if x.holding then setPort s p { x with held := x.held ++ [t'], orderNext := false }
    else setPort s p { x with out := x.out ++ [t'], orderNext := false }

/-- A write of bytes to a host, cut at the programmed Max Payload Size (R364). -/
def postWrite (s : State) (p bus : Nat) (bs : List Byte) (relaxed : Bool) : State :=
  (cutBus (bs.length + 1) (portOf s p).mps bus 0 bs.length).foldl (fun s x =>
    postOne s p { bus := bus + x.1, data := (bs.drop x.1).take x.2, relaxed, msix := none }) s

/-- A read of host memory is asked, cut at 4 KiB boundaries and the programmed Max Read Request Size (R364); `purpose`
is given the offset of each piece. -/
def askHost (s : State) (p bus n c : Nat) (purpose : Nat → ReadFor) : State :=
  let x := portOf s p
  if x.silent || x.lost then s
  else
    let ps := cutBus (n + 1) x.mrrs bus 0 n
    let go := fun (y : Port) (o : Nat × Nat) =>
      { y with
        reads := y.reads ++ [{ tag := y.nextTag, bus := bus + o.1, len := o.2, ctx := c, purpose := purpose o.1, again := false }]
        nextTag := (y.nextTag + 1) % 1024 }
    setPort s p (ps.foldl go x)

/-- Entry `v` of a port's MSI-X table. -/
def msixOf (x : Port) (v : Nat) : Msix := tget {} x.msix v

/-- The message of a vector (R355, R356): never relaxed. -/
def msixTlp (e : Msix) (v : Nat) : Tlp :=
  { bus := e.addr.toNat, data := leBytes 4 e.data.toNat, relaxed := false, msix := some v }

/-- A vector is raised (R355): once per cue at most, after every record of the cue that raises it; a masked vector sets
its pending bit. -/
def raiseVector (s : State) (p v : Nat) : State :=
  let x := portOf s p
  let e := msixOf x v
  if e.control.getLsbD 0 || x.funcMask then
    setPort s p { x with msix := tput {} x.msix v { e with pend := true } }
  else if x.sentVecs.contains v then
    -- one message serves every record of the cue: it moves behind the latest of them
    let mv := fun (l : List Tlp) =>
      let m := (l.filter (fun t => t.msix == some v)).getLast?
      match m with
      | some t => (l.reverse.erase t).reverse ++ [t]
      | none => l
    setPort s p { x with out := mv x.out, held := mv x.held }
  else
    let s1 := postOne s p (msixTlp e v)
    modPort s1 p (fun y => { y with sentVecs := v :: y.sentVecs })

/-! ### Interrupt lines and health -/

/-- An IPEND bit is set in a core; a core that waits in WFI with interrupts enabled goes on (R377, R240). -/
def setIpend (s : State) (c b : Nat) : State :=
  modCore s c (fun x => { x with ipend := x.ipend ||| BitVec.ofNat 16 (2 ^ b), wfi := x.wfi && !x.mode.getLsbD 1 })

/-- CHANGES increases: event vectors of the ports and IPEND bit 15 of the partitions concerned (R377, R493). -/
def healthChanged (s : State) (parts : List Nat) : State :=
  let s1 := { s with mgmt := { s.mgmt with changes := (s.mgmt.changes + 1) % 2 ^ 48 } }
  let s2 := [0, 1].foldl (fun s p =>
    let ctl := (portOf s p).ctl
    if bit ctl 63 then raiseVector s p (bits ctl 10 0) else s) s1
  (parts.flatMap (fun p => (partBays s p).flatMap appCores)).foldl (fun s c => setIpend s c 15) s2

/-- Die number of a bay's hub, an FOH or a stack in THERMAL_STATUS order (R453). -/
def hubDie (h : Nat) : Nat := 80 + h
def fohDie (f : Nat) : Nat := 88 + f
def stackDie (k : Nat) : Nat := 90 + k

/-- Bay of a die; none for an FOH. -/
def dieBay (d : Nat) : Option Nat :=
  if d < 80 then some (d / 10) else if d < 88 then some (d - 80) else if d < 90 then none else some ((d - 90) / 2)

/-- A health event is appended at entry CHANGES mod 96 (R491, R492). -/
def addEvent (s : State) (code die : Nat) (detail : List Nat) : State :=
  let parts := match dieBay die with
    | some b => (bayPart s b).toList
    | none => []
  let s1 := healthChanged s parts
  let s2 := { s1 with mgmt := { s1.mgmt with
    events := tput none s1.mgmt.events (s1.mgmt.changes % 96) (some { cue := s1.clk.cue, code, die, detail }) } }
  if die < 106 then modDie s2 die (fun x => { x with event := code }) else s2

/-- A health counter advances (R491). -/
def bumpCounter (s : State) (i n : Nat) : State :=
  { s with mgmt := { s.mgmt with counters := tmod 0 s.mgmt.counters i (fun x => x + n) } }

/-- A refused host access: REFUSED, the health counter and the AER report (R354, R360, R365, R491). -/
def refuse (s : State) (p aer : Nat) : State :=
  let s1 := modPort s p (fun x => { x with refused := satTo 65535 (x.refused + 1), aer := x.aer ++ [aer] })
  bumpCounter s1 4 1

/-! ### Completion records -/

/-- A queue is served: 0, 1 and the jack always, others when created (R374, R478). -/
def queueUsed (s : State) (q : Nat) : Bool := q < 2 || q == 1024 || (queueOf s q).used

/-- A house queue, or the jack's path (R374, R478). -/
def isHouse (q : Nat) : Bool := q < 2 || q == 1024

/-- The FOH whose call desk serves a queue (R374). -/
def deskOf (s : State) (q : Nat) : Nat :=
  if q < 2 then q
  else if q = 1024 then s.panel.primary
  else if (queueOf s q).binding < 2 then (queueOf s q).binding else s.panel.primary

/-- A command of a queue changed. -/
def modCmd (s : State) (q idx : Nat) (f : Cmd → Cmd) : State :=
  modQueue s q (fun x => { x with cmds := x.cmds.map (fun c => if c.idx = idx then f c else c) })

def cmdOf (s : State) (q idx : Nat) : Option Cmd := (queueOf s q).cmds.find? (fun c => c.idx == idx)

/-- A command leaves its queue: a counted MAP lowers its object's device count (R398), and its forwarding ends (R494). -/
def removeCmd (s : State) (q idx : Nat) : State :=
  let s := match (cmdOf s q idx).bind (fun c => c.counted) with
    | some i => modObj s i (fun o => { o with maps := o.maps - 1 })
    | none => s
  let s1 := modQueue s q (fun x => { x with cmds := x.cmds.filter (fun c => c.idx != idx) })
  { s1 with mgmt := { s1.mgmt with forwarded := s1.mgmt.forwarded.filter (fun x => x != (q, idx)) } }

/-- Bytes of a record. -/
def recordBytes (ws : List W64) : List Byte := wordBytes ws

/-- The interrupt of a record (R355, R356, R377), unless NO_INTERRUPT is set or the queue has none. -/
def recordInterrupt (s : State) (q : Nat) (quiet : Bool) : State :=
  if quiet then s
  else if q < 2 then
    let d := (portOf s q).houseDone
    if bit d 63 then raiseVector s q (bits d 58 48) else s
  else
    let x := queueOf s q
    if !x.intEn then s
    else if x.binding < 2 then raiseVector s x.binding x.vector
    else setIpend s x.core x.line

/-- The record of a command is written where its queue completes, and the command leaves the queue (R378, R384). A
record whose page fails loses the context and is dropped (R379); one that the port's buffer cannot take waits (R367). -/
def writeRecord (s : State) (q : Nat) (c : Cmd) (d : Done) : State :=
  let s := modQueue s q (fun x => { x with recent :=
    (x.recent.filter (fun r => decide (s.clk.cue < r.2.2 + 4) && r.1 != pktSeq (wordAt c.words 0))) ++ [(pktSeq (wordAt c.words 0), d.status, s.clk.cue)] })
  let x := queueOf s q
  let size := ringSize q x.ord
  let ws := recordWords (pktSeq (wordAt c.words 0)) d s.clk.cue (c.idx / size)
  let relaxed := !pktOrdered (wordAt c.words 0)
  let quiet := pktQuiet (wordAt c.words 0)
  if q = 1024 then
    removeCmd { s with mgmt := { s.mgmt with
      replies := s.mgmt.replies.map (fun r =>
        if r.tag = c.idx && r.data.isNone then
          { r with data := some (ws, if pktOp (wordAt c.words 0) = 0x89 && d.status = 0 then c.got.flatMap (fun kv => kv.2) else []) }
        else r) } } q c.idx
  else if q < 2 then
    let base := bits (portOf s q).houseDone 47 11 * 2048 + 32 * (c.idx % size)
    match hostOf base with
    | some (p, bus) =>
      if !portTakes s p 32 then s
      else recordInterrupt (removeCmd (postWrite s p bus (recordBytes ws) relaxed) q c.idx) q quiet
    | none => removeCmd s q c.idx
  else
    let va := x.doneVa + 32 * (c.idx % size)
    match resolve s x.ctx va 32 needWrite with
    | .bad st a =>
      removeCmd (raise s x.ctx (faultOf s st 0 houseAgent (BitVec.ofNat 64 a) 0)) q c.idx
    | .ok pas =>
      match pas.head? with
      | some (pa, _) =>
        match hostOf pa with
        | some (p, bus) =>
          if !portTakes s p 32 then s
          else recordInterrupt (removeCmd (postWrite s p bus (recordBytes ws) relaxed) q c.idx) q quiet
        | none => recordInterrupt (removeCmd (writePieces s pas (recordBytes ws)) q c.idx) q quiet
      | none => removeCmd s q c.idx

/-- An outcome is fixed for a command; its record is written at once when the boundary it is due at has come. -/
def finish (s : State) (q idx : Nat) (d : Done) : State :=
  match cmdOf s q idx with
  | some c =>
    if c.fin.isSome then s
    else
      let c' := { c with fin := some d }
      let s1 := modCmd s q idx (fun _ => c')
      if d.due ≤ s.clk.cue then writeRecord s1 q c' d else s1
  | none => s

/-- An outcome without holds, energy or flags. -/
def plainDone (due status : Nat) (result : W64) : Done :=
  { due, status, result, holds := 0, energy := 0, mismatch := false, fault := false }

/-! ### Starting commands (R380) -/

/-- The first command that an in-order start must wait for. -/
def headCmd (x : Queue) : Option Cmd := x.cmds.find? (fun c => !c.passed)

/-- The partition of a queue's context, none for the house. -/
def queuePart (s : State) (q : Nat) : Option Nat :=
  let c := (queueOf s q).ctx
  if isHouse q || c = 0 then none else some (ctxOf s c).part

/-- The head of the queue may start now: taken at an earlier boundary, the device ready or in limp mode (R498), its
context's loss not due, its partition not in NAP or OFF (R456), and its call desk below 512 starts (R380). -/
def startable (s : State) (q : Nat) : Bool :=
  match headCmd (queueOf s q) with
  | some c =>
    c.started.isNone && c.fin.isNone && decide (c.taken < s.clk.cue) && (s.mgmt.ready || s.sec.limp) &&
      !ctxFalling s (queueOf s q).ctx &&
      (match queuePart s q with | some p => decide ((partOf s p).power < 2) | none => true) &&
      decide ((portOf s (deskOf s q)).deskCount < 512)
  | none => false

/-- The head of a queue starts. -/
def startHead (s : State) (q : Nat) : State :=
  if !startable s q then s
  else match headCmd (queueOf s q) with
    | none => s
    | some c =>
      let f := deskOf s q
      let s1 := modCmd s q c.idx (fun c => { c with started := some s.clk.cue })
      let s2 := modPort s1 f (fun y => { y with deskCount := y.deskCount + 1, deskLast := if isHouse q then y.deskLast else q })
      if q < 2 && q ≠ s.panel.primary then
        { s2 with mgmt := { s2.mgmt with forwarded := s2.mgmt.forwarded ++ [(q, c.idx)] } }
      else s2

/-- The outcome of a rejected command: it completes at the boundary at which it started, and the next command of its
queue may start there too (R380). -/
def reject (s : State) (q : Nat) (c : Cmd) (status : Nat) (word : Nat) : State :=
  startHead (finish s q c.idx (plainDone (c.started.getD s.clk.cue) status (BitVec.ofNat 64 word))) q

/-! ### The call desk's checks (R383) -/

/-- Rejected statuses of R499. -/
def stBadOpcode : Nat := 0x0200
def stBadLength : Nat := 0x0201
def stBadObject : Nat := 0x0202
def stPlanFailed : Nat := 0x0203
def stNotHouse : Nat := 0x0204
def stBadFormat : Nat := 0x0205
def stNoResource : Nat := 0x0206
def stLost : Nat := 0x0100
def stReset : Nat := 0x0300
def stLimp : Nat := 0x0301

/-- Queue kind, 2 for the house. -/
def kindOf (s : State) (q : Nat) : Nat := if isHouse q then 2 else (queueOf s q).kind

/-- Steps 1 to 5 of R383: the first status that applies, with the packet word at fault. -/
def deskCheck (s : State) (q : Nat) (w0 : W64) : Option (Nat × Nat) :=
  let op := pktOp w0
  let k := kindOf s q
  let c := if isHouse q then pktCtx w0 else (queueOf s q).ctx
  if s.sec.limp && !(isHouse q && (op == 0x90 || op == 0x91)) then some (stLimp, 0)
  else if k ≠ 2 && houseOnly op then some (stNotHouse, 0)
  else if !knownOps.contains op || (k == 0 && !computeOps.contains op) || (k == 1 && !copyOps.contains op) ||
      (k == 2 && neverHouse.contains op) then some (stBadOpcode, 0)
  else if !lengthOk op (pktLen w0) then some (stBadLength, 0)
  else if c ≠ 0 && (ctxOf s c).st == .lost && op ≠ 0x43 then some (stLost, 0)
  else if k ≠ 2 && pktCtx w0 ≠ c then some (stBadFormat, 0)
  else none

/-- A house command acts on a context that is FREE: BAD_OBJECT, after the command's own BAD_FORMAT checks (R370, R383). -/
def actsOnFree (s : State) (q : Nat) (w0 : W64) : Bool :=
  isHouse q && pktCtx w0 != 0 && (ctxOf s (pktCtx w0)).st == .free && pktOp w0 != 0x42

/-- The row's own checks have just written a record of BAD_FORMAT for the command of a queue. -/
def formatRejected (before after : State) (q : Nat) : Bool :=
  (queueOf after q).recent != (queueOf before q).recent &&
    ((queueOf after q).recent.getLast?.map (fun r => r.2.1)) == some stBadFormat

/-- The order of R33: cue of sampling, the jack first, FOH number, queue number, ring order. -/
def sampledBefore (s : State) (a b : Nat × Cmd) : Bool :=
  let desk := fun (q : Nat) => if q = 1024 then 0 else 1 + deskOf s q
  if a.2.taken ≠ b.2.taken then decide (a.2.taken < b.2.taken)
  else if desk a.1 ≠ desk b.1 then decide (desk a.1 < desk b.1)
  else if a.1 ≠ b.1 then decide (a.1 < b.1) else decide (a.2.idx ≤ b.2.idx)

/-- House commands that change mirrored state (R32): PARTITION_SET, TILE_MAP, POWER_CAP, CALIBRATE, ROUTE_SET, ATTEST. -/
def mirrors (op : Nat) : Bool := [0x80, 0x84, 0x85, 0x87, 0x8A, 0x92].contains op

/-- A change of the same mirrored state that comes before a command in the order of R33 has started and is not made yet. -/
def outranked (s : State) (q op : Nat) (c : Cmd) : Bool :=
  isHouse q && mirrors op && [1024, 0, 1].any (fun n => n != q && (headCmd (queueOf s n)).any (fun d =>
    d.started.isSome && d.fin.isNone && d.stage == 0 && pktOp (wordAt d.words 0) == op && sampledBefore s (n, d) (q, c)))

/-- The command of a queue that has started, whose row is its opcode and whose own work has not begun; changes of mirrored state
are made in the order of R33. -/
def dueCmd (s : State) (q op : Nat) : Option Cmd :=
  match headCmd (queueOf s q) with
  | some c =>
    if c.started.isSome && c.fin.isNone && c.stage = 0 && pktOp (wordAt c.words 0) = op && !outranked s q op c then some c else none
  | none => none

/-- The row of an opcode: the started head of queue `q` is checked under R383 and, if it passes, carried out. A row
whose command is not due leaves the state as it is (log 2). -/
def onCommand (s : State) (q op : Nat) (run : Cmd → State) : State :=
  match dueCmd s q op with
  | none => s
  | some c =>
    match deskCheck s q (wordAt c.words 0) with
    | some (st, w) => reject s q c st w
    | none =>
      let s1 := run c
      if actsOnFree s q (wordAt c.words 0) && !formatRejected s s1 q then reject s q c stBadObject 0 else s1

/-- The command answers with a success status at the next boundary (R380). -/
def answerNext (s : State) (q : Nat) (c : Cmd) (status : Nat) (result : W64) : State :=
  finish s q c.idx (plainDone (s.clk.cue + 1) status result)

/-- The context a packet's addresses are translated with (R381). -/
def cmdCtx (s : State) (q : Nat) (c : Cmd) : Nat :=
  if isHouse q then pktCtx (wordAt c.words 0) else (queueOf s q).ctx

/-- A fault of the house acting for a context ends the command's work: the record comes with the loss (R330, R373). -/
def houseFault (s : State) (c status : Nat) (addr : Nat) : State :=
  raise s c (faultOf s status 0 houseAgent (BitVec.ofNat 64 addr) 0)

/-- Energy attributed to a queue is added to its counter and its context's (R444). -/
def chargeQueue (s : State) (q n : Nat) : State :=
  let s1 := modQueue s q (fun x => { x with energy := x.energy + n })
  let c := (queueOf s q).ctx
  if c = 0 then s1 else modCtx s1 c (fun x => { x with energy := x.energy + n })

end Sys2Proof.Machine
end

