-- ==== Sys2Proof/Machine/Desk.lean ====
section
/-! DEFINITION. The call desk at a boundary or idle tick: sampling of tails, reading of ring entries, forming of
packets, due records and starts (R33, R42, R44, R378–R380, R455). -/

namespace Sys2Proof.Machine

/-- The partition of a context with a newly taken command leaves IDLE (R455). -/
def wakeFor (s : State) (c : Nat) : State :=
  if c = 0 then s
  else
    let p := (ctxOf s c).part
    if (partOf s p).power = 1 then modPart s p (fun x => { x with power := 0, emptyCues := 0 }) else s

/-- The object that a MAP packet counts from its take on (R398, R399): target OBJECT, the object's generation, and the
object LIVE. -/
def mapCounts (s : State) (ws : List W64) : Option Nat :=
  if pktOp (wordAt ws 0) = 0x30 && bits (wordAt ws 2) 63 62 = 1 then
    let i := bits (wordAt ws 3) 17 0
    let o := objOf s i
    if o.state = 1 && o.gen = bits (wordAt ws 3) 63 32 then some i else none
  else none

/-- The boundary that announced ring entries up to a count (R379). -/
def markOf (x : Queue) (n cue : Nat) : Nat :=
  match x.marks.find? (fun m => decide (n ≤ m.1)) with
  | some m => m.2
  | none => cue

/-- Packets are formed from the entries that have been read, in ring order (R378, R379). -/
def formPackets : Nat → State → Nat → State
  | 0, s, _ => s
  | fuel + 1, s, q =>
    let x := queueOf s q
    match tget [] x.buffer x.taken with
    | [] => s
    | first =>
      let n := pktEntries (wordAt first 0)
      let parts := (upFrom x.taken n).map (fun k => tget [] x.buffer k)
      if x.taken + n > x.seen || parts.any List.isEmpty then s
      else
        let ws := parts.flatten
        let counted := mapCounts s ws
        let c : Cmd := { idx := x.taken, entries := n, words := ws, taken := markOf x (x.taken + n) s.clk.cue, counted }
        let s1 := setQueue s q { x with
          cmds := x.cmds ++ [c]
          taken := x.taken + n
          marks := x.marks.filter (fun m => decide (x.taken + n < m.1))
          buffer := (upFrom x.taken n).foldl terase x.buffer }
        let s2 := match counted with
          | some i => modObj s1 i (fun o => { o with maps := o.maps + 1 })
          | none => s1
        formPackets fuel s2 q

/-- One ring entry is read: at once from device memory, by a host read otherwise; an unreadable page of a compute or copy
queue loses its context (R379), and so does a burst that cannot be read (R303). -/
def readEntry (s : State) (q k : Nat) : State :=
  let x := queueOf s q
  let size := ringSize q x.ord
  if q < 2 then
    match hostOf (bits (portOf s q).houseRing 47 12 * 4096 + 64 * (k % size)) with
    | some (p, bus) => askHost s p bus 64 0 (fun _ => .ring q k)
    | none => s
  else
    let va := x.ring + 64 * (k % size)
    match resolve s x.ctx va 64 needRead with
    | .bad st a => houseFault s x.ctx st a
    | .ok pas =>
      match pas.head? with
      | some (pa, _) =>
        match hostOf pa with
        | some (p, bus) => askHost s p bus 64 x.ctx (fun _ => .ring q k)
        | none => match badPiece s pas with
          | some a => meetBad s (a / 32) [(x.ctx, houseAgent)]
          | none => modQueue s q (fun x => { x with buffer := tput [] x.buffer k (leWords 8 (readPieces s pas)) })
      | none => s

/-- Tail word of a queue: its callboard entry, or the word at TAIL_VA of a cores-bound queue, whose page must be readable
(R379); a burst that cannot be read loses the context (R303). -/
def tailOf (s : State) (q : Nat) : State × Option W64 :=
  let x := queueOf s q
  if q < 2 then (s, if bit (portOf s q).houseRing 63 then some x.tail else none)
  else if x.binding < 2 then (s, some x.tail)
  else match resolve s x.ctx x.tailVa 8 needRead with
    | .bad st a => (houseFault s x.ctx st a, none)
    | .ok pas => match badPiece s pas with
    | some a => (meetBad s (a / 32) [(x.ctx, houseAgent)], none)
    | none => (s, some (BitVec.ofNat 64 (leNat (readPieces s pas))))

/-- A queue's tail is sampled and taken, or ignored and logged (R379). -/
def sampleQueue (s : State) (q : Nat) : State :=
  let x := queueOf s q
  if x.closing || (q ≥ 2 && !x.used) then s
  else
    let (s1, tl) := tailOf s q
    match tl with
    | none => s1
    | some tail =>
      let new := (bits tail 31 0 + 2 ^ 32 - x.seen % 2 ^ 32) % 2 ^ 32
      let oldest := match x.cmds.head? with
        | some c => c.idx
        | none => x.taken
      if new = 0 then s1
      else if x.seen + new - oldest > ringSize q x.ord then
        let s2 := addEvent (bumpCounter s1 3 1) 0x09 (fohDie (deskOf s q)) [q, bits tail 31 0]
        modQueue s2 q (fun x => { x with tail := x.tailTaken })
      else
        let s2 := setQueue s1 q { queueOf s1 q with
          seen := x.seen + new, tailTaken := tail, marks := x.marks ++ [(x.seen + new, s.clk.cue)] }
        let s3 := (upFrom x.seen new).foldl (fun s k => readEntry s q k) (wakeFor s2 x.ctx)
        formPackets (new + 1) s3 q

/-- Queues in the order of R33: the jack, the house queues by FOH, the others by number. -/
def queueOrder (s : State) : List Nat :=
  [1024, 0, 1] ++ ((s.queues.filter (fun kv => decide (2 ≤ kv.1) && decide (kv.1 < 1024) && kv.2.used)).map (fun kv => kv.1))

/-- Every tail is sampled (CALLBOARD_SAMPLE). -/
def sampleAll (s : State) : State := ((queueOrder s).filter (fun q => q != 1024)).foldl sampleQueue s

/-- The records that are due at the boundary are written, queue by queue (R384). -/
def writeDue (s : State) : State :=
  (queueOrder s).foldl (fun s q =>
    (queueOf s q).cmds.foldl (fun s c =>
      match c.fin with
      | some d => if d.due ≤ s.clk.cue then writeRecord s q c d else s
      | none => s) s) s

/-- The queue of a QUEUE_DESTROY is freed and its record written once every record of the queue has been (R376). -/
def settleDestroy (s : State) (q : Nat) (cm : Cmd) : State :=
  let n := bits (wordAt cm.words 1) 9 0
  if pktOp (wordAt cm.words 0) = 0xA1 && cm.stage = 2 && cm.fin.isNone && (queueOf s n).cmds.isEmpty then
    finish (setQueue s n {}) q cm.idx (plainDone s.clk.cue 0 0)
  else s

/-- Every QUEUE_DESTROY whose queue has written its last record is settled (R376). -/
def settleDestroys (s : State) : State :=
  [1024, 0, 1].foldl (fun s q => (queueOf s q).cmds.foldl (fun s c => settleDestroy s q c) s) s

/-- The order in which the call desk of an FOH serves its queues: the house queue, then the others ascending from behind
the last one served (R380). -/
def deskOrder (s : State) (f : Nat) : List Nat :=
  let mine := (queueOrder s).filter (fun q => deskOf s q == f)
  let house := mine.filter isHouse
  let rest := mine.filter (fun q => !isHouse q)
  let last := (portOf s f).deskLast
  house ++ rest.filter (fun q => decide (last < q)) ++ rest.filter (fun q => decide (q ≤ last))

/-- One queue's turn at its call desk: its head starts, and each command that R383's common checks reject completes at
the boundary at which it started, so that the next of the queue starts there too (R380). -/
def serveTurn : Nat → State → Nat → State
  | 0, s, _ => s
  | n + 1, s, q =>
    let s1 := startHead s q
    match headCmd (queueOf s1 q) with
    | none => s1
    | some c =>
      if c.started ≠ some s.clk.cue || c.fin.isSome || c.stage ≠ 0 then s1
      else match deskCheck s1 q (wordAt c.words 0) with
        | some (st, w) => serveTurn n (finish s1 q c.idx (plainDone s.clk.cue st (BitVec.ofNat 64 w))) q
        | none => s1

/-- Both call desks serve their queues, turn by turn (R380). -/
def startAll (s : State) : State :=
  let s1 := [0, 1].foldl (fun s f => modPort s f (fun x => { x with deskCount := 0 })) s
  ([0, 1].filter (fohIsUp s1)).foldl (fun s f => (deskOrder s f).foldl (serveTurn 513) s) s1

end Sys2Proof.Machine
end

