-- ==== Sys2Proof/Machine/Elem.lean ====
section
/-! DEFINITION. The elementary functions of R178, correctly rounded: lower and upper bounds in fixed point at rising
precisions until both round alike. -/

namespace Sys2Proof.Machine

/-- Quotient rounded up. -/
def cdiv (a b : Nat) : Nat := (a + b - 1) / b

/-- Lower sum of a series: term `t`, next term `step n t`, `fuel` terms. -/
def seriesSum (step : Nat → Nat → Nat) : Nat → Nat → Nat → Nat → Nat
  | 0, _, t, acc => acc + t
  | fuel + 1, n, t, acc => seriesSum step fuel (n + 1) (step n t) (acc + t)

/-- e ^ r for r in [0, 1) between `lo` and `hi` at scale 2 ^ p: bounds. The last upper term also bounds the rest. -/
def expUnit (p lo hi : Nat) : Nat × Nat :=
  let n := p / 4 + 24
  (seriesSum (fun i t => t * lo / 2 ^ p / (i + 1)) n 0 (2 ^ p) 0,
   seriesSum (fun i t => cdiv (cdiv (t * hi) (2 ^ p)) (i + 1)) n 0 (2 ^ p) 0 + 2)

/-- ln 2 at scale 2 ^ p: bounds, by 2 atanh (1/3). -/
def ln2Fix (p : Nat) : Nat × Nat :=
  let n := p / 3 + 8
  let pows := fun (i : Nat) => 2 ^ (p + 1) / 3 ^ (2 * i + 1) / (2 * i + 1)
  let lo := (upFrom 0 n).foldl (fun a i => a + pows i) 0
  (lo, lo + n + 2)

/-- e ^ x for x between `lo` and `hi` at scale 2 ^ p: exponent and bounds at scale 2 ^ p, the value near 2 ^ exponent. -/
def expFix (p : Nat) (lo hi : Int) : Int × Nat × Nat :=
  let (l, u) := ln2Fix p
  let red := fun (k : Int) =>
    (if k < 0 then lo - k * l else lo - k * u, if k < 0 then hi - k * u else hi - k * l)
  let k0 := lo / (u : Int)
  let k := if (red k0).1 < 0 then k0 - 1 else k0
  let r := red k
  let e := expUnit p r.1.toNat r.2.toNat
  (k, e.1, e.2)

/-- A finite value at scale 2 ^ p: bounds. -/
def fixOf (p : Nat) (neg : Bool) (m : Nat) (e : Int) : Int × Int :=
  let sh := e + p
  if sh ≥ 0 then
    let v : Int := ((m * 2 ^ sh.toNat : Nat) : Int)
    if neg then (-v, -v) else (v, v)
  else
    let d := 2 ^ (-sh).toNat
    let f : Int := ((m / d : Nat) : Int)
    let c : Int := ((cdiv m d : Nat) : Int)
    if neg then (-c, -f) else (f, c)

/-- The precisions tried in turn. -/
def zivPrecisions : List Nat := [160, 320, 640, 1280, 2560]

/-- The first precision at which both bounds round to one value; the bounds are magnitudes, `rd` the rounding. -/
def ziv (rd : Val → Val) (neg : Bool) (f : Nat → Nat × Nat × Int) : List Nat → Val
  | [] => .nan
  | p :: ps =>
    let (lo, hi, e) := f p
    let a := rd (.fin neg lo e)
    let b := rd (.fin neg hi e)
    if veq a b || ps = [] then a else ziv rd neg f ps

/-- 1 moved by less than half an ulp of any working format. -/
def nearOne (up : Bool) : Val := .fin false (if up then 2 ^ 90 + 1 else 2 ^ 90 - 1) (-90)

/-- e ^ x rounded once (R178). -/
def vexp (rd : Val → Val) : Val → Val
  | .nan => .nan
  | .inf n => if n then vzero false else .inf false
  | .fin n m e =>
    if m = 0 then .fin false 1 0
    else if expo m e < -80 then rd (nearOne (!n))
    else if expo m e ≥ 11 then (if n then vzero false else .inf false)
    else ziv rd false (fun p =>
      let (lo, hi) := fixOf p n m e
      let (k, l, u) := expFix p lo hi
      (l, u, k - p)) zivPrecisions

/-- atanh y for y in [0, 1/3] between `lo` and `hi` at scale 2 ^ p: bounds. -/
def atanhFix (p lo hi : Nat) : Nat × Nat :=
  let n := p / 3 + 8
  let l2 := lo * lo / 2 ^ p
  let h2 := cdiv (hi * hi) (2 ^ p)
  let go := fun (acc : Nat × Nat × Nat × Nat) (i : Nat) =>
    (acc.1 + acc.2.2.1 / (2 * i + 1), acc.2.1 + cdiv acc.2.2.2 (2 * i + 1),
     acc.2.2.1 * l2 / 2 ^ p, cdiv (acc.2.2.2 * h2) (2 ^ p))
  let r := (upFrom 0 n).foldl go (0, 0, lo, hi)
  (r.1, r.2.1 + 2)

/-- log z rounded once (R177, R178): log ±0 is −∞, a negative operand gives NaN, log 1 is +0. -/
def vlog (rd : Val → Val) : Val → Val
  | .nan => .nan
  | .inf n => if n then .nan else .inf false
  | .fin n m e =>
    if m = 0 then .inf true
    else if n then .nan
    else
      let x := expo m e
      -- m × 2 ^ e = (m / 2 ^ h) × 2 ^ k with the fraction in [3/4, 3/2)
      let up := decide (m * 2 ≥ 3 * 2 ^ Nat.log2 m)
      let h := if up then Nat.log2 m + 1 else Nat.log2 m
      let k : Int := if up then x + 1 else x
      let one := 2 ^ h
      if m = one && k = 0 then vzero false
      else
        let fneg := decide (m < one)
        let num := if fneg then one - m else m - one
        let parts : Nat → Int × Int := fun p =>
          let q := num * 2 ^ p
          let (al, au) := atanhFix p (q / (m + one)) (cdiv q (m + one))
          let (l, u) := ln2Fix p
          let kl : Int := if k < 0 then k * u else k * l
          let ku : Int := if k < 0 then k * l else k * u
          let fl : Int := if fneg then -(2 * (au : Int)) else 2 * (al : Int)
          let fu : Int := if fneg then -(2 * (al : Int)) else 2 * (au : Int)
          (kl + fl, ku + fu)
        let neg := decide ((parts 160).2 < 0) || (decide ((parts 160).1 < 0) && fneg && k = 0)
        ziv rd neg (fun p =>
          let (a, b) := parts p
          if neg then (b.natAbs, a.natAbs, -p) else (a.natAbs, b.natAbs, -p)) zivPrecisions

/-- Bounds of e ^ |x| as whole numbers at scale 2 ^ p, for |x| below 2 ^ 11. -/
def expWhole (p m : Nat) (e : Int) : Nat × Nat :=
  let (lo, hi) := fixOf p false m e
  let (k, l, u) := expFix p lo hi
  (l * 2 ^ k.toNat, u * 2 ^ k.toNat)

/-- tanh x rounded once (R178). -/
def vtanh (rd : Val → Val) : Val → Val
  | .nan => .nan
  | .inf n => .fin n 1 0
  | .fin n m e =>
    if m = 0 then vzero n
    else if expo m e < -40 then rd (.fin n (m * 2 ^ 70 - 1) (e - 70))
    else if expo m e ≥ 6 then rd (if n then vneg (nearOne false) else nearOne false)
    else ziv rd n (fun p =>
      let (l, u) := expWhole p m (e + 1)
      ((l - 2 ^ p) * 2 ^ p / (l + 2 ^ p), cdiv ((u - 2 ^ p) * 2 ^ p) (u + 2 ^ p), -p)) zivPrecisions

/-- 1 / (1 + e ^ −x) rounded once (R178). -/
def vsigmoid (rd : Val → Val) : Val → Val
  | .nan => .nan
  | .inf n => if n then vzero false else .fin false 1 0
  | .fin n m e =>
    if m = 0 then .fin false 1 (-1)
    else if expo m e < -80 then
      (match rd (nearOne (!n)) with
       | .fin a b c => .fin a b (c - 1)
       | v => v)
    else if expo m e ≥ 11 then (if n then vzero false else .fin false 1 0)
    else ziv rd false (fun p =>
      let (l, u) := expWhole p m e
      if n then
        let k := Nat.log2 l + 2
        (2 ^ (p + k) * 2 ^ p / (2 ^ p + u), cdiv (2 ^ (p + k) * 2 ^ p) (2 ^ p + l), -((p : Int) + k))
      else (l * 2 ^ p / (l + 2 ^ p), cdiv (u * 2 ^ p) (u + 2 ^ p), -p)) zivPrecisions

/-- π at scale 2 ^ p: bounds, by π / 2 = Σ n! / (2n + 1)!!. -/
def piFix (p : Nat) : Nat × Nat :=
  let n := p + 8
  (2 * seriesSum (fun i t => t * (i + 1) / (2 * i + 3)) n 0 (2 ^ p) 0,
   2 * (seriesSum (fun i t => cdiv (t * (i + 1)) (2 * i + 3)) n 0 (2 ^ p) 0 + 4))

/-- erf x rounded once (R178): erf x = 2 / √π · x · e ^ −x² · Σ 2 ^ n x ^ 2n / (2n + 1)!!. -/
def verf (rd : Val → Val) : Val → Val
  | .nan => .nan
  | .inf n => .fin n 1 0
  | .fin n m e =>
    if m = 0 then vzero n
    else if expo m e ≥ 3 then rd (if n then vneg (nearOne false) else nearOne false)
    else ziv rd n (fun p =>
      let (sl, su) := fixOf p false (m * m) (2 * e)
      let (xl, xu) := (sl.toNat, su.toNat)
      let terms := 2 * p + 300
      let a := seriesSum (fun i t => t * 2 * xl / 2 ^ p / (2 * i + 3)) terms 0 (2 ^ p) 0
      let b := seriesSum (fun i t => cdiv (cdiv (t * 2 * xu) (2 ^ p)) (2 * i + 3)) terms 0 (2 ^ p) 0 + 4
      let (k, el, eu) := expFix p sl su
      let (pl, pu) := piFix p
      -- 2 / √π at scale 2 ^ p
      let cl := 2 * 2 ^ (2 * p) / (isqrt (pu * 2 ^ p) + 1)
      let cu := cdiv (2 * 2 ^ (2 * p)) (isqrt (pl * 2 ^ p))
      (m * (a * cl / eu), m * cdiv (b * cu) el, e - k - p)) zivPrecisions

/-- 2 ^ (x / d) for whole numbers x and d ≥ 1, rounded to binary64 (used for the leakage law of R438). -/
def pow2Frac (x : Int) (d : Nat) : Val :=
  if x % d = 0 then .fin false 1 (x / d)
  else ziv (rnd true) false (fun p =>
    let (l, u) := ln2Fix p
    let r := (x % d).toNat
    let e := expUnit p (r * l / d) (cdiv (r * u) d)
    (e.1, e.2, x / d - p)) zivPrecisions

end Sys2Proof.Machine
end

