-- ==== Sys2Proof/Machine/Xword.lean ====
section
/-! DEFINITION. Xichai words (R226–R231), where a word is legal (R242), the register file of one thread or core (R224, R225),
and the value of every integer, logical, predicate, floating and conversion instruction (R233–R237). -/

namespace Sys2Proof.Machine

/-! ### Fields (R226–R231) -/

def xFmt (w : W64) : Nat := bits w 63 61
def xOp (w : W64) : Nat := bits w 60 52
def xGuarded (w : W64) : Bool := bit w 51
def xGneg (w : W64) : Bool := bit w 50
def xGpred (w : W64) : Nat := bits w 49 47
def xRd (w : W64) : Nat := bits w 46 41
def xRs1 (w : W64) : Nat := bits w 40 35
def xRs2 (w : W64) : Nat := bits w 34 29
def xRs3 (w : W64) : Nat := bits w 28 23
def xType (w : W64) : Nat := bits w 22 19
def xPd (w : W64) : Nat := bits w 18 16
def xAux (w : W64) : Nat := bits w 15 12
def xIw (w : W64) : Nat := bits w 34 32
def xImm (w : W64) : Nat := bits w 31 0
/-- The immediate of formats B and C, sign-extended (R228, R230). -/
def xImmS (w : W64) : Int := signed 32 (xImm w)
def xSpace (w : W64) : Nat := bits w 34 33
def xSize (w : W64) : Nat := bits w 32 30
def xScope (w : W64) : Nat := bits w 29 27
def xOrd (w : W64) : Nat := bits w 26 25
def xSx (w : W64) : Bool := bit w 24
/-- The word is an atomic (R229, R238). -/
def xAtomic (w : W64) : Bool := xFmt w == 2 && decide (0x010 ≤ xOp w)
/-- Byte offset of a memory instruction: 24 bits, 12 for an atomic (R229). -/
def xOffset (w : W64) : Int := if xAtomic w then signed 12 (bits w 11 0) else signed 24 (bits w 23 0)

/-! ### Legality (R226–R242) -/

/-- The format-A word's fields are in order (R227, R233, R234, R236, R237). -/
def legalA (w : W64) : Bool :=
  let op := xOp w
  let ty := xType w
  let aux := xAux w
  bits w 11 0 == 0 &&
    if op ≤ 0x013 then ty < 8 && (op != 0x011 || aux ≤ 5)
    else if 0x0C0 ≤ op && op ≤ 0x0C5 then
      (op > 0x0C3 || (bits w 40 38 == 0 && bits w 34 32 == 0))
    else if 0x040 ≤ op && op ≤ 0x04E then ty ≤ 3 && (op != 0x04A || aux ≤ 6)
    else if op = 0x080 then ty ≤ 0xB && aux ≤ 0xB
    else if op = 0x081 then decide (ty ≤ 3)
    else if op = 0x082 then ty < 8 && aux ≤ 3
    else false

/-- Format B (R228, R234, R236, R242). -/
def legalB (w : W64) : Bool :=
  let op := xOp w
  if op ≤ 0x006 || op = 0x008 || op = 0x009 then true
  else if op = 0x007 then decide (bits w 46 44 ≤ 5)
  else if op = 0x00A || op = 0x00B then xIw w == 0
  else if op = 0x010 then xIw w == 0 && xRs1 w == 0
  else op == 0x011

/-- Format M (R229, R238, R225). -/
def legalM (w : W64) : Bool :=
  let op := xOp w
  xSpace w != 3 && xSize w < 6 && xScope w != 7 && (xScope w != 0 || xOrd w == 0) &&
    if op = 0x002 || op = 0x003 then xSpace w == 0 && xSize w == 0 && xOrd w == 0 && xScope w == 0 && !xSx w && xRd w == 0
    else if op = 0x004 then xOrd w ≥ 1 && xScope w ≥ 1 && !xSx w && xRd w == 0 && xRs1 w == 0 && bits w 23 0 == 0
    else if op ≤ 0x001 then
      (xOrd w == 0 || (xOrd w == (if op = 0 then 1 else 2))) && !(xSx w && (op == 1 || xSize w > 2)) &&
        !(xSize w == 4 && xRd w % 2 != 0) && !(xSize w == 5 && xRd w % 4 != 0)
    else if 0x010 ≤ op && op ≤ 0x018 then
      (xSize w == 2 || xSize w == 3) && xScope w != 0 && !(xSx w && op != 0x012 && op != 0x013) && (op == 0x018 || bits w 17 12 == 0)
    else false

/-- Format C (R230, R232, R240). -/
def legalC (w : W64) : Bool :=
  let op := xOp w
  xIw w == 0 &&
    if op = 0x001 || op = 0x003 then xImm w % 8 == 0
    else if op = 0x008 then bits w 31 16 == 0
    else if op = 0x005 || op = 0x006 || op = 0x007 then xImm w == 0 && !xGuarded w
    else (op == 0x000 || op == 0x002 || op == 0x020 || op == 0x021) && xImm w == 0

/-- Registers per lane of a GMMA operand (R210). -/
def gmmaRegs (fmt : Nat) : Nat := max 1 (fmtBits fmt / 8)

def gmmaA (w : W64) : Nat := bits w 22 19
def gmmaB (w : W64) : Nat := bits w 18 15
def gmmaScale (w : W64) : Nat := bits w 14 9
/-- Class of a GMMA's operand pair (R127, R241). -/
def gmmaClass (w : W64) : Nat := max (fmtClass (gmmaA w)) (fmtClass (gmmaB w))

/-- Format X (R231, R232, R241, R225). -/
def legalX (w : W64) : Bool :=
  let op := xOp w
  !xGuarded w &&
    if op ≤ 0x003 || op = 0x008 || op = 0x009 || op = 0x00A || op = 0x010 then bits w 9 0 == 0
    else if op = 0x020 then
      let n := if gmmaClass w = 64 then 8 else 4
      bits w 8 0 == 0 && gmmaA w ≤ 0xB && gmmaB w ≤ 0xB && xRd w % n == 0 && xRs3 w % n == 0 &&
        xRs1 w % gmmaRegs (gmmaA w) == 0 && xRs2 w % gmmaRegs (gmmaB w) == 0 &&
        (if fmtScaled (gmmaA w) || fmtScaled (gmmaB w) then gmmaScale w ≤ 62 else gmmaScale w == 0)
    else false

/-- The word is an instruction of the set (R226–R241). -/
def legalWord (w : W64) : Bool :=
  match xFmt w with
  | 0 => legalA w
  | 1 => legalB w
  | 2 => legalM w
  | 3 => legalC w
  | 4 => legalX w
  | _ => false

/-- The word is legal on a group processor (R242). -/
def legalOnGp (w : W64) : Bool :=
  legalWord w && !(xFmt w == 1 && (xOp w == 0x011 || (xOp w == 0x010 && xImm w > 7))) &&
    !(xFmt w == 3 && xOp w ≥ 0x020)

/-- The word is legal on a core, in some mode (R242). -/
def legalOnCore (w : W64) : Bool :=
  legalWord w && xFmt w != 4 && !(xFmt w == 2 && xSpace w != 0) && !(xFmt w == 3 && (xOp w == 0x005 || xOp w == 0x006 || xOp w == 0x007))

/-! ### Registers of one thread (R224, R225) -/

/-- General registers and predicates of a thread or core. -/
structure Lane where
  g : Table W64
  p : BitVec 8
deriving DecidableEq

def Lane.get (l : Lane) (n : Nat) : W64 := tget 0 l.g n
def Lane.put (l : Lane) (n : Nat) (v : W64) : Lane := { l with g := tput 0 l.g n v }
def Lane.setP (l : Lane) (n : Nat) (b : Bool) : Lane :=
  { l with p := (l.p &&& ~~~ (BitVec.ofNat 8 (2 ^ n))) ||| (if b then BitVec.ofNat 8 (2 ^ n) else 0) }

/-- The guard lets the thread execute the word (R232). -/
def guardOk (w : W64) (p : BitVec 8) : Bool := !xGuarded w || (bit p (xGpred w) != xGneg w)

/-- Width in bits of an integer width code, and whether it is signed (R233). -/
def iwBits (code : Nat) : Nat := 64 / 2 ^ (code / 2 % 4)
def iwSigned (code : Nat) : Bool := code % 2 == 0

/-- An integer operand at its width. -/
def intOf (code : Nat) (v : W64) : Int :=
  if iwSigned code then signed (iwBits code) v.toNat else ((v.toNat % 2 ^ iwBits code : Nat) : Int)

/-- A result wraps at its width and is extended under R225. -/
def intTo (code : Nat) (x : Int) : W64 :=
  let m := (x % (2 ^ iwBits code : Nat)).toNat
  BitVec.ofInt 64 (if iwSigned code then signed (iwBits code) m else (m : Int))

/-! ### Integer and predicate values (R234, R235) -/

/-- Set bits of a number below a width. -/
def popCount (n v : Nat) : Nat := ((upFrom 0 n).filter (fun i => v.testBit i)).length

/-- Compare conditions (R234). -/
def condHolds (cond : Nat) (a b : Int) : Bool :=
  match cond with
  | 0 => a == b
  | 1 => a != b
  | 2 => decide (a < b)
  | 3 => decide (a ≤ b)
  | 4 => decide (b < a)
  | _ => decide (b ≤ a)

/-- A two-operand integer operation. -/
def intOp (f : Nat → Int → Int → Int) (w : W64) (l : Lane) : Lane :=
  l.put (xRd w) (intTo (xType w) (f (xType w) (intOf (xType w) (l.get (xRs1 w))) (intOf (xType w) (l.get (xRs2 w)))))

/-- The same with a sign-extended or zero-extended immediate. -/
def immOp (zero : Bool) (f : Nat → Int → Int → Int) (w : W64) (l : Lane) : Lane :=
  let c := xIw w
  let imm : W64 := if zero then BitVec.ofNat 64 (xImm w) else BitVec.ofInt 64 (xImmS w)
  l.put (xRd w) (intTo c (f c (intOf c (l.get (xRs1 w))) (intOf c imm)))

def fAdd (_ : Nat) (a b : Int) : Int := a + b
def fSub (_ : Nat) (a b : Int) : Int := a - b
def fMul (_ : Nat) (a b : Int) : Int := a * b
def fMulhi (c : Nat) (a b : Int) : Int := a * b / (2 ^ iwBits c : Nat)
/-- DIV by 0 gives all ones (R235). -/
def fDiv (_ : Nat) (a b : Int) : Int := if b = 0 then -1 else a.tdiv b
def fRem (_ : Nat) (a b : Int) : Int := if b = 0 then a else a.tmod b
def fMin (_ : Nat) (a b : Int) : Int := min a b
def fMax (_ : Nat) (a b : Int) : Int := max a b
def bitwise (f : W64 → W64 → W64) (_ : Nat) (a b : Int) : Int := ((f (BitVec.ofInt 64 a) (BitVec.ofInt 64 b)).toNat : Int)
def fAnd : Nat → Int → Int → Int := bitwise (· &&& ·)
def fOr : Nat → Int → Int → Int := bitwise (· ||| ·)
def fXor : Nat → Int → Int → Int := bitwise (· ^^^ ·)
def fNot (_ : Nat) (a _ : Int) : Int := -a - 1
/-- The shift count is taken mod the width (R235). -/
def fShl (c : Nat) (a b : Int) : Int := a * (2 ^ (b % (iwBits c : Nat)).toNat : Nat)
def fShr (c : Nat) (a b : Int) : Int := a / (2 ^ (b % (iwBits c : Nat)).toNat : Nat)
def fPopc (c : Nat) (a _ : Int) : Int := (popCount (iwBits c) ((BitVec.ofInt 64 a).toNat % 2 ^ iwBits c) : Nat)
def fClz (c : Nat) (a _ : Int) : Int :=
  let v := (BitVec.ofInt 64 a).toNat % 2 ^ iwBits c
  if v = 0 then (iwBits c : Nat) else ((iwBits c - 1 - Nat.log2 v : Nat) : Int)
def fMov (_ : Nat) (a _ : Int) : Int := a

def laneMad (w : W64) (l : Lane) : Lane :=
  let v := fun (n : Nat) => intOf (xType w) (l.get n)
  l.put (xRd w) (intTo (xType w) (v (xRs1 w) * v (xRs2 w) + v (xRs3 w)))

def laneSetp (w : W64) (l : Lane) : Lane :=
  l.setP (xPd w) (condHolds (xAux w) (intOf (xType w) (l.get (xRs1 w))) (intOf (xType w) (l.get (xRs2 w))))

def laneSetpi (w : W64) (l : Lane) : Lane :=
  l.setP (bits w 43 41) (condHolds (bits w 46 44) (intOf (xIw w) (l.get (xRs1 w))) (intOf (xIw w) (BitVec.ofInt 64 (xImmS w))))

def laneSel (w : W64) (l : Lane) : Lane :=
  l.put (xRd w) (intTo (xType w) (intOf (xType w) (l.get (if bit l.p (xPd w) then xRs1 w else xRs2 w))))

/-- Predicate operations; the source fields hold predicate numbers (R227). -/
def lanePred (f : Bool → Bool → Bool) (w : W64) (l : Lane) : Lane :=
  l.setP (xPd w) (f (bit l.p (xRs1 w % 8)) (bit l.p (xRs2 w % 8)))

def laneP2r (w : W64) (l : Lane) : Lane := l.put (xRd w) (l.p.zeroExtend 64)
def laneR2p (w : W64) (l : Lane) : Lane := { l with p := (l.get (xRs1 w)).truncate 8 }
def laneMovi (w : W64) (l : Lane) : Lane := l.put (xRd w) (BitVec.ofInt 64 (xImmS w))
def laneMovhi (w : W64) (l : Lane) : Lane := l.put (xRd w) (setBits (l.get (xRd w)) 63 32 (xImm w))

/-! ### Floating values (R236) -/

/-- Format of a floating TYPE 0–3. -/
def typeFmt (ty : Nat) : Fmt := (fmtOf ty).getD f64

/-- An operand, flushed under R131. -/
def floatOf (ty : Nat) (v : W64) : Val := decodeElem ty (v.toNat % 2 ^ fmtBits ty)

/-- One rounding to the type; upper bits are 0 (R225). -/
def floatTo (ty : Nat) (v : Val) : W64 := BitVec.ofNat 64 (encodeF (typeFmt ty) (roundF (typeFmt ty) false v))

/-- A floating operation of up to three operands; `rd` is the rounding of the type. -/
def floatOp (f : (Val → Val) → Val → Val → Val → Val) (w : W64) (l : Lane) : Lane :=
  let ty := xType w
  let v := fun (n : Nat) => floatOf ty (l.get n)
  l.put (xRd w) (floatTo ty (f (roundF (typeFmt ty) false) (v (xRs1 w)) (v (xRs2 w)) (v (xRs3 w))))

/-- FADDI and FMULI: binary32 with a binary32 immediate. -/
def floatImm (f : Val → Val → Val) (w : W64) (l : Lane) : Lane :=
  l.put (xRd w) (floatTo 1 (f (floatOf 1 (l.get (xRs1 w))) (decodeElem 1 (xImm w))))

/-- FABS and FNEG act on the sign bit at the type's width only (R134, R236). -/
def signOp (clear : Bool) (w : W64) (l : Lane) : Lane :=
  let n := fmtBits (xType w)
  let v := (l.get (xRs1 w)).toNat % 2 ^ n
  let mag := v % 2 ^ (n - 1)
  l.put (xRd w) (BitVec.ofNat 64 (if clear then mag else if v = mag then mag + 2 ^ (n - 1) else mag))

/-- FSETP: the predicates of the VXE's CMP (R175). -/
def laneFsetp (w : W64) (l : Lane) : Lane :=
  l.setP (xPd w) (cmpHolds (xAux w) (floatOf (xType w) (l.get (xRs1 w))) (floatOf (xType w) (l.get (xRs2 w))))

/-! ### Conversions (R237) -/

/-- FCVT (R237): UINT8 as source or target ignores RS2 (a block scale of 2^0; DEDUCED, log 106). -/
def laneFcvt (w : W64) (l : Lane) : Lane :=
  let src := xType w
  let dst := xAux w
  let scale := if src = 0xB || dst = 0xB then 127 else bits (l.get (xRs2 w)) 7 0
  let v := decodeScaled src ((l.get (xRs1 w)).toNat % 2 ^ fmtBits src) scale
  let v := if fmtScaled dst then scaleBy ((scale : Int) - 127) v else v
  l.put (xRd w) (BitVec.ofNat 64 (encodeElem dst v))

/-- A value to an integer, to nearest even or toward zero, saturating; NaN gives 0. -/
def floatToInt (code : Nat) (trunc : Bool) (v : Val) : Int :=
  let n := iwBits code
  let lo : Int := if iwSigned code then -(2 ^ (n - 1) : Nat) else 0
  let hi : Int := if iwSigned code then (2 ^ (n - 1) : Nat) - 1 else (2 ^ n : Nat) - 1
  match v with
  | .nan => 0
  | .inf neg => if neg then lo else hi
  | .fin neg m e =>
    let q : Nat := if trunc then (if e ≥ 0 then m * 2 ^ e.toNat else m / 2 ^ (-e).toNat) else roundInt m e
    max lo (min hi (if neg then -(q : Int) else (q : Int)))

def laneFtoi (w : W64) (l : Lane) : Lane :=
  let c := xAux w % 8
  l.put (xRd w) (intTo c (floatToInt c (decide (xAux w ≥ 8)) (floatOf (xType w) (l.get (xRs1 w)))))

def laneItof (w : W64) (l : Lane) : Lane :=
  let x := intOf (xType w) (l.get (xRs1 w))
  l.put (xRd w) (floatTo (xAux w) (.fin (decide (x < 0)) x.natAbs 0))

end Sys2Proof.Machine
end

