-- ==== Sys2Proof/Machine/Threads.lean ====
section
/-! DEFINITION. Threads of the group processors and what a memory instruction means for one of them: the tile store and the code
in it (R69, R198), a thread's registers, the address and values of an access (R229, R238), and how an access that was under
way ends: a load whose data arrives, the stores of a block that a trap stopped (R200, R218, R222). -/

namespace Sys2Proof.Machine

/-! ### Tile stores -/

/-- Bytes of a tile store; an offset past the tile's 24 MiB is a record error elsewhere. -/
def tileBytes (s : State) (t off n : Nat) : List Byte := tgetN 0 s.mem.cells (tileBase s t + off) n

def tileWord (s : State) (t off : Nat) : W64 := BitVec.ofNat 64 (leNat (tileBytes s t off 8))

def tileWords (s : State) (t off n : Nat) : List W64 := (upFrom 0 n).map (fun i => tileWord s t (off + 8 * i))

def writeTile (s : State) (t off : Nat) (bs : List Byte) : State := writeStore s (tileBase s t + off) bs

/-- Bytes of a tile store (R158). -/
def tileSize : Nat := 24 * 1024 * 1024

/-! ### Threads -/

/-- Threads of a block. -/
def threadsOf (g : Gp) : List Nat := upFrom 0 g.blk.threads

def threadAt (g : Gp) (i : Nat) : Thread := tget {} g.threads i

/-- Word of a block's code at an offset (R198). -/
def codeWord (s : State) (t : Nat) (b : Block) (pc : Nat) : W64 := tileWord s t (b.codeAt + pc)

def modThread (s : State) (t gp i : Nat) (f : Thread → Thread) : State :=
  modGp s t gp (fun g => { g with threads := tmod {} g.threads i f })

def laneOf (s : State) (t gp i : Nat) : Lane := let x := threadAt (gpOf s t gp) i; { g := x.g, p := x.p }

/-! ### Fields and values of a memory instruction -/

/-- Bytes of an access (R229). -/
def memLen (w : W64) : Nat := 2 ^ xSize w

def isLoad (w : W64) : Bool := xOp w == 0x000
def isStore (w : W64) : Bool := xOp w == 0x001
def isZline (w : W64) : Bool := xOp w == 0x002
def isPrefetch (w : W64) : Bool := xOp w == 0x003
def isMemFence (w : W64) : Bool := xOp w == 0x004

/-- The instruction acquires, or releases, at its scope (R243). -/
def acquires (w : W64) : Bool := xOrd w % 2 == 1
def releases (w : W64) : Bool := xOrd w / 2 == 1

/-- Permissions a GLOBAL access needs (R313). -/
def memNeed (w : W64) : Need := if xAtomic w then needAtomic else if isStore w || isZline w then needWrite else needRead

/-- Address of a thread's access: RA + OFFSET. -/
def memAddr (w : W64) (l : Lane) : Nat := (((l.get (xRs1 w)).toNat + xOffset w) % 2 ^ 64).toNat

/-- RD, or its group, after a load (R225, R229). -/
def loadTo (w : W64) (bs : List Byte) (l : Lane) : Lane :=
  if xSize w ≤ 3 then
    l.put (xRd w) (if xSx w then BitVec.ofInt 64 (signed (8 * memLen w) (leNat bs)) else BitVec.ofNat 64 (leNat bs))
  else ((leWords (memLen w / 8) bs).zip (upFrom (xRd w) (memLen w / 8))).foldl (fun l x => l.put x.2 x.1) l

/-- Bytes that a store takes from RD or its group. -/
def storeFrom (w : W64) (l : Lane) : List Byte :=
  (wordBytes ((upFrom (xRd w) (max 1 (memLen w / 8))).map l.get)).take (memLen w)

/-- Width code of an atomic's operands (R233): unsigned unless SX is 1. -/
def atomCode (w : W64) : Nat := (if xSize w = 2 then 2 else 0) + (if xSx w then 0 else 1)

/-- RB and RC of an atomic (R229). -/
def atomRb (w : W64) : Nat := bits w 23 18
def atomRc (w : W64) : Nat := bits w 17 12

/-- Value that an atomic leaves (R238). -/
def atomNew (w : W64) (old : Nat) (l : Lane) : Nat :=
  let c := atomCode w
  let o := intOf c (BitVec.ofNat 64 old)
  let b := intOf c (l.get (atomRb w))
  let ty := if xSize w = 2 then 1 else 0
  let v : W64 := match xOp w with
    | 0x010 => intTo c (o + b)
    | 0x011 => floatTo ty (vadd (floatOf ty (BitVec.ofNat 64 old)) (floatOf ty (l.get (atomRb w))))
    | 0x012 => intTo c (min o b)
    | 0x013 => intTo c (max o b)
    | 0x014 => intTo c (fAnd c o b)
    | 0x015 => intTo c (fOr c o b)
    | 0x016 => intTo c (fXor c o b)
    | 0x017 => intTo c b
    | _ => if o = intOf c (l.get (atomRc w)) then intTo c b else intTo c o
  v.toNat % 2 ^ (8 * memLen w)

/-! ### Accesses under way -/

/-- An acquire at tile scope or wider empties the L1 (R217, R244). -/
def acquireL1 (s : State) (w : W64) (t g : Nat) : State :=
  if acquires w && xScope w ≥ 4 then { s with coh := { s.coh with l1 := terase s.coh.l1 (16 * t + g) } } else s

/-- A thread goes on behind its instruction with new registers. -/
def threadOn (s : State) (t g n pc : Nat) (l : Lane) : State :=
  modThread s t g n (fun x => { x with g := l.g, p := l.p, pc := pc + 8, st := .ready, arrived := none })

/-- The data of a load from a host or another device arrives (R239): the load completes, in a halted group too (R222). A
thread that no longer waits takes nothing. -/
def gpArrive (s : State) (t g n : Nat) (bs : List Byte) : State :=
  let gp := gpOf s t g
  let x := threadAt gp n
  if !gp.running || x.st != .memory then s
  else
    let w := codeWord s t gp.blk x.pc
    acquireL1 (threadOn s t g n x.pc (loadTo w bs (laneOf s t g n))) w t g

/-- A thread waits with a store or atomic that it has issued. -/
def storesStill (s : State) (t : Nat) (gp : Gp) (n : Nat) : Bool :=
  let x := threadAt gp n
  let w := codeWord s t gp.blk x.pc
  x.st == .memory && xFmt w == 2 && !isLoad w

/-- An issued store or atomic of a stopped block completed at the home of its line (R218; DESIGN CHOICE, log 104: the loss of
its context finds the line not granted yet). -/
def finishStore (s : State) (t g n : Nat) : State :=
  let gp := gpOf s t g
  let c := (unitOf s t (8 + g)).ctx
  let w := codeWord s t gp.blk (threadAt gp n).pc
  let l := laneOf s t g n
  let s1 := match translate s c (memAddr w l) (memNeed w) with
    | none => s
    | some pa =>
      if !cacheable pa then s
      else if isZline w then writeBytes s (pa / 128 * 128) (List.replicate 128 0)
      else if isStore w then writeBytes s pa (storeFrom w l)
      else writeBytes s pa (leBytes (memLen w) (atomNew w (leNat (readBytes s pa (memLen w))) l))
  modThread s1 t g n (fun x => { x with st := .exited })

/-- Every store that the stopped block of a GP still has under way. -/
def finishStores (s : State) (t g : Nat) : State :=
  let gp := gpOf s t g
  if gp.stopped then ((threadsOf gp).filter (storesStill s t gp)).foldl (fun s n => finishStore s t g n) s else s

/-- Reads of hosts and other devices that threads of a GP wait for are forgotten: nothing passes to a later block (R200). -/
def forgetGp (s : State) (t g : Nat) : State :=
  let s1 := { s with net := { s.net with
    xfers := s.net.xfers.filter (fun kv => !(kv.2.kind == 3 && kv.2.owner.1 == 16 * t + g)) } }
  [0, 1].foldl (fun s p => modPort s p (fun x => { x with reads := x.reads.filter (fun r =>
    match r.purpose with
    | .gp t' g' _ => !(t' == t && g' == g)
    | _ => true) })) s1

/-- A GP stopped: its block, registers, local memory and L1 are cleared, and nothing waits for it (R200, R219). -/
def clearGp (s : State) (t g : Nat) : State :=
  let s1 := modGp (forgetGp s t g) t g (fun x => { lead := x.lead })
  { s1 with coh := { s1.coh with
    l1 := terase s1.coh.l1 (16 * t + g)
    waiters := s1.coh.waiters.filter (fun v => v.who != .gp t g) } }

end Sys2Proof.Machine
end

