-- ==== Sys2Proof/Machine/Slots.lean ====
section
/-! DEFINITION. Cue programs and what they grant: entries and slot-run records (R52–R54), scheduled slots and windows (R46), the
steps of runs in the running order (R106, R108), and the writing of entries (R110). -/

namespace Sys2Proof.Machine

/-! ### Scripts, runs and steps -/

/-- The script in a slot of a partition. -/
def scriptOf (s : State) (p slot : Nat) : Script := tget {} (partOf s p).scripts slot
def modScript (s : State) (p slot : Nat) (f : Script → Script) : State :=
  modPart s p (fun x => { x with scripts := tmod {} x.scripts slot f })

/-- Handle of a script: GENERATION and SLOT (R97). -/
def handleOf (sc : Script) (slot : Nat) : Nat := sc.gen * 256 + slot

def runOf (s : State) (p id : Nat) : Option Run := (partOf s p).order.runs.find? (fun r => r.id == id)

def modOrder (s : State) (p : Nat) (f : Order → Order) : State := modPart s p (fun x => { x with order := f x.order })

def modRun (s : State) (p id : Nat) (f : Run → Run) : State :=
  modOrder s p (fun o => { o with runs := o.runs.map (fun r => if r.id = id then f r else r) })

/-- Step `k` of a run's script. -/
def stepOf (s : State) (p : Nat) (r : Run) (k : Nat) : Option PlanStep := (scriptOf s p r.slot).steps[k]?

/-- A placed step. -/
def placedStep (s : State) (p : Nat) (pl : Placed) : Option PlanStep := (runOf s p pl.1).bind (fun r => stepOf s p r pl.2)

/-- The pieces of an INTERNAL tensor of a script (R101). -/
def placeOf (sc : Script) (tensor : Nat) : List (Nat × Nat) :=
  ((sc.places.find? (fun x => x.1 == tensor)).map (fun x => x.2)).getD []

/-! ### The nodes of a run (R75, R87, R88, R113) -/

/-- Work of a node is on an engine unit of the partition, or waits for one. -/
def nodeBusy (s : State) (p run node : Nat) : Bool :=
  (partTiles s p).any (fun t => (upFrom 0 28).any (fun u =>
    let x := unitOf s t u
    (x.cur.toList ++ x.waiting).any (fun st => st.run == run && st.node == node)))

/-- A step has come into force. -/
def stepEntered (s : State) (p : Nat) (r : Run) (k : Nat) : Bool :=
  decide (k < r.next) && !(partOf s p).order.fixed.any (fun x => x.steps.contains (r.id, k))

/-- The steps that start work of a node. -/
def stepsOf (steps : List PlanStep) (node : Nat) : List Nat :=
  (upFrom 0 steps.length).filter (fun k => match steps[k]? with
    | some st => st.entries.any (fun e => (bitList e.start 28).any (fun u => e.nodes.getD u 0 == node))
    | none => false)
def nodeSteps (sc : Script) (node : Nat) : List Nat := stepsOf sc.steps node

/-- KIND of a node record (R75). -/
def nodeKind (ws : List W64) : Nat := bits (wordAt ws 0) 63 56

/-- A node of a run is complete: its engine work has been started and is done, or the transfer or signal it stands for has
ended (R75, R87, R88). -/
def nodeDone (s : State) (p : Nat) (r : Run) (node : Nat) : Bool :=
  if r.done.contains node then
    !s.net.xfers.any (fun kv => kv.2.used && kv.2.kind == 0 && kv.2.owner == (p, r.id) && kv.2.node == node)
  else
    let ks := nodeSteps (scriptOf s p r.slot) node
    !ks.isEmpty && ks.all (stepEntered s p r) && !nodeBusy s p r.id node

/-- Every transfer that leaves the partition and every SIGNAL of the run, the nodes that no step carries out, has begun. -/
def nodesBegun (s : State) (p : Nat) (r : Run) : Bool :=
  let sc := scriptOf s p r.slot
  (upFrom 0 sc.nodes.length).all (fun n => r.done.contains n || !(nodeSteps sc n).isEmpty)

/-- The run has ended: its last step has left force, its transfers have been delivered or dropped and its SIGNALs have taken
effect (R87, R88, R113). -/
def runEnded (s : State) (p : Nat) (r : Run) : Bool := r.left && r.xfers.isEmpty && nodesBegun s p r

/-- The nodes of a partition's runs that are complete at a boundary (R88). -/
def markReady (s : State) (p : Nat) : State :=
  modOrder s p (fun o => { o with runs := o.runs.map (fun r =>
    { r with ready := (upFrom 0 (scriptOf s p r.slot).nodes.length).filter (nodeDone s p r) }) })

/-! ### Program memories (R52, R53): sequencer of tile t is number t, that of hub h number 72 + h -/

/-- Program-memory key of a sequencer's entry (R52). -/
def progKey (n pos : Nat) : Nat := 1024 * n + pos % 1024

/-- Entry written for a sequencer at a position, if VALID and of that position (R52, R54). -/
def entryAt (s : State) (n pos : Nat) : Option (List W64) :=
  let ws := tget [] s.eng.prog (progKey n pos)
  if bit (wordAt ws 0) 63 && bits (wordAt ws 0) 15 0 == pos % 65536 then some ws else none

/-- DESC of unit `u` in an entry (R52). -/
def entryDesc (ws : List W64) (u : Nat) : Nat :=
  if u % 2 = 0 then bits (wordAt ws (2 + u / 2)) 31 0 else bits (wordAt ws (2 + u / 2)) 63 32

/-- The entry's slot-run records; an empty entry has none that apply (R52, R53). -/
def entryRuns (s : State) (n pos : Nat) : List W64 :=
  match entryAt s n pos with
  | some ws =>
    if bits (wordAt ws 0) 62 60 ≠ 0 then []
    else (tget [] s.eng.runs (32768 * n + bits (wordAt ws 0) 46 32)).take (bits (wordAt ws 0) 31 16)
  | none => []

/-- The entry is dark for a channel (R50, R52). -/
def entryDark (s : State) (n pos ch : Nat) : Bool :=
  (entryAt s n pos).any (fun ws => bit (wordAt ws 0) 59 && bits (wordAt ws 0) 58 56 == ch % 8)

/-! ### Slot-run records (R53) -/

def runRes (r : W64) : Nat := bits r 63 60
def runLink (r : W64) : Nat := bits r 59 52
def runChannel (r : W64) : Nat := bits r 51 40
def runFirst (r : W64) : Nat := bits r 39 24
def runCount (r : W64) : Nat := bits r 23 8
def runPosition (r : W64) : Nat := bits r 7 0

/-- Scheduled units below unit `u`: every eighth unit is a house unit (R46). -/
def schedNo (u : Nat) : Nat := u - u / 8

/-- Scheduled units of a record's resource in a cue (R46); a dark cue leaves out windows 104–110, a run is cut at the end of the
planned range (R54). -/
def schedUnits (dark : Nat → Bool) (r : W64) : Nat :=
  if runRes r = 1 then (if dark (runChannel r) then 91 else 98) else if runLink r ≥ 96 then 16324 else 32648

/-- Scheduled units that a record names, by number; a forward record sends 16 slots after the slot it receives (R53). -/
def runSpan (dark : Nat → Bool) (r : W64) : Nat × Nat :=
  let a := schedNo (if runRes r = 2 then runFirst r + 16 else runFirst r)
  (a, min (a + runCount r) (schedUnits dark r))

/-- Two records name the same resource. -/
def sameResource (a b : W64) : Bool :=
  if runRes a = 1 then runRes b == 1 && runChannel a == runChannel b
  else runRes b != 1 && decide (runRes b < 3) && runLink a == runLink b

/-- What earlier runs leave of a run's units (R54). -/
def leftOver (x : Nat × Nat) (taken : List (Nat × Nat)) : List (Nat × Nat) :=
  taken.foldl (fun rest y => rest.flatMap (fun z => [(z.1, min z.2 y.1), (max z.1 y.2, z.2)].filter (fun w => decide (w.1 < w.2))))
    ([x].filter (fun w => decide (w.1 < w.2)))

/-- The records of an entry that grant something, after earlier ones have taken their units (R53, R54). -/
def granting (dark : Nat → Bool) : List W64 → List W64 → List W64
  | _, [] => []
  | before, r :: rest =>
    let left := leftOver (runSpan dark r) ((before.filter (sameResource r)).map (runSpan dark))
    let others := granting dark (before ++ [r]) rest
    if runRes r < 3 && !left.isEmpty then r :: others else others

/-- What the entry in force grants on a sequencer: nothing in an idle cue, nor for an entry that was not written in time (R54, R56,
R61). -/
def granted (s : State) (p n : Nat) : List W64 :=
  let o := (partOf s p).order
  if !o.live || o.under then []
  else granting (fun c => entryDark s n o.pos (c % 256) || (chanOf s (c / 256) (c % 256)).darkAt == s.clk.cue) [] (entryRuns s n o.pos)

/-- Channels that bytes of stack memory touch, as stack × 256 + channel (R53, R287). -/
def channelsOf (pa n : Nat) : List Nat :=
  ((upFrom (pa / 128) ((pa + n + 127) / 128 - pa / 128)).map (fun line => line * 128 / stackBytes * 256 + line % 256)).eraseDups

/-- The entry in force grants a tile's requests their windows, its brace the slots for the data, and a tile-store end of another
tile a slot of its sender (R53, R333); a scheduled mover pauses in an idle cue (R61). A request for a window not granted waits for
one that is. -/
def transferGranted (s : State) (t : Nat) (reads writes : List (Nat × Nat)) : Bool :=
  match bayPart s (t / 9), tilePos s t with
  | some p, some pos =>
    let own := granted s p t
    let hub := granted s p (72 + t / 9)
    let mem := fun (l : List (Nat × Nat)) => l.filter (fun x => cacheable x.1)
    let chans := ((mem (reads ++ writes)).filter (fun x => inStack x.1)).flatMap (fun x => channelsOf x.1 x.2)
    let sends := fun (rs : List W64) (link : Nat) => rs.any (fun r => runRes r != 1 && runLink r == link)
    let far := fun (l : List (Nat × Nat)) => (l.filter (fun x => inTileStore x.1)).map (fun x => x.1)
    let elsewhere := fun (pa : Nat) => decide (pa < tileBase s t) || decide (tileBase s t + tileSize ≤ pa)
    (partOf s p).order.kind != .idle && chans.all (fun c =>
      own.any (fun r => runRes r == 1 && runChannel r == c) &&
      (granted s p (72 + c / 512)).any (fun r => runRes r == 1 && runChannel r == c && runPosition r == pos)) &&
    ((mem reads).isEmpty || sends hub pos) && ((mem writes).isEmpty || sends own pos) &&
    (!(far writes).any elsewhere || own.any (fun r => runRes r == 0)) &&
    ((far reads).all (fun pa => !elsewhere pa || (partTiles s p).any (fun u =>
      decide (tileBase s u ≤ pa) && decide (pa < tileBase s u + tileSize) && (granted s p u).any (fun r => runRes r == 0))))
  | _, _ => false

/-! ### Writing entries (R52, R110) -/

/-- Program-memory offset of the records of a position's entry, in units of 8 bytes: the ring fills the lower half of the memory, the
upper half holds 1,024 records for each of 16 positions (R52, R123, log 110). -/
def runsAt (pos : Nat) : Nat := 16384 + 1024 * (pos % 16)

/-- Word 0 of an entry (R52). -/
def entryHead (pos kind runs : Nat) : W64 :=
  flag true 63 ||| fld kind 3 60 ||| flag true 59 ||| fld (pos % 8) 3 56 ||| fld (runsAt pos) 15 32 ||| fld runs 16 16 ||| fld pos 16 0

/-- The words of a tile's entry (R52). -/
def entryWords (pos : Nat) (e : Option TileEntry) : List W64 :=
  match e with
  | none => entryHead pos 1 0 :: List.replicate 15 0
  | some e => entryHead pos 0 e.runs.length :: fld e.start 28 0 ::
      (upFrom 0 14).map (fun i => fld (e.desc.getD (2 * i) 0) 32 0 ||| fld (e.desc.getD (2 * i + 1) 0) 32 32)

/-- An entry and its records are written (R52, R53). -/
def putProgram (s : State) (n pos : Nat) (ws runs : List W64) : State :=
  { s with eng := { s.eng with
    prog := tput [] s.eng.prog (progKey n pos) ws
    runs := tput [] s.eng.runs (32768 * n + runsAt pos) runs } }

/-- The records of every step placed at a position for a hub; no record, an empty entry (R53, R108). -/
def writeHub (s : State) (p pos : Nat) (placed : List Placed) (h : Nat) : State :=
  let runs := placed.flatMap (fun pl => (placedStep s p pl).toList.flatMap (fun st =>
    (st.hubs.filter (fun e => e.hub == h)).flatMap (fun e => e.runs)))
  putProgram s (72 + h) pos (entryHead pos (if runs.isEmpty then 1 else 0) runs.length :: List.replicate 15 0) runs

/-- A tile's entry of a position, the entry of the one step that claims the tile there (R108, R110). -/
def writeTileEntry (s : State) (p pos : Nat) (placed : List Placed) (t : Nat) : State :=
  let found := placed.findSome? (fun pl => (placedStep s p pl).bind (fun st =>
    (st.entries.find? (fun e => e.tile == t)).map (fun e => (pl.1, e))))
  let allot := match found with
    | some (id, e) => (bitList e.start 28).map (fun u => (u, id, pos + max 1 (e.span.getD u 1) - 1, e.nodes.getD u 0))
    | none => []
  let s1 := putProgram s t pos (entryWords pos (found.map (fun x => x.2))) ((found.map (fun x => x.2.runs)).getD [])
  { s1 with eng := { s1.eng with allot := tput [] s1.eng.allot (progKey t pos) allot } }

/-- The entries of one position are written into the program memories of the partition's tiles and hubs (R52, R110). -/
def writeEntries (s : State) (p pos : Nat) (placed : List Placed) : State :=
  (partBays s p).foldl (fun s h => writeHub s p pos placed h)
    ((partTiles s p).foldl (fun s t => writeTileEntry s p pos placed t) s)

/-- A tile's entry becomes empty: no unit starts, no slot runs (R52, R115). -/
def emptyEntry (s : State) (pos t : Nat) : State :=
  match tget [] s.eng.prog (progKey t pos) with
  | [] => s
  | w0 :: ws => { s with eng := { s.eng with
      prog := tput [] s.eng.prog (progKey t pos) (setBits w0 62 60 1 :: 0 :: ws.drop 1)
      allot := tput [] s.eng.allot (progKey t pos) [] } }

/-- Steps of some runs in positions already fixed become empty (R115, R118): the positions and the written entries. -/
def emptyEntries (s : State) (p : Nat) (runs : List Nat) : State :=
  let o := (partOf s p).order
  let gone := fun (pl : Placed) => runs.contains pl.1
  let all := (if o.live then [{ pos := o.pos, steps := o.inForce, written := !o.under || o.mended : Position }] else []) ++ o.fixed
  let s1 := (all.filter (fun x => x.written && x.steps.any gone)).foldl (fun s x =>
    let tiles := (x.steps.filter gone).flatMap (fun pl => (placedStep s p pl).toList.flatMap (fun st => st.entries.map (fun e => e.tile)))
    let s2 := tiles.foldl (fun s t => emptyEntry s x.pos t) s
    (partBays s p).foldl (fun s h => writeHub s p x.pos (x.steps.filter (fun pl => !gone pl)) h) s2) s
  modOrder s1 p (fun o => { o with
    fixed := o.fixed.map (fun x => { x with steps := x.steps.filter (fun pl => !gone pl) })
    inForce := o.inForce.filter (fun pl => !gone pl) })

end Sys2Proof.Machine
end

