-- ==== Sys2Proof/Machine/Loss.lean ====
section
/-! DEFINITION. What ends work: runs leaving the running order (R115, R118, R119), scripts unloaded (R117), engines
stopped (R169, R192, R218, R348), tiles and joists lost with the contexts that depend on them (R27), partition resets
requested (R55, R506) and contexts lost (R373). -/

namespace Sys2Proof.Machine

/-! ### Engines stopped -/

/-- Engine state of one context dropped from a tile's units: lists, waiting starts of its runs, banks, blocks, transfers
(R169, R192, R218, R348). -/
def stopUnit (s : State) (c : Nat) (runs : List Nat) (t u : Nat) : State :=
  let x := unitOf s t u
  let mine := match x.cur with
    | some st => runs.contains st.run || x.ctx == c
    | none => x.broken && x.ctx == c
  let s1 := modUnit s t u (fun x =>
    let w := x.waiting.filter (fun st => !runs.contains st.run)
    if mine then { waiting := w } else { x with waiting := w })
  if !mine then s1
  else if u < 4 then
    -- the banks that hold the stopped context's state are cleared (R169)
    let clear := fun (b : Bank) => if b.held && b.ctx == x.ctx then {} else b
    modMxe s1 t u (fun m => { m with b0 := clear m.b0, b1 := clear m.b1 })
  else if u < 8 then
    { s1 with eng := { s1.eng with vxe := tput {} s1.eng.vxe (4 * t + (u - 4)) {} } }
  else if u < 24 then clearGp s1 t (u - 8)
  else { s1 with eng := { s1.eng with mover := terase s1.eng.mover (4 * t + (u - 24)) } }

/-- Every MXE bank that holds a context's state is emptied (R169). -/
def dropBanks (s : State) (c : Nat) : State :=
  let clear := fun (b : Bank) => if b.held && b.ctx == c then {} else b
  { s with eng := { s.eng with mxe := tmap {} s.eng.mxe (fun _ m => { m with b0 := clear m.b0, b1 := clear m.b1 }) } }

/-- Tiles with some engine unit in use. -/
def busyUnits (s : State) : List Nat := s.eng.units.map (fun kv => kv.1)

/-- The engines stop for some runs of a context. -/
def stopRuns (s : State) (c : Nat) (runs : List Nat) (tiles : List Nat) : State :=
  ((busyUnits s).filter (fun k => tiles.contains (k / 28))).foldl (fun s k => stopUnit s c runs (k / 28) (k % 28)) s

/-- Copy command of a queue stopped: its transfer is dropped and its host reads are forgotten (R348). -/
def stopCopy (s : State) (q : Nat) : State :=
  let s1 := { s with
    eng := { s.eng with copies := terase s.eng.copies q }
    net := { s.net with xfers := s.net.xfers.filter (fun kv => !(kv.2.kind == 1 && kv.2.owner.1 == q)) } }
  [0, 1].foldl (fun s p => modPort s p (fun x => { x with reads := x.reads.filter (fun r =>
    match r.purpose with
    | .tile (.cmd q') _ => q' != q
    | .cmd q' _ => q' != q
    | _ => true) })) s1

/-! ### Runs and scripts -/

/-- Runs leave the run list of a partition; their transfers are forgotten at the sender (R115, R118). -/
def leaveRuns (s : State) (p : Nat) (ids : List Nat) : State :=
  let s1 := emptyEntries s p ids
  let s2 := modOrder s1 p (fun o => { o with runs := o.runs.filter (fun r => !ids.contains r.id) })
  { s2 with net := { s2.net with xfers := s2.net.xfers.filter (fun kv => !(kv.2.kind == 0 && kv.2.owner.1 == p && ids.contains kv.2.owner.2)) } }

/-- A script leaves its slot: its tensors and regions are freed (R117). -/
def unloadScript (s : State) (p slot : Nat) : State :=
  let sc := scriptOf s p slot
  if !sc.used then s
  else
    let s1 := sc.granules.foldl freeGranule s
    modPart s1 p (fun x => { x with
      scripts := tput {} x.scripts slot { gen := sc.gen, reused := true }
      freed := x.freed ++ [slot] })

/-- Scripts of a context in a partition. -/
def ctxScripts (s : State) (p c : Nat) : List Nat :=
  ((partOf s p).scripts.filter (fun kv => kv.2.used && kv.2.ctx == c)).map (fun kv => kv.1)

/-- Stores that blocks of a context stopped by a trap still have under way are completed (R218). -/
def settleStores (s : State) (c : Nat) : State :=
  ((busyUnits s).filter (fun k => decide (8 ≤ k % 28) && decide (k % 28 < 24) && (tget {} s.eng.units k).ctx == c)).foldl
    (fun s k => finishStores s (k / 28) (k % 28 - 8)) s

/-- R118: the runs and scripts of a context leave its partition, and its engines stop. -/
def purgeWork (s : State) (c : Nat) : State :=
  let s := settleStores s c
  let p := (ctxOf s c).part
  let ids := ((partOf s p).order.runs.filter (fun r => r.ctx == c)).map (fun r => r.id)
  let s1 := dropBanks (stopRuns s c ids (partTiles s p)) c
  let s2 := leaveRuns s1 p ids
  let s3 := (ctxScripts s2 p c).foldl (fun s k => unloadScript s p k) s2
  modOrder s3 p (fun o => { o with loads := o.loads.filter (fun l => (queueOf s l.1).ctx != c) })

/-- Queues of a context. -/
def ctxQueues (s : State) (c : Nat) : List Nat :=
  (s.queues.filter (fun kv => kv.2.used && kv.2.ctx == c && decide (2 ≤ kv.1) && decide (kv.1 < 1024))).map (fun kv => kv.1)

/-- Holds and energy of the run of a command, if it is a run on the list (R58, R445). -/
def runTotals (s : State) (p q idx : Nat) : Nat × Nat :=
  match (partOf s p).order.runs.find? (fun r => r.queue == q && r.idx == idx) with
  | some r => (r.holds, r.energy)
  | none => (0, 0)

/-- Bytes of a transfer's stream (R336). -/
def streamLen (t : Transfer) : Nat := t.counts.foldl (· * ·) 1

/-- Every byte of a copy command was written in an earlier cue, its check value too, and no transfer over links is
outstanding (R391). -/
def copyDone (s : State) (q : Nat) : Bool :=
  match tget none s.eng.copies q with
  | some t => t.ended.any (fun e => decide (e < s.clk.cue)) &&
      !s.net.xfers.any (fun kv => kv.2.used && kv.2.kind == 1 && kv.2.owner.1 == q)
  | none => false

/-- Word 3 of a copy command's record (R347). -/
def copyResult (op : Nat) (t : Transfer) : W64 :=
  if op ≠ 0x12 then 0
  else if t.save then BitVec.ofNat 64 t.running
  else if t.mode = 0 then 0 else BitVec.ofNat 64 (t.running ^^^ crcXor t.poly)

/-- A copy command whose work is done completes (R391). -/
def completeCopy (s : State) (q : Nat) (cm : Cmd) : State :=
  match tget none s.eng.copies q with
  | none => s
  | some t => finish (stopCopy s q) q cm.idx
      { plainDone s.clk.cue 0 (copyResult (pktOp (wordAt cm.words 0)) t) with energy := cm.energy, mismatch := t.mismatch }

/-- The run of a PLAY_RUN has completed at this boundary (R113). -/
def runOver (s : State) (p q idx : Nat) : Bool :=
  (partOf s p).order.runs.any (fun r => r.queue == q && r.idx == idx && runEnded s p r)

/-- R373: at the loss, started commands complete with the status of the fault record, others with CONTEXT_LOST; one that
would start at this very boundary does not start. An ABORT of the context completes with CONTEXT_LOST (R505). -/
def loseCommands (s : State) (c : Nat) (f : FaultRecord) : State :=
  (ctxQueues s c).foldl (fun s q =>
    (queueOf s q).cmds.foldl (fun s cm =>
      let t := runTotals s (ctxOf s c).part q cm.idx
      let s1 := stopCopy s q
      if copyDone s q && cm.stage == 1 then completeCopy s q cm
      else if runOver s (ctxOf s c).part q cm.idx then finish s1 q cm.idx { plainDone s.clk.cue 0 0 with holds := t.1, energy := t.2 }
      else if cm.started.isSome && cm.started != some s.clk.cue && pktOp (wordAt cm.words 0) ≠ 0x50 then
        finish s1 q cm.idx { due := s.clk.cue, status := f.status, result := f.address, holds := t.1, energy := t.2, mismatch := false, fault := true }
      else finish s1 q cm.idx (plainDone s.clk.cue stLost 0)) s) s

/-- A context is lost with its fault record (R118, R373, R377, R493, R501). -/
def loseContext (s : State) (c : Nat) : State :=
  match (ctxOf s c).fault with
  | none => s
  | some f0 =>
    let x := ctxOf s c
    let f := recordMasks f0 x.agents
    let s1 := loseCommands (modCtx s c (fun x => { x with st := .lost, record := f })) c f
    let s2 := purgeWork s1 c
    let s3 := modCtx s2 c (fun x => { x with fault := none, agents := [] })
    let cores := (s3.cores.filter (fun kv => kv.2.ctx == c)).map (fun kv => kv.1)
    let s4 := cores.foldl (fun s k => setIpend s k 14) s3
    if x.binding < 2 && bit (portOf s4 x.binding).ctl 63 then
      raiseVector s4 x.binding (bits (portOf s4 x.binding).ctl 10 0)
    else s4

/-- A loss that the house raises during a cue and acts on at the next boundary (R503). -/
def houseLossNow (s : State) (c status : Nat) (address : W64) : State :=
  raise s c (faultOf s status 0 houseAgent address 0)

/-! ### Tiles, joists and ridges lost (R27) -/

/-- The context's resident scripts have a step that satisfies a condition. -/
def ctxClaims (s : State) (c : Nat) (f : PlanStep → Bool) : Bool :=
  (partOf s (ctxOf s c).part).scripts.any (fun kv => kv.2.used && kv.2.ctx == c && kv.2.steps.any f)

/-- A copy command of the context runs on the tile's movers (R345, R348). -/
def copiesOn (s : State) (c t : Nat) : Bool :=
  s.eng.copies.any (fun kv => match kv.2 with
    | some tr => tr.ctx == c && tr.tile == t
    | none => false)

/-- The contexts that depend on a tile. -/
def tileDependents (s : State) (t : Nat) : List Nat :=
  ctxsWhere s (fun c _ => ctxClaims s c (fun st => st.claim.tiles.testBit t) || copiesOn s c t)

/-- The contexts that depend on a joist: a step names it among the slot-run records of a tile. -/
def joistDependents (s : State) (j : Nat) : List Nat :=
  ctxsWhere s (fun c _ => ctxClaims s c (fun st => st.entries.any (fun e => e.runs.any (fun r => runRes r == 0 && runLink r == j))))

/-- The contexts that depend on ridge 88 + r. -/
def ridgeDependents (s : State) (r : Nat) : List Nat :=
  ctxsWhere s (fun c _ => ctxClaims s c (fun st => st.claim.ridges.testBit r))

/-- TILE_LOST address field: the tile, or the joist or ridge (R502). -/
def lostTile (t : Nat) : W64 := fld t 8 0 ||| fld 0xFF 8 8
def lostLink (l : Nat) : W64 := fld 0xFF 8 0 ||| fld l 8 8

/-- Contexts lost for a tile, a joist or a ridge, at the boundary that ends the present cue. -/
def loseFor (s : State) (cs : List Nat) (addr : W64) : State := cs.foldl (fun s c => houseLossNow s c stTile addr) s

/-! ### Partition resets -/

/-- A reset of a partition is requested; the first cause taken gives the code (R496, R506). -/
def requestReset (s : State) (p cause : Nat) : State :=
  modPart s p (fun x => if x.resetCause.isSome || !x.shape.defined then x else { x with resetCause := some cause })

/-- An uncorrectable burst that has come up lies in a house granule of a bay of partition `p` (R303). -/
def houseBurst (s : State) (p : Nat) : Bool :=
  s.mem.badDue.any (fun x => bits (ownerEntry s (32 * x.1)) 14 13 == 1 && bits (ownerEntry s (32 * x.1)) 11 0 == 0 &&
    bayPart s (homeHub (32 * x.1)) == some p)

/-- The cause of a reset of partition `p` that is due at the next boundary: one requested, or such a burst (R55, R303). -/
def dueReset (s : State) (p : Nat) : Option Nat :=
  match (partOf s p).resetCause with
  | some c => some c
  | none => if houseBurst s p then some 3 else none

/-- The granule of an address belongs to the house in a bay of a partition: that partition is reset; otherwise the
owner is lost with UNCORRECTABLE_MEMORY or TILE_LOST in cue `cue` (R277, R278, R303). -/
def loseOwnerIn (s : State) (pa status : Nat) (addr : W64) (cue : Nat) : State :=
  let e := ownerEntry s pa
  if bits e 14 13 ≠ 1 then s
  else
    let c := bits e 11 0
    if c = 0 then
      match bayPart s (homeHub pa) with
      | some p => requestReset s p 3
      | none =>
        let s1 := { s with mem := { s.mem with owner := tput 0 s.mem.owner (pa / 0x200000) 0x4000 } }
        if inStack pa then modStack s1 (pa / stackBytes) (fun x => { x with retired := x.retired + 1 }) else s1
    else raise s c { valid := true, status, cause := 0, agent := houseAgent, cue, address := addr, whereAt := 0 }

/-- The same in the present cue. -/
def loseOwner (s : State) (pa status : Nat) (addr : W64) : State := loseOwnerIn s pa status addr s.clk.cue

/-! ### A cache leaves the directory (R260, R278) -/

/-- One entry without a sharer: erased when none remains, no answer awaited from it. -/
def dirWithout (x : Nat) (e : DirEntry) : DirEntry :=
  let sh := if e.sharers.testBit x then e.sharers - 2 ^ x else e.sharers
  if sh = 0 && e.busy.isNone then {}
  else { e with sharers := sh, owned := e.owned && sh != 0, awaiting := e.awaiting.filter (fun a => a.1 != x) }

/-- A request of a cache that is emptied ends at its home; a dirty line on its way to the cache is written there. -/
def cancelRequest (s : State) (line : Nat) : State :=
  let e := dirOf s line
  let d := match e.granted with
    | some (_, .m, some d) => some d
    | _ => e.data
  let s1 := match d with
    | some d => writeLine s line d
    | none => s
  modDir s1 line (fun e => { e with busy := none, awaiting := [], granted := none, data := none })

/-- Requests that no longer await an answer are completed. -/
def settleHomes (s : State) : State :=
  let due := s.coh.dir.filter (fun kv => kv.2.busy.isSome && kv.2.awaiting.isEmpty && kv.2.granted.isNone)
  due.foldl (fun s kv => match kv.2.busy with
    | some (.cache y r) => completeRequest s y kv.1 r
    | some a => finishUncached s kv.1 a
    | none => s) s

/-- A sharer's bit is cleared from every entry and its cache and writeback buffer are emptied. -/
def clearSharer (s : State) (x : Nat) : State :=
  let mine := s.coh.dir.filter (fun kv => kv.2.granted.any (fun g => g.1 == x) || kv.2.busy.any (fun a => match a with
    | .cache y _ => y == x
    | _ => false))
  let s := (mine.map (fun kv => kv.1)).foldl cancelRequest s
  settleHomes { s with coh := { s.coh with
      l2 := terase s.coh.l2 x
      wb := terase s.coh.wb x
      l1d := if x < 72 then s.coh.l1d else terase s.coh.l1d (x - 72)
      l1i := if x < 72 then s.coh.l1i else terase s.coh.l1i (x - 72)
      dir := tmap {} s.coh.dir (fun _ e => dirWithout x e)
      queue := s.coh.queue.filter (fun r => match r.2 with
        | .cache y _ => y != x
        | _ => true) } }

/-- The lines that a cache owns in M, those of its writeback buffer included that no snoop has taken (R265). -/
def dirtyOf (s : State) (x : Nat) : List Line :=
  (tget [] s.coh.l2 x ++ tget [] s.coh.wb x).filter (fun l =>
    l.st == .m && (dirOf s l.line).owned && (dirOf s l.line).sharers.testBit x && copyOf s x l.line == some l)

/-- A cache writes back its M lines and is emptied (R260, R278). -/
def flushSharer (s : State) (x : Nat) : State :=
  clearSharer ((dirtyOf s x).foldl (fun s l => writeLine s l.line l.data) s) x

/-- The engine state of a tile is lost: lists, banks, registers, blocks, transfers, GP caches. -/
def clearTile (s : State) (t : Nat) : State :=
  let s := (upFrom 0 16).foldl (fun s g => forgetGp s t g) s
  let own := fun (n k : Nat) => k / n == t
  { s with
    eng := { s.eng with
      units := s.eng.units.filter (fun kv => !own 28 kv.1)
      mxe := s.eng.mxe.filter (fun kv => !own 4 kv.1)
      vxe := s.eng.vxe.filter (fun kv => !own 4 kv.1)
      gp := s.eng.gp.filter (fun kv => !own 16 kv.1)
      mover := s.eng.mover.filter (fun kv => !own 4 kv.1) }
    coh := { s.coh with l1 := s.coh.l1.filter (fun kv => !own 16 kv.1), waiters := s.coh.waiters.filter (fun w =>
      match w.who with
      | .gp t' _ => t' != t
      | _ => true) } }

/-- An active position goes out of service (R27, R278): the dependent contexts are lost with TILE_LOST, the lines the
tile owned in M are lost with their owners, its engines stop. The contexts of `spared` are lost with their partition instead
(R31, R504). -/
def tileLeaves (spared : Nat → Bool) (s : State) (pos cause : Nat) : State :=
  match posTile s pos with
  | none => s
  | some t =>
    if posIsOut s pos then s
    else
      let s1 := loseFor s ((tileDependents s t).filter (fun c => !spared c)) (lostTile t)
      let s2 := ((dirtyOf s1 t).filter (fun l => !spared (bits (ownerEntry s1 (128 * l.line)) 11 0))).foldl
        (fun s l => loseOwner s (128 * l.line) stTile (lostTile t)) s1
      let s3 := clearTile (clearSharer s2 t) t
      let s4 := { s3 with panel := { s3.panel with posOut := tput false s3.panel.posOut pos true } }
      addEvent s4 0x01 pos [cause]

/-- The same for a tile that goes out of service by itself. -/
def tileGoesOut (s : State) (pos cause : Nat) : State := tileLeaves (fun _ => false) s pos cause

/-- Accesses that wait for lines which are gone lose their contexts (R278, R304); a next-line fetch is dropped (R216). -/
def loseWaiters (s : State) (gone : Nat → Bool) (addr : W64) : State :=
  let cs := (s.coh.waiters.filter (fun v => v.lines.any gone && !v.nextLine)).map (fun v => match v.who with
    | .core c => (coreOf s c).ctx
    | .gp t g => (unitOf s t (8 + g)).ctx)
  let s1 := cs.foldl (fun s c => houseLossNow s c stMemory addr) s
  { s1 with coh := { s1.coh with waiters := s1.coh.waiters.filter (fun v => !v.lines.any gone) } }

/-- A hub fails (R31, R278, R504): its bay is out of service, its stacks too, and its partition is reset, with which the contexts
of the partition are lost; the lines homed there are lost. -/
def hubFails (s : State) (h : Nat) : State :=
  if !hubIsUp s h then s
  else
    let s1 := match bayPart s h with
      | some p => requestReset s p 2
      | none => s
    let spared := fun (c : Nat) => (bayPart s h).isSome && c != 0 && bayPart s h == some (ctxOf s c).part
    let s2 := [2 * h, 2 * h + 1].foldl (fun s k => modStack s k (fun x => if x.state = 2 then x else { x with state := 0, lost := none }))
      ((upFrom (10 * h) 10).foldl (fun s n => tileLeaves spared s n 0xFF) s1)
    let s3 := (upFrom (16 * h) 16).foldl (fun s c => modCore (clearSharer s (72 + c)) c (fun x => { x with halted := true })) s2
    let homed := fun (line : Nat) => cacheable (128 * line) && homeHub (128 * line) == h
    let drop := fun (_ : Nat) (ls : List Line) => ls.filter (fun l => !homed l.line)
    let s3 := loseWaiters s3 homed (BitVec.ofNat 64 ((((s3.coh.waiters.flatMap (fun v => v.lines)).find? homed).getD 0) * 128))
    let s4 := { s3 with
      panel := { s3.panel with hubFailed := tput false s3.panel.hubFailed h true }
      coh := { s3.coh with
        l2 := tmap [] s3.coh.l2 drop, wb := tmap [] s3.coh.wb drop
        l1d := tmap [] s3.coh.l1d (fun _ ls => ls.filter (fun y => !homed y.1))
        l1i := tmap [] s3.coh.l1i (fun _ ls => ls.filter (fun y => !homed y))
        dir := s3.coh.dir.filter (fun kv => !homed kv.1)
        queue := s3.coh.queue.filter (fun r => !homed r.1)
        llm := terase s3.coh.llm h }
      net := { s3.net with links := (upFrom (6 * h) 6).foldl (fun ls l => tmod {} ls l (fun x =>
        { x with state := 0, gen := 0, timeRole := 0, hand := { x.hand with stage := 0, owes := false } })) s3.net.links } }
    addEvent (modDie s4 (hubDie h) (fun d => { d with failed := true })) 0x01 (hubDie h) [0xFF]

/-! ### A host port lost or reset (R368) -/

/-- HOST_PORT_RESET address field (R502). -/
def portCause (p code : Nat) : W64 := fld p 1 0 ||| fld code 4 8

/-- The host reads and transfers that a house queue's
commands wait for are forgotten. -/
def forgetReads (s : State) (q : Nat) : State :=
  let s1 := { s with net := { s.net with xfers := s.net.xfers.filter (fun kv => !(kv.2.kind == 6 && kv.2.owner.1 == q)) } }
  [0, 1].foldl (fun s p => modPort s p (fun x => { x with reads := x.reads.filter (fun r =>
    match r.purpose with
    | .ring q' _ => q' != q
    | .cmd q' _ => q' != q
    | _ => true) })) s1

/-- A house queue is emptied and its ring begins again at entry 0 (R368 item 4, R375): its commands end without a record,
and nothing waits for them any more. -/
def restartHouse (s : State) (q : Nat) : State :=
  let closing := ((queueOf s q).cmds.filter (fun c => pktOp (wordAt c.words 0) == 0xA1 && c.stage != 0)).map (fun c => bits (wordAt c.words 1) 9 0)
  let s1 := closing.foldl (fun s n => modQueue s n (fun x => { x with closing := false })) s
  let s2 := (queueOf s1 q).cmds.foldl (fun s c => removeCmd s q c.idx) (forgetReads s1 q)
  let mine := fun (w : Nat × Nat) => w.1 == q
  let s3 := { s2 with
    parts := tmap {} s2.parts (fun _ x => { x with
      waiters := x.waiters.filter (fun w => !mine w), wakers := x.wakers.filter (fun w => !mine w) })
    objs := tmap {} s2.objs (fun _ o => if o.waiter.any mine then { o with waiter := none } else o) }
  modQueue s3 q (fun x => { x with cmds := [], taken := 0, seen := 0, marks := [], buffer := [], tail := 0, tailTaken := 0 })

/-- The steps of R368 for a port: `code` is the cause of R502, `evBit` the flag of PORT_EVENTS, `config` whether
configuration space returns to its reset values; the losses carry cue `cue`. -/
def resetPort (s : State) (p code evBit cue : Nat) (config : Bool) : State :=
  let x := portOf s p
  let s1 := setPort s p { x with
    held := [], reads := [], events := x.events ||| 2 ^ evBit, holding := false, cuesHeld := 0, silent := true
    apertures := [], msix := [], apAction := none, sentVecs := [], orderNext := false
    funcMask := if config then false else x.funcMask
    busMaster := if config then false else x.busMaster
    bar2 := if config then 30 else x.bar2
    mps := if config then 128 else x.mps
    mrrs := if config then 512 else x.mrrs }
  let s2 := (ctxsWhere s1 (fun _ y => y.binding == p)).foldl (fun s c =>
    raise s c { valid := true, status := stPort, cause := 0, agent := houseAgent, cue, address := portCause p code, whereAt := 0 }) s1
  restartHouse s2 p

end Sys2Proof.Machine
end

