-- ==== Sys2Proof/Machine/Objects.lean ====
section
/-! DEFINITION. Contexts, mappings, objects, windows and queues (R312, R315, R320–R327, R370–R376, R393–R401):
CONTEXT_CREATE, CONTEXT_DESTROY, MAP, UNMAP, AS_INVALIDATE, OBJ_CREATE, OBJ_RELEASE, OBJECT_RELEASE_END, WINDOW_OPEN,
WINDOW_CLOSE, QUEUE_CREATE, QUEUE_DESTROY. -/

namespace Sys2Proof.Machine

/-! ### Table nodes and pages -/

/-- Free granules of a partition on some stacks exist (R326). -/
def anyFree (s : State) (p : Nat) (mstacks : List Nat) : Bool :=
  mstacks.any (fun k => (upFrom (k * 24576) 24576).any (granuleFree s p))

/-- A pick that the house may take: free, of the partition, on one of the stacks (R326). -/
def pickOk (s : State) (p : Nat) (mstacks : List Nat) (g : Nat) : Bool :=
  granuleFree s p g && inStack (g * 0x200000) && mstacks.contains (g * 0x200000 / stackBytes)

/-- The outcome of an allocation that draws on the house's picks. -/
inductive Alloc (α : Type) where
  | got (v : α) (s : State) (picks : List Nat)
  /-- no memory of the partition is left -/
  | none
  /-- memory is left, but the command names none that may be taken: it is not due -/
  | wrong

/-- Stacks of a partition that serve. -/
def liveStacks (s : State) (p : Nat) : List Nat := (partStacks s p).filter (fun k => (stackOf s k).state == 1 && hubIsUp s (k / 2))

/-- A granule taken from the picks for an owner. -/
def takeGranule (s : State) (p : Nat) (mstacks : List Nat) (owner : Nat) (shared : Bool) (picks : List Nat) : Alloc Nat :=
  match picks with
  | g :: rest => if pickOk s p mstacks g then .got g (giveGranule s g owner shared) rest else .wrong
  | [] => if anyFree s p mstacks then .wrong else .none

/-- A 64 KiB table node of a context, in a house granule of its partition (R312). -/
def takeNode (s : State) (c p : Nat) (picks : List Nat) : Alloc Nat :=
  match (ctxOf s c).nodes.getLast? with
  | some (g, n) =>
    if n < 32 then
      .got (g * 0x200000 + n * 65536)
        (modCtx s c (fun x => { x with nodes := x.nodes.dropLast ++ [(g, n + 1)] })) picks
    else match takeGranule s p (liveStacks s p) 0 false picks with
      | .got g' s' rest => .got (g' * 0x200000) (modCtx s' c (fun x => { x with nodes := x.nodes ++ [(g', 1)] })) rest
      | .none => .none
      | .wrong => .wrong
  | none => match takeGranule s p (liveStacks s p) 0 false picks with
    | .got g' s' rest => .got (g' * 0x200000) (modCtx s' c (fun x => { x with nodes := x.nodes ++ [(g', 1)] })) rest
    | .none => .none
    | .wrong => .wrong

/-- The house stores one table entry (R312). -/
def putEntry (s : State) (pa : Nat) (w : W64) : State := writeBytes s pa (leBytes 8 w.toNat)

/-- A free 64 KiB page of a granule the context owns, on one of the stacks. -/
def freePage (s : State) (c : Nat) (mstacks : List Nat) : Option Nat :=
  (s.mem.pages.find? (fun kv => kv.2 == c && inStack (kv.1 * 65536) && mstacks.contains (kv.1 * 65536 / stackBytes))).map (fun kv => kv.1)

/-- A page of fresh private memory, zeroed (R326, R393). -/
def takePage (s : State) (c p : Nat) (mstacks : List Nat) (picks : List Nat) : Alloc Nat :=
  match freePage s c mstacks with
  | some n => .got n { zeroRange s (n * 65536) 65536 with mem := { (zeroRange s (n * 65536) 65536).mem with pages := terase s.mem.pages n } } picks
  | none => match takeGranule s p mstacks c false picks with
    | .got g s' rest =>
      .got (g * 32) { s' with mem := { s'.mem with pages := (upFrom (g * 32 + 1) 31).foldl (fun t n => tput 0 t n c) s'.mem.pages } } rest
    | .none => .none
    | .wrong => .wrong

/-- A private page returns to the free pages of its granule's owner; a granule with no page in use returns to the house
(R99, R393). -/
def returnPage (s : State) (c n : Nat) : State :=
  let g := n / 32
  let s1 := { s with mem := { s.mem with pages := tput 0 s.mem.pages n c } }
  if (upFrom (g * 32) 32).all (fun k => tget 0 s1.mem.pages k == c) then
    let s2 := freeGranule s1 g
    { s2 with mem := { s2.mem with pages := (upFrom (g * 32) 32).foldl terase s2.mem.pages } }
  else s1

/-- Page of an object that stands at a physical page: one a load moved there, or one of its granules that was not moved (R99). -/
def objPageAt (o : Obj) (n : Nat) : Option Nat :=
  match o.moved.find? (fun m => m.2 == n) with
  | some m => some m.1
  | none => ((o.granules.idxOf? (n / 32)).map (fun j => 32 * j + n % 32)).filter (fun i => !o.moved.any (fun m => m.1 == i))

/-- Physical address of a page of an object (R99, R395). -/
def objPage (o : Obj) (i : Nat) : Nat :=
  match o.moved.find? (fun m => m.1 == i) with
  | some m => m.2 * 65536
  | none => o.granules.getD (i / 32) 0 * 0x200000 + i % 32 * 65536

/-- The object whose page holds an address. -/
def objectOf (s : State) (pa : Nat) : Option Nat :=
  (s.objs.find? (fun kv => kv.2.state != 0 && (objPageAt kv.2 (pa / 65536)).isSome)).map (fun kv => kv.1)

/-- A send slot loses pages; the last frees it (R315). -/
def dropSlotPages (s : State) (d n : Nat) : State :=
  let s1 := modSlot s d (fun x => { x with pages := x.pages - n })
  if (slotOf s1 d).pages = 0 then modSlot s1 d (fun _ => {}) else s1

/-- The memory behind a leaf that leaves a context's tables: object pages lower the device count, slot pages may free
the slot, private pages return to free memory (R315, R393, R398). -/
def releaseLeaf (s : State) (c : Nat) (leaf : W64) (big : Bool) : State :=
  let pa := entryPa leaf
  if inRemote pa then dropSlotPages s ((pa - 0x100000000000) / 0x100000000) 1
  else if !inStack pa then s
  else match objectOf s pa with
    | some i => modObj s i (fun o => { o with pages := o.pages - 1 })
    | none =>
      if bits (ownerEntry s pa) 11 0 ≠ c then s
      else if big then (upFrom (pa / 0x200000) 256).foldl freeGranule s
      else returnPage s c (pa / 65536)

/-- Entry words of a virtual address at levels 3, 2 and 1, where the pointers lead there. -/
def nodeAt (s : State) (root va level : Nat) : Option Nat :=
  let a3 := root + 8 * (va / 2 ^ 42)
  if level = 3 then some a3
  else
    let e3 := readWord s a3
    if !pointerOk s e3 then none
    else
      let a2 := entryPa e3 + 8 * (va / 2 ^ 29 % 8192)
      if level = 2 then some a2
      else
        let e2 := readWord s a2
        if bit e2 62 || !pointerOk s e2 then none
        else some (entryPa e2 + 8 * (va / 2 ^ 16 % 8192))

/-- Pointer word to a node (R310). -/
def pointerTo (pa : Nat) : W64 := flag true 63 ||| BitVec.ofNat 64 pa

/-- The entry of a virtual address at a level, with the nodes above it allocated as needed (R309, R312). -/
def reachNode (s : State) (c p va level : Nat) (picks : List Nat) : Alloc Nat :=
  let root := (ctxOf s c).root
  let deeper := fun (s : State) (l : Nat) (picks : List Nat) => (match nodeAt s root va l with
    | some a => (Alloc.got a s picks : Alloc Nat)
    | none => match nodeAt s root va (l + 1) with
      | none => .wrong
      | some up => match takeNode s c p picks with
        | .got n s1 rest => match nodeAt (putEntry s1 up (pointerTo n)) root va l with
          | some a => .got a (putEntry s1 up (pointerTo n)) rest
          | none => .wrong
        | .none => .none
        | .wrong => .wrong)
  match deeper s 2 picks with
  | .got a s1 rest => if level = 2 then .got a s1 rest else deeper s1 1 rest
  | .none => .none
  | .wrong => .wrong

/-- A 512 MiB leaf that covers an address. -/
def bigLeafAt (s : State) (c va : Nat) : Option W64 :=
  match walk s (ctxOf s c).root va with
  | some (w, true) => some w
  | _ => none

/-- Every leaf in a range of 64 KiB pages is removed: 512 MiB leaves whole, 64 KiB leaves one by one (R393, R394). -/
def clearLeaf (s : State) (c va : Nat) : State :=
  match walk s (ctxOf s c).root va with
  | none => s
  | some (w, big) =>
    match nodeAt s (ctxOf s c).root va (if big then 2 else 1) with
    | some a => dropTlb (releaseLeaf (putEntry s a 0) c w big) c
    | none => s

/-- A range of pages of one size, as addresses in units of 64 KiB. -/
def clearRange (s : State) (c va pages : Nat) : State := (upFrom 0 pages).foldl (fun s i => clearLeaf s c (va + 65536 * i)) s

/-- The range covers part of a 512 MiB leaf only (R393, R394). -/
def cutsBig (s : State) (c va bytes : Nat) : Bool :=
  let ends := fun (a : Nat) => a % 2 ^ 29 ≠ 0 && (bigLeafAt s c a).isSome
  ends va || (ends (va + bytes) && (bigLeafAt s c (va + bytes - 1)).isSome)

/-- Two ranges of addresses share a byte. -/
def rangesMeet (a n b m : Nat) : Bool := decide (a < b + m) && decide (b < a + n)

/-- A range of a context lies under an open receive window or an aperture entry (R323). -/
def pinnedRange (s : State) (c va n : Nat) : Bool :=
  s.net.windows.any (fun kv => kv.2.opened && kv.2.ctx == c && rangesMeet va n kv.2.va kv.2.size) ||
  s.ports.any (fun kv => kv.2.apertures.any (fun a => bit a.2.w0 63 && bits a.2.w0 51 40 == c &&
    rangesMeet va n (bits a.2.w1 38 0 * 65536) ((bits a.2.w1 63 40 + 1) * 65536)))

/-! ### MAP, UNMAP, AS_INVALIDATE -/

/-- Leaf word (R310): permissions [61:58] and a page. -/
def leafWord (perms pa : Nat) : W64 := flag true 63 ||| flag true 62 ||| fld perms 4 58 ||| BitVec.ofNat 64 pa

/-- A leaf is stored at a virtual address, replacing what was there (R393). -/
def setLeaf (s : State) (c p va : Nat) (big : Bool) (w : W64) (picks : List Nat) : Alloc Unit :=
  let s0 := if big then clearRange s c va 8192 else clearLeaf s c va
  match reachNode s0 c p va (if big then 2 else 1) picks with
  | .got a s1 rest => .got () (putEntry s1 a w) rest
  | .none => .none
  | .wrong => .wrong

/-- One page of a MAP for a target: its physical address. -/
def mapPage (s : State) (c p : Nat) (big : Bool) (target : Nat) (base : Nat) (mstacks : List Nat) (i : Nat) (picks : List Nat) : Alloc Nat :=
  if target = 0 then
    if big then
      match picks with
      | g :: rest =>
        if g % 256 = 0 && (upFrom g 256).all (pickOk s p mstacks) then
          .got (g * 0x200000) ((upFrom g 256).foldl (fun s k => giveGranule s k c false) s) rest
        else .wrong
      | [] => if anyFree s p mstacks then .wrong else .none
    else match takePage s c p mstacks picks with
      | .got n s' rest => .got (n * 65536) s' rest
      | .none => .none
      | .wrong => .wrong
  else if target = 1 then
    let o := objOf s base
    -- `i` counts 64 KiB pages of the object
    .got (objPage o i) (modObj s base (fun o => { o with pages := o.pages + 1 })) picks
  else if target = 2 then .got (base + 65536 * i) s picks
  else .got (base + 65536 * i) (modSlot s ((base - 0x100000000000) / 0x100000000) (fun x => { x with pages := x.pages + 1 })) picks

/-- The pages of a MAP, one after another. -/
def mapPages (c p : Nat) (big : Bool) (target base perms : Nat) (mstacks : List Nat) (va first : Nat) :
    Nat → Nat → State → List Nat → Alloc Unit
  | 0, _, s, picks => .got () s picks
  | n + 1, i, s, picks =>
    let addr := va + i * (if big then 2 ^ 29 else 65536)
    match mapPage s c p big target base mstacks (first + i) picks with
    | .got pa s1 rest => match setLeaf s1 c p addr big (leafWord perms pa) rest with
      | .got _ s2 rest2 => mapPages c p big target base perms mstacks va first n (i + 1) s2 rest2
      | .none => .none
      | .wrong => .wrong
    | .none => .none
    | .wrong => .wrong

/-- The object may be mapped by the context (R393, R395): LIVE, or RELEASING for a MAP taken no later than the release
started; its generation; private to its creator, shared within the creator's partition. -/
def mappable (s : State) (c : Nat) (i gen taken : Nat) : Bool :=
  let o := objOf s i
  (o.state == 1 || (o.state == 2 && decide (taken ≤ o.released))) && o.gen == gen &&
    (if o.shared then o.part == (ctxOf s c).part else o.creator == c)

/-- Stacks that a STACKS field selects: all in service for 0; none when it names one that is not (R393, R397). -/
def chooseStacks (s : State) (p mask : Nat) : Option (List Nat) :=
  let live := liveStacks s p
  if mask = 0 then some live
  else
    let ks := bitList mask 16
    if ks.all live.contains then some ks else none

/-- BAD_FORMAT cases of MAP, with the first packet word at fault (R386, R393). -/
def mapFormat (s : State) (c : Nat) (w : Nat → W64) : Option Nat :=
  let big := bit (w 1) 63
  let va := bits (w 1) 54 0
  let unit := if big then 2 ^ 29 else 65536
  let target := bits (w 2) 63 62
  let pages := bits (w 2) 31 0
  let o := objOf s (bits (w 3) 17 0)
  if va % unit ≠ 0 || va + pages * unit > 2 ^ 55 then some 1
  else if (big && target ≠ 0) || (bit (w 1) 60 && target ≥ 2) then some 1
  else if c ≠ 0 && !big && pages ≠ 0 && cutsBig s c va (pages * unit) then some 1
  else if pages = 0 || (target = 3 && pages > 65536) then some 2
  else if target = 2 && (bits (w 3) 45 0 % 65536 ≠ 0 || bits (w 3) 45 0 + pages * 65536 > 2 ^ 46) then some 3
  else if target = 1 && (bits (w 4) 39 0 % 65536 ≠ 0 || (o.state ≠ 0 && bits (w 4) 39 0 + pages * 65536 > o.granules.length * 0x200000)) then some 4
  else if target = 3 && bits (w 4) 39 0 % 65536 ≠ 0 then some 4
  else none

/-- MAP (R393). -/
def execMap (q : Nat) (picks : List Nat) (s : State) : Out :=
  .next (onCommand s q 0x30 (fun cm =>
    let w := wordAt cm.words
    let c := cmdCtx s q cm
    match mapFormat s c w with
    | some k => reject s q cm stBadFormat k
    | none =>
      if c = 0 then reject s q cm stBadObject 0
      else
        let p := (ctxOf s c).part
        let big := bit (w 1) 63
        let va := bits (w 1) 54 0
        let unit := if big then 2 ^ 29 else 65536
        let target := bits (w 2) 63 62
        let pages := bits (w 2) 31 0
        let i := bits (w 3) 17 0
        if (target = 1 && !mappable s c i (bits (w 3) 63 32) cm.taken) ||
            (target = 2 && (ctxOf s c).binding ≥ 2) || pinnedRange s c va (pages * unit) then reject s q cm stBadObject 0
        else match chooseStacks s p (if target = 0 then bits (w 2) 47 32 else 0) with
          | none => reject s q cm stBadObject 0
          | some mstacks =>
            let slot := (upFrom 0 4096).find? (fun d => !(slotOf s d).valid)
            if target = 3 && slot.isNone then reject s q cm stNoResource 0
            else
              let d := slot.getD 0
              let s1 := if target = 3 then modSlot s d (fun _ => {
                  valid := true, owner := c, gid := bits (w 3) 47 24, window := bits (w 3) 23 12
                  epoch := bits (w 4) 63 48, base := bits (w 4) 39 0, pages := 0 }) else s
              let base := if target = 1 then i
                else if target = 2 then (if (ctxOf s c).binding = 0 then 0x800000000000 else 0xC00000000000) + bits (w 3) 45 0
                else 0x100000000000 + d * 0x100000000
              let first := if target = 1 then bits (w 4) 39 0 / 65536 else 0
              match mapPages c p big target base (bits (w 1) 62 59) mstacks va first pages 0 s1 picks with
              | .got _ s2 _ => answerNext s2 q cm 0 (if target = 3 then fld d 12 0 else 0)
              | .none => reject s q cm stNoResource 0
              | .wrong => s))

/-- UNMAP (R394). -/
def execUnmap (q : Nat) (s : State) : Out :=
  .next (onCommand s q 0x31 (fun cm =>
    let w := wordAt cm.words
    let c := cmdCtx s q cm
    let unit := if bit (w 1) 63 then 2 ^ 29 else 65536
    let va := bits (w 1) 54 0
    let pages := bits (w 2) 31 0
    let bytes := pages * unit
    if va % unit ≠ 0 || va + bytes > 2 ^ 55 then reject s q cm stBadFormat 1
    else if c = 0 then reject s q cm stBadObject 0
    else if !bit (w 1) 63 && bytes ≠ 0 && cutsBig s c va bytes then reject s q cm stBadFormat 1
    else if pinnedRange s c va bytes then reject s q cm stBadObject 0
    else answerNext (clearRange s c va (bytes / 65536)) q cm 0 0))

/-- AS_INVALIDATE (R320): the context's translations leave every cache. -/
def execAsInvalidate (q : Nat) (s : State) : Out :=
  .next (onCommand s q 0x32 (fun cm =>
    let c := cmdCtx s q cm
    if c = 0 then reject s q cm stBadObject 0
    else answerNext (dropTlb s c) q cm 0 0))

/-! ### Contexts -/

/-- The port of a house path; none for the jack. -/
def pathPort (q : Nat) : Option Nat := if q < 2 then some q else none

/-- A partition that a house path may name (R481): not one bound to the other host port. -/
def pathMay (s : State) (q p : Nat) : Bool :=
  match pathPort q with
  | some h => (partOf s p).shape.binding == h || (partOf s p).shape.binding == 2
  | none => true

/-- A context that a house path may destroy or abort (R372, R402). -/
def pathOwns (s : State) (q c : Nat) : Bool :=
  match pathPort q with
  | some h =>
    let b := (ctxOf s c).binding
    b == h || b == 2 || !fohIsUp s b
  | none => true

/-- A fresh context with its root table node (R312, R371). -/
def createContext (s : State) (c p binding : Nat) (legacy debug : Bool) (seed : W64) (picks : List Nat) : Alloc Unit :=
  let s1 := setCtx s c { st := .live, part := p, binding, legacy, debug, seed }
  match takeNode s1 c p picks with
  | .got root s2 rest => .got () (modCtx s2 c (fun x => { x with root })) rest
  | .none => .none
  | .wrong => .wrong

/-- CONTEXT_CREATE (R371). A debug context is a security event (R467) and is remembered (R469). -/
def contextCreateWith (extend : State → List W64 → State) (q : Nat) (picks : List Nat) (s : State) : Out :=
  .next (onCommand s q 0x42 (fun cm =>
    let w := wordAt cm.words
    let c := bits (w 1) 11 0
    let p := bits (w 1) 18 16
    let debug := bit (w 1) 20
    if pktCtx (w 0) ≠ 0 then reject s q cm stBadFormat 0
    else if c = 0 || (ctxOf s c).st ≠ .free || (partOf s p).state ≠ 2 || (pathPort q).isSome && !pathMay s q p then
      reject s q cm stBadObject 0
    else match createContext s c p (partOf s p).shape.binding (bit (w 1) 21) debug (w 2) picks with
      | .got _ s1 _ =>
        let s2 := if debug then extend { s1 with sec := { s1.sec with debugSeen := true } } cm.words else s1
        answerNext s2 q cm 0 0
      | .none => reject s q cm stNoResource 0
      | .wrong => s))

/-- An object's release starts (R399). -/
def startRelease (s : State) (i : Nat) (waiter : Option (Nat × Nat)) : State :=
  modObj s i (fun o => { o with
    state := 2, released := s.clk.cue, waiter
    zeroAtStart := decide (o.hostCount = 0) && decide (o.pages = 0) && decide (o.maps = 0) })

/-- A granule of an object returns to free memory; of one whose pages a load has moved, what is left of it (R99). -/
def freeObjGranule (o : Obj) (s : State) (x : Nat × Nat) : State :=
  let gone := fun (i : Nat) => o.moved.any (fun m => m.1 == i)
  let here := upFrom (32 * x.1) 32
  if here.any gone then
    (here.filter (fun i => !gone i)).foldl (fun s i => returnPage s o.creator (32 * x.2 + i % 32)) s
  else freeGranule s x.2

/-- An object's memory returns to free memory and its number becomes FREE (R395, R399). -/
def freeObject (s : State) (i : Nat) : State :=
  let o := objOf s i
  let s1 := o.moved.foldl (fun s m => returnPage s o.creator m.2) s
  setObj (((upFrom 0 o.granules.length).zip o.granules).foldl (freeObjGranule o) s1) i { gen := o.gen }

/-- Every leaf of a context is removed: what its tables map, page by page. -/
def leavesOf (s : State) (c : Nat) : List (W64 × Bool) :=
  let root := (ctxOf s c).root
  let words := fun (n : Nat) => (s.mem.cells.filter (fun x => decide (n ≤ x.1) && decide (x.1 < n + 65536) && x.1 % 8 == 7)).map (fun x => x.1 - 7)
  (words root).flatMap (fun a3 =>
    let e3 := readWord s a3
    if !pointerOk s e3 then [] else
      (words (entryPa e3)).flatMap (fun a2 =>
        let e2 := readWord s a2
        if bit e2 62 then (if leafOk s true e2 then [(e2, true)] else [])
        else if !pointerOk s e2 then []
        else (words (entryPa e2)).flatMap (fun a1 =>
          let e1 := readWord s a1
          if leafOk s false e1 then [(e1, false)] else [])))

/-- The steps 1 to 6 of R372 for a context, its commands' completion apart. -/
def dismantle (s : State) (c : Nat) : State :=
  let x := ctxOf s c
  let s1 := purgeWork s c
  let s2 := (ctxQueues s1 c).foldl (fun s q => setQueue s q {}) s1
  let s3 := { s2 with net := { s2.net with windows := tmap {} s2.net.windows (fun _ w =>
    if w.opened && w.ctx = c then { w with opened := false, closeAt := none } else w) } }
  let s4 := [0, 1].foldl (fun s p => modPort s p (fun y => { y with
    apertures := tmap {} y.apertures (fun _ a => if bit a.w0 63 && bits a.w0 51 40 = c then {} else a) })) s3
  let s5 := (leavesOf s4 c).foldl (fun s l => releaseLeaf s c l.1 l.2) s4
  let mine := fun (s : State) (sh : Bool) => (s.objs.filter (fun kv => kv.2.state == 1 && kv.2.creator == c && kv.2.shared == sh)).map (fun kv => kv.1)
  let s6 := (mine s5 false).foldl freeObject s5
  let s6' := ((s6.objs.filter (fun kv => kv.2.state == 2 && kv.2.creator == c && !kv.2.shared)).map (fun kv => kv.1)).foldl freeObject s6
  let s7 := (mine s6' true).foldl (fun s i => startRelease s i none) s6'
  let owned := (s7.mem.owner.filter (fun kv => bits kv.2 14 13 == 1 && !bit kv.2 12 && bits kv.2 11 0 == c)).map (fun kv => kv.1)
  let s8 := (owned ++ x.nodes.map (fun n => n.1)).foldl freeGranule (dropTlb s7 c)
  { s8 with
    mem := { s8.mem with pages := s8.mem.pages.filter (fun kv => kv.2 != c) }
    net := { s8.net with slots := tmap {} s8.net.slots (fun _ d => if d.valid && d.owner = c then {} else d) } }

/-- Every taken and uncompleted command of a context completes with CONTEXT_LOST (R372 step 1). -/
def loseAllCommands (s : State) (c : Nat) : State :=
  (ctxQueues s c).foldl (fun s q => (queueOf s q).cmds.foldl (fun s cm => finish (stopCopy s q) q cm.idx (plainDone s.clk.cue stLost 0)) s) s

/-- A context is destroyed: its number becomes FREE and its record is cleared (R372, R501). -/
def destroyContext (s : State) (c : Nat) : State :=
  let s1 := loseAllCommands s c
  let s2 := dismantle (modCtx s1 c (fun x => { x with st := .lost })) c
  let s3 := setCtx s2 c {}
  { s3 with eng := { s3.eng with dbgArmed := if s3.eng.dbgArmed = some c then none else s3.eng.dbgArmed } }

/-- CONTEXT_DESTROY (R372): accepted, it takes effect at the next boundary (R118). -/
def execContextDestroy (q : Nat) (s : State) : Out :=
  .next (onCommand s q 0x43 (fun cm =>
    let c := bits (wordAt cm.words 1) 11 0
    if c = 0 || (ctxOf s c).st = .free || !pathOwns s q c then reject s q cm stBadObject 0
    else modCmd s q cm.idx (fun x => { x with stage := 1 })))

/-- A CONTEXT_DESTROY that was accepted in an earlier cue takes effect at this boundary (R118, R372). -/
def settleContext (s : State) (q : Nat) (cm : Cmd) : State :=
  let c := bits (wordAt cm.words 1) 11 0
  if pktOp (wordAt cm.words 0) = 0x43 && cm.stage = 1 && cm.fin.isNone then
    if (ctxOf s c).st = .free then finish s q cm.idx (plainDone s.clk.cue stBadObject 0)
    else finish (destroyContext s c) q cm.idx (plainDone s.clk.cue 0 0)
  else s

/-- Every such command. -/
def settleContexts (s : State) : State :=
  [1024, 0, 1].foldl (fun s q => (queueOf s q).cmds.foldl (fun s c => settleContext s q c) s) s

/-! ### Objects -/

/-- The lowest FREE object number (R397). -/
def freeNumber (objs : Table Obj) : Nat → Nat → Option Nat
  | 0, _ => none
  | fuel + 1, i => if i ≥ 262144 then none else if (tget {} objs i).state = 0 then some i else freeNumber objs fuel (i + 1)

/-- The granules of an object: granule g on stack s_(g mod n) (R283, R395). -/
def takeObject (p owner : Nat) (shared : Bool) (mstacks : List Nat) : Nat → Nat → State → List Nat → List Nat → Alloc (List Nat)
  | 0, _, s, picks, acc => .got acc.reverse s picks
  | n + 1, g, s, picks, acc =>
    match takeGranule s p [mstacks.getD (g % mstacks.length) 0] owner shared picks with
    | .got k s1 rest => takeObject p owner shared mstacks n (g + 1) s1 rest (k :: acc)
    | .none => .none
    | .wrong => .wrong

/-- OBJ_CREATE (R395, R397). -/
def execObjCreate (q : Nat) (picks : List Nat) (s : State) : Out :=
  .next (onCommand s q 0x40 (fun cm =>
    let w := wordAt cm.words 1
    let c := cmdCtx s q cm
    let n := bits w 23 0
    let p := (ctxOf s c).part
    if n = 0 || n > 131072 then reject s q cm stBadFormat 1
    else if c = 0 then reject s q cm stBadObject 0
    else match chooseStacks s p (bits w 47 32) with
      | none => reject s q cm stBadObject 0
      | some mstacks =>
        match freeNumber s.objs (s.objs.length + 1) 0 with
        | none => reject s q cm stNoResource 0
        | some i =>
          if mstacks.isEmpty then reject s q cm stNoResource 0
          else match takeObject p c (bit w 63) mstacks n 0 s picks [] with
            | .got gs s1 _ =>
              let gen := ((objOf s i).gen + 1) % 2 ^ 32
              let mask := maskOf mstacks
              let s2 := setObj s1 i { state := 1, shared := bit w 63, creator := c, mstacks := mask
                                      binding := (ctxOf s c).binding, granules := gs, gen, part := p }
              answerNext s2 q cm 0 (fld gen 32 32 ||| fld i 18 0)
            | .none => reject s q cm stNoResource 0
            | .wrong => s))

/-- OBJ_RELEASE (R399): the release starts, and the command counts as complete for the order of its queue. -/
def execObjRelease (q : Nat) (s : State) : Out :=
  .next (onCommand s q 0x41 (fun cm =>
    let w := wordAt cm.words 1
    let i := bits w 17 0
    let o := objOf s i
    let c := cmdCtx s q cm
    let may := isHouse q || o.creator = c || (o.shared && o.part = (ctxOf s c).part)
    if o.state ≠ 1 || o.gen ≠ bits w 63 32 || !may then reject s q cm stBadObject 0
    else
      let s1 := startRelease s i (some (q, cm.idx))
      startHead (modCmd s1 q cm.idx (fun x => { x with stage := 1, passed := true })) q))

/-- OBJECT_RELEASE_END (R399): at the first boundary at which both counts are 0, the object is freed and its OBJ_RELEASE
completes, DEFERRED unless they were 0 at its start. -/
def execObjectReleaseEnd (i : Nat) (s : State) : Out :=
  let o := objOf s i
  if o.state ≠ 2 || o.hostCount ≠ 0 || o.pages ≠ 0 || o.maps ≠ 0 then .next s
  else
    let s1 := freeObject s i
    match o.waiter with
    | some (q, idx) => .next (finish s1 q idx (plainDone s.clk.cue (if o.zeroAtStart then 0 else 3) 0))
    | none => .next s1

/-! ### Windows -/

/-- Permissions of the receiving context's pages that a window grants: READ for reads, WRITE for writes, READ and WRITE
for signals (R313, R323). -/
def windowNeed (read write atomic : Bool) : Need :=
  (if read || atomic then 8 else 0) ||| (if write || atomic then 4 else 0)

/-- Every 64 KiB page of a range is mapped with the permissions, in stack memory or scratchpad (R323). -/
def rangeMapped (s : State) (c va n : Nat) (need : Need) : Bool :=
  (pagesOf va n).all (fun x => match translate s c x.1 need with
    | some pa => cacheable pa
    | none => false)

/-- WINDOW_OPEN (R400, R424). -/
def execWindowOpen (q : Nat) (s : State) : Out :=
  .next (onCommand s q 0x70 (fun cm =>
    let w := wordAt cm.words
    let c := cmdCtx s q cm
    let va := bits (w 1) 54 0
    let n := bits (w 2) 63 52
    let x := windowOf s n
    let size := (bits (w 2) 23 0 + 1) * 65536
    let r := bit (w 2) 51
    let wr := bit (w 2) 50
    let at_ := bit (w 2) 49
    if va % 65536 ≠ 0 then reject s q cm stBadFormat 1
    else if c = 0 || x.opened || bits (w 3) 63 48 ≤ x.epoch || bits (w 3) 47 24 > bits (w 3) 23 0 ||
        !rangeMapped s c va size (windowNeed r wr at_) then reject s q cm stBadObject 0
    else
      let s1 := modWindow s n (fun _ => {
        opened := true, openFrom := s.clk.cue + 1, ctx := c, va, size, read := r, write := wr, atomic := at_
        epoch := bits (w 3) 63 48, lo := bits (w 3) 47 24, hi := bits (w 3) 23 0 })
      answerNext s1 q cm 0 0))

/-- WINDOW_CLOSE (R400, R425): the close takes effect at the next boundary, with the record. -/
def execWindowClose (q : Nat) (s : State) : Out :=
  .next (onCommand s q 0x71 (fun cm =>
    let n := bits (wordAt cm.words 1) 63 52
    let c := cmdCtx s q cm
    let x := windowOf s n
    if c = 0 || !x.opened || x.ctx ≠ c then reject s q cm stBadObject 0
    else answerNext (modWindow s n (fun y => { y with closeAt := some (s.clk.cue + 1) })) q cm 0 0))

/-! ### Queues -/

/-- Every page of a ring grants a permission and lies in no remote window (R376). -/
def ringMapped (s : State) (c va n : Nat) (need : Need) : Bool :=
  (pagesOf va n).all (fun x => match translate s c x.1 need with
    | some pa => !inRemote pa
    | none => false)

/-- QUEUE_CREATE (R376). -/
def execQueueCreate (q : Nat) (s : State) : Out :=
  .next (onCommand s q 0xA0 (fun cm =>
    let w := wordAt cm.words
    let c := bits (w 1) 63 52
    let kind := bits (w 1) 51 50
    let ord := bits (w 1) 49 46
    let n := bits (w 1) 9 0
    let x := ctxOf s c
    let cores := x.binding = 2
    let ring := bits (w 2) 54 0
    let doneVa := bits (w 3) 54 0
    let tailVa := bits (w 5) 54 0
    if kind ≥ 2 || ord > 10 then reject s q cm stBadFormat 1
    else if ring % 64 ≠ 0 then reject s q cm stBadFormat 2
    else if doneVa % 32 ≠ 0 then reject s q cm stBadFormat 3
    else if bits (w 4) 3 0 > 13 then reject s q cm stBadFormat 4
    else if (cores && tailVa % 8 ≠ 0) || (!cores && tailVa ≠ 0) then reject s q cm stBadFormat 5
    else if n < 2 || (queueOf s n).used || c = 0 || x.st ≠ .live ||
        (x.binding < 2 && (match pathPort q with | some h => x.binding ≠ h | none => false)) ||
        !ringMapped s c ring (64 * 2 ^ (ord + 6)) needRead || !ringMapped s c doneVa (32 * 2 ^ (ord + 6)) needWrite ||
        (cores && !ringMapped s c tailVa 8 needRead) then reject s q cm stBadObject 0
    else
      let s1 := setQueue s n { used := true, ctx := c, kind, binding := x.binding, ord, ring, doneVa
                               intEn := bit (w 4) 63, core := bits (w 4) 50 44, vector := bits (w 4) 42 32
                               line := bits (w 4) 3 0, tailVa }
      answerNext s1 q cm 0 0))

/-- QUEUE_DESTROY (R376): later tails are ignored and the abort of every taken command is dispatched. -/
def execQueueDestroy (q : Nat) (s : State) : Out :=
  .next (onCommand s q 0xA1 (fun cm =>
    let n := bits (wordAt cm.words 1) 9 0
    if n < 2 || !(queueOf s n).used then reject s q cm stBadObject 0
    else modCmd (modQueue s n (fun x => { x with closing := true })) q cm.idx (fun x => { x with stage := 1 })))

end Sys2Proof.Machine
end

