-- ==== Sys2Proof/Machine/Kept.lean ====
section
/-! DEFINITION. What survives a cold or device reset (R495, R460): flash, fuses, the failures of dies, and the output logs of
the model. -/

namespace Sys2Proof.Machine

/-- A partition's shape and cap survive (R482, R495). -/
def keptPart (x : Partition) : Partition :=
  { state := if x.shape.defined then 1 else 0, shape := x.shape, cap := x.cap }

/-- The output log of a tenon link survives. -/
def keptLink (x : Link) : Link := { out := x.out, ctlOut := x.ctlOut }

/-- A peer's entry survives; the peer must authenticate again (R428, R490). -/
def keptPeer (x : Peer) : Peer := { valid := x.valid, gid := x.gid, ip := x.ip, mac := x.mac }

/-- A port out of service stays so; its output logs survive. -/
def keptPort (x : Port) : Port := { lost := x.lost, out := x.out, cpls := x.cpls, aer := x.aer }

/-- A stack's repairs survive (R301, R305). -/
def keptStack (x : Stack) : Stack :=
  { soft := x.soft, hard := x.hard, retired := x.retired, deferred := x.deferred, remapped := x.remapped
    spares := x.spares, repairs := x.repairs }

/-- The dies at a reset: those that failed stay so, and positions that the map does not bind are not powered (R15). -/
def keptDies (s : State) : Table Die :=
  (upFrom 0 80).foldl (fun t n => if (posTile s n).isSome then t else tmod {} t n (fun d => { d with unpowered := true }))
    (tmap {} s.pow.dies (fun _ d => { failed := d.failed, event := if d.failed then d.event else 0 }))

/-- The state from which a cold reset runs: all but what R495 and R460 keep is at its reset value. -/
def kept (s : State) : State :=
  { State.reset with
    clk := { ({} : Clock) with aclkMax := s.clk.aclkMax, pclkMax := s.clk.pclkMax }
    pow := { ({} : Power) with
      cap := s.pow.cap, offsets := s.pow.offsets, inUse := s.pow.offsets
      dies := keptDies s }
    panel := { ({} : Panel) with
      mapActive := s.panel.mapActive, mapPending := s.panel.mapPending, hubFailed := s.panel.hubFailed
      fohFailed := s.panel.fohFailed, partFaults := s.panel.partFaults, mirrorDown := s.panel.mirrorDown
      primary := if fohIsUp s 0 then 0 else 1 }
    parts := tmap {} s.parts (fun _ x => keptPart x)
    ports := tmap {} s.ports (fun _ x => keptPort x)
    mem := { ({} : Mem) with
      owner := s.mem.owner.filter (fun kv => decide (bits kv.2 14 13 ≥ 2))
      mstacks := tmap {} s.mem.mstacks (fun _ x => keptStack x) }
    net := { ({} : Net) with
      gid := s.net.gid
      links := tmap {} s.net.links (fun _ x => keptLink x)
      eth := tmap {} s.net.eth (fun _ x => { words := x.words, out := x.out })
      peers := tmap {} s.net.peers (fun _ x => keptPeer x) }
    sec := { ({} : Sec) with
      floor := s.sec.floor, ownerSlots := s.sec.ownerSlots, journal := s.sec.journal, sigCopy := s.sec.sigCopy
      seqCopy := s.sec.seqCopy
      flash := s.sec.flash, anchors := s.sec.anchors, cert := s.sec.cert, draws := s.sec.draws }
    mgmt := { ({} : Mgmt) with plans := s.mgmt.plans }
    pending := s.pending }

/-- The module turns off: the WCLK domain, the house controller, the management jack and the flash stay (R455). -/
def powerOff (s : State) : State :=
  let k := kept s
  { k with mgmt := { k.mgmt with off := true, replies := s.mgmt.replies } }

end Sys2Proof.Machine
end

