-- ==== Sys2Proof/Machine/Power.lean ====
section
/-! DEFINITION. Power, thermal limits and clock laws (R436–R456): estimates and their attribution, the module and
partition laws, shed and low flow, thermal trips. -/

namespace Sys2Proof.Machine

/-! ### Estimates (R437–R440) -/

/-- A user offset stored for a key of CALIBRATE, as a signed number of 8 bits (R441). -/
def calOffset (t : Table Nat) (kind a b : Nat) : Int := signed 8 (tget 0 t (kind * 2 ^ 62 + a * 2 ^ 48 + b * 2 ^ 40))

/-- A number held within limits. -/
def clampInt (lo hi x : Int) : Int := max lo (min hi x)

/-- ACLK in MHz at a DVFS step (R37). -/
def aclkMHz (step : Nat) : Nat := 800 + 60 * step

/-- The clock that gives the length of the period a report covers, as 4,096 of its cycles: ACLK at the step of the last
cue, or, from the first idle tick on while the cue counter is stopped, 800 MHz for 5.12 µs (R42, R454). -/
def periodMHz (s : State) : Nat := if s.clk.stopped && s.clk.ticks ≠ 0 then 800 else aclkMHz s.clk.aclkPrev

/-- Dynamic energy of counters `i`, … in units of 1 / (256 × 16) pJ at V_ref: each count times its effective weight. -/
def dynSum (inUse : Table Nat) (die : Nat) : Nat → List Nat → Nat
  | _, [] => 0
  | i, c :: cs =>
    let k := if i = 16 then 12 else i
    let off := clampInt (-64) 64 (calOffset inUse 0 die k)
    c * Config.weight die k * (256 + off).toNat + dynSum inUse die (i + 1) cs

/-- Energy in units of 2^-10 µJ of a dynamic sum and, if `leak`, the static term, rounded to nearest (R438). -/
def energyUnits (dyn v : Nat) (leak : Option (Nat × Int)) (mhz : Nat) : Nat :=
  let d1 := 256 * 2 ^ 32 * 15625
  match leak with
  | none => (2 * (dyn * v * v) + d1) / (2 * d1)
  | some (lk, temp) =>
    match pow2Frac (temp - 680) 160 with
    | .fin _ m e =>
      let m' := if e ≥ 0 then m * 2 ^ e.toNat else m
      let k := if e ≥ 0 then 1 else 2 ^ (-e).toNat
      let num := dyn * v * v * mhz * 2 ^ 16 * k + lk * m' * v * 4096 * d1
      let den := d1 * mhz * 2 ^ 16 * k
      (2 * num + den) / (2 * den)
    | _ => 0

/-- Full-load energy of a cue (R439). -/
def fullUnits (die mhz : Nat) : Nat := (2 * (Config.fullW die * 1024 * 4096) + mhz) / (2 * mhz)

/-- Corrected readings of a die's sensors: factory-corrected readings with the user offsets, held within ± 8 °C of the
factory value (R441); units of 0.125 °C. -/
def correctedTemps (inUse : Table Nat) (die : Nat) : Nat → List Int → List Int
  | _, [] => []
  | i, t :: ts => (t + clampInt (-64) 64 (calOffset inUse 1 die i)) :: correctedTemps inUse die (i + 1) ts

/-- The hottest of some readings. -/
def hottest : List Int → Int
  | [] => 0
  | t :: ts => ts.foldl max t

/-- A die's estimate of the last cue: total, core counters 0 and 1 of a hub, command-mover share of a tile. -/
structure Estimate where
  total : Nat
  app : Nat
  prompter : Nat
  movers : Nat
deriving DecidableEq, Repr

/-- R438, R439 for one die and the cue before the present one, or the last idle tick's 5.12 µs; a die without power has 0, one
that tripped from the cue after its trip on (R454). -/
def estimateOf (s : State) (die : Nat) (counts : List Nat) (temp : Int) : Estimate :=
  let d := dieOf s die
  let mhz := periodMHz s
  let cue := s.clk.cue - 1
  let v := Config.rail die (cue + 2 ^ 64 * s.clk.ticks)
  let part := fun (cs : List Nat) => energyUnits (dynSum s.pow.inUse die 0 cs) v none mhz
  let one := fun (i : Nat) => part ((upFrom 0 17).map (fun k => if k = i then counts.getD k 0 else 0))
  if d.unpowered && d.tripped.all (fun n => decide (n + 1 < beat s)) then ⟨0, 0, 0, 0⟩
  else
    let full := match d.fullFrom with
      | some f => decide (beat s < f + 65)
      | none => false
    let total := if full then fullUnits die mhz
      else energyUnits (dynSum s.pow.inUse die 0 (counts.take 17)) v (some (Config.leak die, temp)) mhz
    let hub := 80 ≤ die && die < 88
    { total
      app := if hub then min total (one 0) else 0
      prompter := if hub then min total (one 1) else 0
      movers := if die < 80 then min total (one 16) else 0 }

/-! ### Attribution (R444) -/

/-- Energy added to a run, its queue and its context. -/
def chargeRun (s : State) (p : Nat) (sh : Share) (n : Nat) : State :=
  chargeQueue (modRun s p sh.run (fun r => { r with energy := r.energy + n })) sh.queue n

/-- A tile's energy, less its command-mover share, goes to the run whose step in force claimed the tile. -/
def chargeTile (s : State) (t n : Nat) : State :=
  match bayPart s (t / 9) with
  | none => s
  | some p => match (partOf s p).order.prev.find? (fun sh => sh.claim.tiles.testBit t) with
    | some sh => chargeRun s p sh n
    | none => s

/-- The command-mover share of a tile goes to the copy commands in proportion to their bytes; what rounding leaves goes
to the first (log 23). -/
def chargeMovers (s : State) (t n : Nat) : State :=
  let mine := s.eng.movedPrev.filter (fun x => x.1 == t)
  let all := (mine.map (fun x => x.2.2)).sum
  if all = 0 then s
  else
    let part := fun (b : Nat) => n * b / all
    let left := n - (mine.map (fun x => part x.2.2)).sum
    (mine.zip (upFrom 0 mine.length)).foldl (fun s x =>
      let e := part x.1.2.2 + (if x.2 = 0 then left else 0)
      let q := x.1.2.1
      chargeQueue (modQueue s q (fun y => { y with cmds := y.cmds.map (fun c =>
        if c.started.isSome && !c.passed && c.fin.isNone then { c with energy := c.energy + e } else c) })) q e) s

/-- Once hub and both stacks of a bay have reported, their pool is shared equally among the runs whose steps claimed the
hub's LLM bit or either stack; the remainder goes to the run of lowest queue number. -/
def chargeBay (s : State) (b : Nat) : State :=
  let ds := [hubDie b, stackDie (2 * b), stackDie (2 * b + 1)]
  if ds.any (fun d => !((dieOf s d).estCue == s.clk.cue)) then s
  else match bayPart s b with
    | none => s
    | some p =>
      let pool := (ds.map (fun d => (dieOf s d).pool)).sum
      let runs := (partOf s p).order.prev.filter (fun sh =>
        sh.claim.llm.testBit b || sh.claim.mstacks.testBit (2 * b) || sh.claim.mstacks.testBit (2 * b + 1))
      let sorted := sortBy (fun (a b : Share) => decide (a.queue ≤ b.queue)) runs
      let each := pool / sorted.length
      (sorted.zip (upFrom 0 sorted.length)).foldl (fun s x =>
        chargeRun s p x.1 (each + (if x.2 = 0 then pool % sorted.length else 0))) s

/-- WARDEN_ESTIMATE (R437–R440, R444): the warden of a die reports the cue before the present one, once. -/
def execWardenEstimate (die : Nat) (counts : List Nat) (temps : List Int) (s : State) : Out :=
  if s.clk.cue = 0 || (dieOf s die).estCue = s.clk.cue || die ≥ 106 then .next s
  else
    let ts := correctedTemps s.pow.inUse die 0 temps
    let temp := hottest ts
    let e := estimateOf s die counts temp
    let s1 := modDie s die (fun d => { d with
      temp, energy := e.total, watts := e.total * periodMHz s, estCue := s.clk.cue
      pool := if die < 80 then 0 else e.total - e.app - e.prompter })
    let s2 := match (dieBay die).bind (bayPart s1) with
      | some p => modPart s1 p (fun x => { x with energy := x.energy + (e.total - e.prompter) })
      | none => s1
    if die < 80 then
      match posTile s2 die with
      | some t => .next (chargeMovers (chargeTile s2 t (e.total - e.movers)) t e.movers)
      | none => .next s2
    else match dieBay die with
      | some b => .next (chargeBay s2 b)
      | none => .next s2

/-- FULL_LOAD_PERIOD_END (R439): 64 cues after its powering, and its report of the last of them, a die reports what its counters
show. -/
def execFullLoadPeriodEnd (die : Nat) (s : State) : Out :=
  let d := dieOf s die
  match d.fullFrom with
  | some f => if f + 64 < beat s || (f + 64 = beat s && d.estCue = s.clk.cue) then .next (modDie s die (fun d => { d with fullFrom := none })) else .next s
  | none => .next s

/-! ### The laws (R447, R451) -/

/-- Dies that are powered. -/
def poweredDies (s : State) : List Nat := (upFrom 0 106).filter (fun d => !(dieOf s d).unpowered)

/-- Shed or low flow suspends the module law (R450). -/
def shedding (s : State) : Bool := s.clk.shed || s.clk.flowLow

/-- Those of some dies that reported in cue `c`, or since the last idle tick. -/
def reportedIn (s : State) (c : Nat) (ds : List Nat) : List Nat := ds.filter (fun d => (dieOf s d).estCue == c)

/-- Power of those of some dies that reported in cue `c`, units of 2^-22 W. -/
def rateOf (s : State) (c : Nat) (ds : List Nat) : Nat := ((reportedIn s c ds).map (fun d => (dieOf s d).watts)).sum

/-- Module power is above a limit: rate / 0.96 + 35 W > w, in units of 2^-22 W / 100 × 96. -/
def moduleOver (rate w : Nat) : Bool := decide (rate * 100 + 35 * 2 ^ 22 * 96 > w * 2 ^ 22 * 96)

/-- Module power is at most 95 % of a limit. -/
def moduleUnder (rate w : Nat) : Bool := decide ((rate * 100 + 35 * 2 ^ 22 * 96) * 100 ≤ w * 2 ^ 22 * 96 * 95)

/-- Dies of a partition's bays. -/
def partDies (s : State) (p : Nat) : List Nat :=
  (partBays s p).flatMap (fun b => upFrom (10 * b) 10 ++ [hubDie b, stackDie (2 * b), stackDie (2 * b + 1)])

/-- A partition's own law: counts of cues over its cap and of cues at most 95 % of it, after a decision from the first cue that
runs at the new level (R447, R451). -/
def partLaw (s : State) (p : Nat) : State :=
  let rate := rateOf s (s.clk.cue - 1) (partDies s p)
  if s.clk.cue < (partOf s p).lawFrom + 2 then s
  else modPart s p (fun x =>
    let isOver := decide (x.cap ≠ 0) && decide (rate > x.cap * 2 ^ 22)
    let under := decide (x.cap ≠ 0) && decide (rate * 100 ≤ x.cap * 2 ^ 22 * 95)
    { x with
      overCount := if isOver then x.overCount + 1 else 0
      underCount := if under then x.underCount + 1 else 0
      atLimit := x.atLimit && isOver })

/-- Every powered die has reported in cue `c`, or since the last idle tick. -/
def allReported (s : State) (c : Nat) : Bool := (poweredDies s).all (fun d => (dieOf s d).estCue == c)

/-- The module's and the partitions' estimates, and the module's energy counter, take the reports that have come since the
last boundary or idle tick (R440, R443, R445, R454). -/
def accrue (s : State) : State :=
  if s.clk.cue = 0 || !allReported s s.clk.cue then s
  else
    let ds := reportedIn s s.clk.cue (upFrom 0 106)
    let units := (ds.map (fun d => (dieOf s d).energy)).sum
    let s1 := { s with pow := { s.pow with
      est := satTo 65535 ((rateOf s s.clk.cue ds * 100 + 35 * 2 ^ 22 * 96) / (2 ^ 22 * 96))
      energy := s.pow.energy + units * 100 / 96 + 35 * 1024 * 4096 / periodMHz s } }
    (upFrom 0 8).foldl (fun s p =>
      if partRuns s p then modPart s p (fun x => { x with est := satTo 65535 (rateOf s s.clk.cue (partDies s p) / 2 ^ 22) }) else s) s1

/-- At a boundary, the laws judge the cue two before it, once every powered die has reported it (R440, R447, R451). -/
def evaluateLaws (s : State) : State :=
  if s.clk.cue < 2 || !allReported s (s.clk.cue - 1) then s
  else
    let ds := reportedIn s (s.clk.cue - 1) (upFrom 0 106)
    let rate := rateOf s (s.clk.cue - 1) ds
    let hot := ds.any (fun d => decide ((dieOf s d).temp > 8 * s.pow.tLim))
    let isOver := moduleOver rate s.pow.cap || hot
    let under := moduleUnder rate s.pow.cap && !hot
    let s1 := if shedding s || s.clk.cue < s.clk.lawFrom + 2 then s
      else { s with clk := { s.clk with
        overCount := if isOver then s.clk.overCount + 1 else 0
        underCount := if under then s.clk.underCount + 1 else 0 } }
    (upFrom 0 8).foldl (fun s p => if partRuns s p then partLaw s p else s) s1

/-- A decision on the ACLK step: the second boundary after it (R60). -/
def decideAclk (s : State) (step : Nat) : State :=
  { s with clk := { s.clk with aclkTarget := step, aclkDue := some (s.clk.cue + 2), overCount := 0, underCount := 0, lawFrom := s.clk.cue + 2 } }

/-- A decision on the PCLK step: the next boundary (R447). -/
def decidePclk (s : State) (step : Nat) : State :=
  { s with clk := { s.clk with pclkTarget := step, pclkDue := some (s.clk.cue + 1), overCount := 0, underCount := 0, lawFrom := s.clk.cue + 1 } }

def clearLaw (s : State) : State := { s with clk := { s.clk with overCount := 0, underCount := 0 } }

/-- STEP_DOWN_DECISION (R447): after 8 consecutive over cues, ACLK goes down, or PCLK when ACLK is at 0. -/
def execStepDownDecision (s : State) : Out :=
  if s.clk.overCount < 8 || shedding s || s.clk.stopped then .next s
  else if s.clk.aclk > 0 then .next (decideAclk s (s.clk.aclk - 1))
  else if s.clk.pclk > 0 then .next (decidePclk s (s.clk.pclk - 1))
  else .next (clearLaw s)

/-- STEP_UP_DECISION (R447): after 1,024 consecutive under cues, PCLK goes up to its ceiling first, then ACLK. -/
def execStepUpDecision (s : State) : Out :=
  if s.clk.underCount < 1024 || shedding s || s.clk.stopped then .next s
  else if s.clk.pclk < s.clk.pclkMax then .next (decidePclk s (s.clk.pclk + 1))
  else if s.clk.aclk < s.clk.aclkMax then .next (decideAclk s (s.clk.aclk + 1))
  else .next (clearLaw s)

/-- DVFS_STEP_CHANGE (R59, R60): the decided ACLK step comes into force at its boundary. -/
def execDvfsStepChange (s : State) : Out :=
  match s.clk.aclkDue with
  | some b => if b ≤ s.clk.cue then .next { s with clk := { s.clk with aclk := s.clk.aclkTarget, aclkDue := none } } else .next s
  | none => .next s

/-- PCLK_STEP_CHANGE (R446): the decided PCLK step comes into force at its boundary. -/
def execPclkStepChange (s : State) : Out :=
  match s.clk.pclkDue with
  | some b => if b ≤ s.clk.cue then .next { s with clk := { s.clk with pclk := s.clk.pclkTarget, pclkDue := none } } else .next s
  | none => .next s

/-- DILUTION_RISE (R451): after 8 consecutive cues over its cap, a partition's level rises by 1, in force from the next
boundary; at level 7, AT_LIMIT is set. -/
def execDilutionRise (p : Nat) (s : State) : Out :=
  let x := partOf s p
  if x.cap = 0 || x.overCount < 8 || !partRuns s p then .next s
  else if x.level < 7 then .next (setPart s p { x with overCount := 0, underCount := 0, levelDue := some (x.level + 1), lawFrom := s.clk.cue + 1 })
  else .next (setPart s p { x with overCount := 0, underCount := 0, atLimit := true })

/-- DILUTION_FALL (R451): after 1,024 consecutive cues at most 95 % of its cap, the level falls by 1. -/
def execDilutionFall (p : Nat) (s : State) : Out :=
  let x := partOf s p
  if x.cap = 0 || x.underCount < 1024 || !partRuns s p then .next s
  else .next (setPart s p { x with overCount := 0, underCount := 0, levelDue := some (x.level - 1), lawFrom := s.clk.cue + 1, atLimit := false })

/-- IDLE_CUE_PENDING (R451): under level L an idle cue becomes pending after every 8 − L advance cues. -/
def execIdleCuePending (p : Nat) (s : State) : Out :=
  let x := partOf s p
  if x.cap = 0 || x.level = 0 || x.idlePending || x.advances < 8 - x.level || !partCues s p then .next s
  else .next (setPart s p { x with idlePending := true })

/-! ### Shed and low flow (R450) -/

/-- Pending changes are cancelled; ACLK step 0 and PCLK step 0 are decided and take effect at the second boundary. -/
def shedSteps (s : State) : State :=
  { s with clk := { s.clk with
    aclkTarget := 0, aclkDue := some (s.clk.cue + 2), pclkTarget := 0, pclkDue := some (s.clk.cue + 2)
    overCount := 0, underCount := 0, lawFrom := s.clk.cue + 2 } }

/-- An assertion while the other signal holds the steps at 0 decides nothing anew: the boundary of the first stands. -/
def holdSteps (s : State) : State := if shedding s then s else shedSteps s

/-- SHED_ASSERT (R450). -/
def execShedAssert (s : State) : Out :=
  if s.clk.shed then .next s
  else
    let s1 := holdSteps s
    .next { s1 with clk := { s1.clk with shed := true } }

/-- SHED_RELEASE (R450): the steps stay where they are until the law raises them. -/
def execShedRelease (s : State) : Out :=
  if !s.clk.shed then .next s
  else .next { s with clk := { s.clk with shed := false, overCount := 0, underCount := 0, lawFrom := s.clk.cue } }

/-- FLOW_LOW (R436, R450): coolant flow below 6 L/min acts as the shed input does. -/
def execFlowLow (tenths : Nat) (s : State) : Out :=
  if s.clk.flowLow || tenths ≥ 60 then .next s
  else
    let s1 := holdSteps s
    .next { s1 with clk := { s1.clk with flowLow := true }, pow := { s1.pow with flow := tenths } }

/-- FLOW_RESTORED (R436): the flow exceeds 8 L/min. -/
def execFlowRestored (tenths : Nat) (s : State) : Out :=
  if !s.clk.flowLow || tenths ≤ 80 then .next s
  else .next { s with clk := { s.clk with flowLow := false, overCount := 0, underCount := 0, lawFrom := s.clk.cue }
                      pow := { s.pow with flow := tenths } }

/-! ### Thermal trips (R452) -/

/-- Power is removed from a die. -/
def unpower (s : State) (die : Nat) : State := modDie s die (fun d => { d with unpowered := true, fullFrom := none })

/-- A trip removes a die's power; its estimate is 0 from the next cue on (R452, R454). -/
def tripDie (s : State) (die : Nat) : State := modDie (unpower s die) die (fun d => { d with tripped := some (beat s) })

/-- Power is removed from a tile's position, which goes out of service (R452). -/
def tripTile (s : State) (pos : Nat) : State := tileGoesOut (tripDie s pos) pos 0xFF

/-- Active positions of a bay. -/
def activePositions (s : State) (b : Nat) : List Nat := (upFrom (10 * b) 10).filter (fun n => (posTile s n).isSome && !posIsOut s n)

/-- THERMAL_TRIP (R452): a factory-corrected reading of 115 °C or more removes power. -/
def execThermalTrip (die celsius : Nat) (s : State) : Out :=
  if celsius < 115 || (dieOf s die).unpowered || die ≥ 106 then .next s
  else
    let s1 := bumpCounter { s with pow := { s.pow with trips := satTo 65535 (s.pow.trips + 1) } } 6 1
    let s2 := addEvent s1 0x08 die [celsius]
    if die < 80 then .next (tripTile s2 die)
    else if die < 88 then
      let s3 := (activePositions s2 (die - 80)).foldl tripTile s2
      let s4 := (upFrom (16 * (die - 80)) 16).foldl (fun s c => modCore s c (fun x => { x with halted := true })) s3
      .next (modDie s4 die (fun d => { d with recheck := true }))
    else if die < 90 then .next (modDie (tripDie s2 die) die (fun d => { d with failed := true }))
    else
      let s3 := (activePositions s2 ((die - 90) / 2)).foldl tripTile s2
      .next (modDie s3 die (fun d => { d with recheck := true }))

/-- A stack fails in a case of R304: its contexts, with losses of cue `cue`, house granules and cached lines are lost. -/
def stackFails (s : State) (k case cue : Nat) : State :=
  let x := stackOf s k
  if x.state = 2 then s
  else
    let base := (BitVec.ofNat 64 (k * stackBytes) : W64)
    let granules := (s.mem.owner.map (fun kv => kv.1)).filter (fun g => inStack (g * 0x200000) && g * 0x200000 / stackBytes == k)
    let s1 := granules.foldl (fun s g => loseOwnerIn s (g * 0x200000) stMemory base cue) s
    let here := fun (line : Nat) => inStack (128 * line) && 128 * line / stackBytes == k
    let drop := fun (_ : Nat) (ls : List Line) => ls.filter (fun l => !here l.line)
    let s1 := loseWaiters s1 here base
    let s2 := { s1 with coh := { s1.coh with
      l2 := tmap [] s1.coh.l2 drop, wb := tmap [] s1.coh.wb drop
      l1d := tmap [] s1.coh.l1d (fun _ ls => ls.filter (fun y => !here y.1))
      l1i := tmap [] s1.coh.l1i (fun _ ls => ls.filter (fun y => !here y))
      dir := s1.coh.dir.filter (fun kv => !here kv.1)
      queue := s1.coh.queue.filter (fun r => !here r.1)
      llm := tmap [] s1.coh.llm (fun _ ls => ls.filter (fun l => !here l.1))
      stale := s1.coh.stale.filter (fun kv => !here kv.1) } }
    addEvent (modStack s2 k (fun x => { x with state := 2, lost := none, lock := [] })) 0x0C (stackDie k) [case]

/-- TRIP_RECHECK (R452): 1 ms after its trip, a hub or stack that still reads 115 °C or more fails. -/
def execTripRecheck (die celsius : Nat) (s : State) : Out :=
  if !(dieOf s die).recheck then .next s
  else
    let s1 := modDie s die (fun d => { d with recheck := false })
    if celsius < 115 then .next s1
    else if die < 88 then .next (hubFails (unpower s1 die) (die - 80))
    else .next (stackFails (unpower s1 die) (die - 90) 4 s.clk.cue)

end Sys2Proof.Machine
end

