-- ==== Sys2Proof/Machine/Compose.lean ====
section
/-! DEFINITION. The composer: positions of the running order fixed ahead and their entries written (R106–R112, R125). -/

namespace Sys2Proof.Machine

/-! ### The composer (R106–R111, R125) -/

/-- Two claims share a component (R106, R109). -/
def claimsMeet (a b : Claim) : Bool :=
  (a.tiles &&& b.tiles) != 0 || (a.mstacks &&& b.mstacks) != 0 || (a.ridges &&& b.ridges) != 0 || (a.llm &&& b.llm) != 0 ||
    (a.dark &&& b.dark) != 0

def emptyClaim : Claim := { tiles := 0, mstacks := 0, ridges := 0, llm := 0, dark := 0 }

/-- Claim of a placed step. -/
def placedClaim (s : State) (p : Nat) (pl : Placed) : Claim :=
  ((placedStep s p pl).map (fun st => st.claim)).getD emptyClaim

/-- Steps placed at a position so far. -/
def placedAt (o : Order) (pos : Nat) : List Placed := ((o.fixed.find? (fun x => x.pos == pos)).map (fun x => x.steps)).getD []

/-- Number of steps of the chain that begins at step `k` (R107). -/
def chainLen (steps : List PlanStep) (k : Nat) : Nat := 1 + ((steps.drop (k + 1)).takeWhile (fun st => st.chain)).length

/-- FOH number of a queue for the order of R108. -/
def runDesk (s : State) (r : Run) : Nat := deskOf s r.queue

/-- The order in which the composer considers the runs (R108). -/
def runBefore (s : State) (a b : Run) : Bool :=
  let wa := decide (a.waited ≥ 4096)
  let wb := decide (b.waited ≥ 4096)
  let tie := fun (_ : Unit) =>
    if a.sampled ≠ b.sampled then decide (a.sampled < b.sampled)
    else if runDesk s a ≠ runDesk s b then decide (runDesk s a < runDesk s b)
    else if a.queue ≠ b.queue then decide (a.queue < b.queue)
    else decide (a.idx ≤ b.idx)
  if wa && wb then tie ()
  else if wa || wb then wa
  else if a.prio ≠ b.prio then decide (a.prio > b.prio)
  else tie ()

/-- An earlier run of the same script is still on the list (R112). -/
def scriptTaken (s : State) (o : Order) (r : Run) : Bool :=
  o.runs.any (fun x => x.id != r.id && x.slot == r.slot && (x.begun || x.next > 0 || runBefore s x r) && !(r.begun || decide (r.next > 0)))

/-- Debug contexts share no position with other contexts (R125). -/
def debugApart (s : State) (p : Nat) (o : Order) (r : Run) (pos : Nat) : Bool :=
  (placedAt o pos).all (fun pl => match runOf s p pl.1 with
    | some x => x.ctx == r.ctx || (!(ctxOf s x.ctx).debug && !(ctxOf s r.ctx).debug)
    | none => true)

/-- A step fits at a position: its claim meets none placed there, and it may stand in its dark phase (R109, R125). -/
def fits (s : State) (p : Nat) (o : Order) (r : Run) (k pos : Nat) : Bool :=
  match stepOf s p r k with
  | none => false
  | some st => !st.claim.dark.testBit (pos % 8) && debugApart s p o r pos &&
      (placedAt o pos).all (fun pl => !claimsMeet st.claim (placedClaim s p pl))

/-- A step added to a position of the order. -/
def placeStep (o : Order) (pos : Nat) (pl : Placed) : Order :=
  if o.fixed.any (fun x => x.pos == pos) then
    { o with fixed := o.fixed.map (fun x => if x.pos = pos then { x with steps := x.steps ++ [pl] } else x) }
  else { o with fixed := insertBy (fun a b => decide (a.pos ≤ b.pos)) { pos, steps := [pl] } o.fixed }

/-- One run of the walk at position `pos`: its next step, or its whole next chain, is placed if it fits (R109). -/
def composeRun (s : State) (p pos : Nat) (o : Order) (r : Run) : Order :=
  let mark := fun (o : Order) (f : Run → Run) => { o with runs := o.runs.map (fun x => if x.id = r.id then f x else x) }
  let here := (placedAt o pos).any (fun pl => pl.1 == r.id)
  let steps := (scriptOf s p r.slot).steps
  if here then mark o (fun x => { x with waited := 0 })
  else if r.next ≥ steps.length then o
  else
    let n := chainLen steps r.next
    if !scriptTaken s o r && (upFrom 0 n).all (fun i => fits s p o r (r.next + i) (pos + i)) then
      mark ((upFrom 0 n).foldl (fun o i => placeStep o (pos + i) (r.id, r.next + i)) o)
        (fun x => { x with next := r.next + n, waited := 0 })
    else mark o (fun x => { x with waited := x.waited + 1 })

/-- The composer fixes its next position by one walk of the run list (R108, R109). -/
def fixNext (s : State) (p : Nat) : State :=
  let o := (partOf s p).order
  let pos := o.nextPos
  let o0 := if o.fixed.any (fun x => x.pos == pos) then o
    else { o with fixed := insertBy (fun a b => decide (a.pos ≤ b.pos)) { pos, steps := [] } o.fixed }
  let walk := (sortBy (runBefore s) (o0.runs.filter (fun r => !r.left))).map (fun r => r.id)
  let o1 := walk.foldl (fun o id => match o.runs.find? (fun r => r.id == id) with
    | some r => composeRun s p pos o r
    | none => o) o0
  modOrder s p (fun _ => { o1 with nextPos := pos + 1 })

/-- Positions are fixed up to a bound. -/
def fixTo (p bound : Nat) : Nat → State → State
  | 0, s => s
  | n + 1, s => if (partOf s p).order.nextPos < bound then fixTo p bound n (fixNext s p) else s

/-- The entries of every fixed position that has none yet are written, and those of an entry in underrun (R110). -/
def writeFixed (s : State) (p : Nat) : State :=
  let o := (partOf s p).order
  let s1 := if o.live && o.under && !o.mended then
      modOrder (writeEntries s p o.pos o.inForce) p (fun o => { o with mended := true })
    else s
  let due := o.fixed.filter (fun x => decide (x.pos < o.nextPos) && !x.written)
  modOrder (due.foldl (fun s x => writeEntries s p x.pos x.steps) s1) p (fun o => { o with
    fixed := o.fixed.map (fun x => if x.pos < o.nextPos then { x with written := true } else x) })

/-- COMPOSE_POSITION (R108–R110): the composer fixes its next position, at most 15 ahead of the one in force (log 110), and the
entries of the positions fixed are written. -/
def execComposePosition (p : Nat) (s : State) : Out :=
  let o := (partOf s p).order
  if !partRuns s p || (partOf s p).resetBegun then .next s
  else .next (writeFixed (if o.nextPos < o.entered + 15 then fixNext s p else s) p)

end Sys2Proof.Machine
end

