-- ==== Sys2Proof/Machine/Runs.lean ====
section
/-! DEFINITION. PLAY_RUN and PLAY_UNLOAD, and the turns of the loads and unloads of a partition (R95, R111, R112, R116, R117). -/

namespace Sys2Proof.Machine

/-! ### The loads of a partition, one at a time (R95) -/

/-- The order in which a partition takes loads and unloads: cue of sampling, then as in R33 (R95). -/
def loadBefore (s : State) (a b : Nat × Nat) : Bool :=
  let key := fun (x : Nat × Nat) => (x.1, (cmdOf s x.1 x.2).getD {})
  sampledBefore s (key a) (key b)

/-- A load or unload joins those of its partition, behind one that is being carried out. -/
def enterLoad (s : State) (p : Nat) (x : Nat × Nat) : State :=
  modOrder s p (fun o => { o with loads := match o.loads with
    | [] => [x]
    | h :: t => if (cmdOf s h.1 h.2).any (fun c => c.asked) then h :: insertBy (loadBefore s) x t
      else insertBy (loadBefore s) x (h :: t) })

/-- A load or unload leaves the list. -/
def leaveLoads (s : State) (p : Nat) (x : Nat × Nat) : State :=
  modOrder s p (fun o => { o with loads := o.loads.filter (fun y => y != x) })

/-! ### PLAY_RUN and PLAY_UNLOAD -/

/-- A PLAY_UNLOAD of the handle by its own context was sampled at an earlier boundary than `cue` (R117). -/
def unloadNamed (s : State) (c handle cue : Nat) (self : Nat × Nat) : Bool :=
  (ctxQueues s c).any (fun q => (queueOf s q).cmds.any (fun cm =>
    pktOp (wordAt cm.words 0) == 0x22 && bits (wordAt cm.words 1) 15 0 == handle && decide (cm.taken < cue) && (q, cm.idx) != self))

/-- The resident script that a handle names for a context: its slot (R116, R117). -/
def namedScript (s : State) (c handle cue : Nat) (self : Nat × Nat) : Option Nat :=
  let slot := handle % 256
  let sc := scriptOf s (ctxOf s c).part slot
  if sc.used && sc.gen == handle / 256 % 256 && sc.ctx == c && !unloadNamed s c handle cue self then some slot else none

/-- A started PLAY_RUN joins the run list with a run of its script (R112, R116). -/
def joinRun (s : State) (q : Nat) : State :=
  onCommand s q 0x21 (fun cm =>
    let c := (queueOf s q).ctx
    let p := (ctxOf s c).part
    match namedScript s c (bits (wordAt cm.words 1) 15 0) cm.taken (q, cm.idx) with
    | none => reject s q cm stBadObject 0
    | some slot =>
      let s1 := modCmd s q cm.idx (fun x => { x with stage := 1 })
      modOrder s1 p (fun o => { o with
        nextRun := o.nextRun + 1
        runs := o.runs ++ [{ id := o.nextRun, queue := q, idx := cm.idx, ctx := c, slot, prio := (scriptOf s p slot).prio, sampled := cm.taken }] }))

/-- PLAY_RUN (R112, R116). -/
def execPlayRun (q : Nat) (s : State) : Out := .next (joinRun s q)

/-- At a boundary, the PLAY_RUN commands that started in an earlier cue have joined: their decode takes one cue (R111). -/
def joinAll (s : State) : State :=
  (s.queues.filter (fun kv => (headCmd kv.2).any (fun cm => cm.started.any (fun b => decide (b < s.clk.cue)))) ).foldl
    (fun s kv => joinRun s kv.1) s

/-- The PLAY_UNLOAD whose turn it is in a partition takes effect once no run of its script is left (log 115); one whose script an
unload before it has freed names an empty slot. The record follows at boundary `due` (R95, R116, R117). -/
def settleUnload (s : State) (p due : Nat) : State :=
  match (partOf s p).order.loads with
  | [] => s
  | x :: _ =>
    match cmdOf s x.1 x.2 with
    | none => s
    | some cm =>
      if pktOp (wordAt cm.words 0) ≠ 0x22 || cm.fin.isSome then s
      else
        let slot := bits (wordAt cm.words 1) 7 0
        if (scriptOf s p slot).unloading.contains x then
          if (partOf s p).order.runs.any (fun r => r.slot == slot) then s
          else finish (leaveLoads (unloadScript s p slot) p x) x.1 x.2 (plainDone due 0 0)
        else finish (leaveLoads s p x) x.1 x.2 (plainDone due stBadObject 0)

/-- The load or unload of a queue whose turn in its partition has come (R95). -/
def loadTurn (s : State) (q op : Nat) : Option Cmd :=
  match headCmd (queueOf s q) with
  | some cm =>
    if pktOp (wordAt cm.words 0) = op && cm.stage = 1 && cm.fin.isNone && (ctxOf s (queueOf s q).ctx).fault.isNone &&
      (partOf s (ctxOf s (queueOf s q).ctx).part).order.loads.head? = some (q, cm.idx) then some cm else none
  | none => none

/-- PLAY_UNLOAD (R95, R116, R117): the handle is unloaded at its turn, once no run of the script is left. -/
def execPlayUnload (q : Nat) (s : State) : Out :=
  let s1 := onCommand s q 0x22 (fun cm =>
    let c := (queueOf s q).ctx
    let p := (ctxOf s c).part
    match namedScript s c (bits (wordAt cm.words 1) 15 0) cm.taken (q, cm.idx) with
    | none => reject s q cm stBadObject 0
    | some slot =>
      let s1 := modScript (modCmd s q cm.idx (fun x => { x with stage := 1 })) p slot (fun sc => { sc with unloading := sc.unloading ++ [(q, cm.idx)] })
      enterLoad s1 p (q, cm.idx))
  match loadTurn s1 q 0x22 with
  | some _ => .next (settleUnload s1 (ctxOf s1 (queueOf s1 q).ctx).part (s1.clk.cue + 1))
  | none => .next s1

end Sys2Proof.Machine
end

