-- ==== Sys2Proof/Machine/Cues.lean ====
section
/-! DEFINITION. Cues, verdicts and the running order: CUE_BOUNDARY, CALL_POINT, HOUSE_CYCLE_BOUNDARY, IDLE_TICK,
STALL_WATCHDOG, PARTITION_IDLE, COMPOSE_POSITION, RUN_COMPLETE, CONTEXT_LOSS (R40–R61, R106–R121, R373). -/

namespace Sys2Proof.Machine

/-! ### Verdicts applied at a boundary (R44, R56, R61) -/

/-- The units that a tile's entry starts at a boundary take their descriptors; a unit still at work keeps them waiting
(R52, R168). -/
def startTile (s : State) (t pos : Nat) : State :=
  match entryAt s t pos with
  | none => s
  | some ws =>
    if bits (wordAt ws 0) 62 60 ≠ 0 then s
    else
      let allot := tget [] s.eng.allot (progKey t pos)
      (bitList (bits (wordAt ws 1) 27 0) 28).foldl (fun s u =>
        let a := (allot.find? (fun a => a.1 == u)).getD (u, 0, pos, 0)
        let st : Start := { desc := entryDesc ws u, run := a.2.1, last := a.2.2.1, node := a.2.2.2 }
        modUnit s t u (fun x => { x with waiting := x.waiting ++ [st] })) s

/-- Tiles of a partition that serve. -/
def servingTiles (s : State) (p : Nat) : List Nat := (partTiles s p).filter (tileServes s)

/-- The entry in force leaves force: VALID is cleared, and a run whose last step was in it has left (R52, R113). -/
def leaveForce (s : State) (p : Nat) : State :=
  let o := (partOf s p).order
  if !o.live then s
  else
    let clearOne := fun (s : State) (t : Nat) =>
      match tget [] s.eng.prog (progKey t o.pos) with
      | [] => s
      | w0 :: ws => { s with eng := { s.eng with prog := tput [] s.eng.prog (progKey t o.pos) (setBits w0 63 63 0 :: ws) } }
    let s1 := (partTiles s p).foldl clearOne s
    modOrder s1 p (fun o => { o with
      live := false
      inForce := []
      holdCount := 0
      runs := o.runs.map (fun r =>
        if o.inForce.any (fun pl => pl.1 == r.id && pl.2 + 1 == (tget {} (partOf s p).scripts r.slot).steps.length)
        then { r with left := true } else r) })

/-- The steps in force begin, and their entries start (R44, R58). -/
def beginEntry (s : State) (p : Nat) : State :=
  let o := (partOf s p).order
  let s1 := modOrder s p (fun o => { o with
    under := false, mended := false
    runs := o.runs.map (fun r => if o.inForce.any (fun pl => pl.1 == r.id) then { r with begun := true } else r) })
  (servingTiles s1 p).foldl (fun s t => startTile s t o.pos) s1

/-- The next position comes into force (R55). At least 8 positions behind it have been fixed (R110). An entry that has not been
written is an underrun: it starts nothing (R54). -/
def enterNext (s : State) (p : Nat) : State :=
  let pos := (partOf s p).order.entered
  let s0 := fixTo p (pos + 9) 9 s
  let here := (partOf s0 p).order.fixed.find? (fun x => x.pos == pos)
  let written := here.any (fun x => x.written)
  let s1 := modPart s0 p (fun x => { x with
    advances := x.advances + 1
    order := { x.order with
      pos, entered := pos + 1, live := true, inForce := (here.map (fun x => x.steps)).getD [], kind := .advance, holdCount := 0
      under := !written, mended := false
      fixed := x.order.fixed.filter (fun y => y.pos != pos) } })
  if written then beginEntry s1 p else s1

/-- A hold: the entry stays in force, every run that has begun and not left counts it, and the hold log takes it (R56,
R58). An entry that had not been written in time starts once it has been (R54, log 21). -/
def holdOn (s : State) (p : Nat) : State :=
  let o := (partOf s p).order
  let claim := fun (pl : Placed) =>
    match o.runs.find? (fun r => r.id == pl.1) with
    | some r => (((tget {} (partOf s p).scripts r.slot).steps[pl.2]?).map (fun st => st.claim.tiles)).getD 0
    | none => 0
  let e : HoldEntry := { cue := s.clk.cue, pos := o.pos, tiles := o.late, steps := o.inForce.map (fun pl => (pl.1, pl.2, claim pl)) }
  let s1 := modOrder s p (fun o => { o with
    kind := .hold, holdCount := o.holdCount + 1, log := o.log ++ [e]
    runs := o.runs.map (fun r => if r.begun && !r.left then { r with holds := r.holds + 1 } else r) })
  if o.under && o.mended then beginEntry s1 p else s1

/-- An idle cue: the entry leaves force, no entry starts, and the counts of the dilution law begin again (R61, R451). -/
def idleCue (s : State) (p : Nat) : State :=
  let s1 := leaveForce s p
  modPart s1 p (fun x => { x with
    idlePending := false, advances := 0, order := { x.order with kind := .idle } })

/-- PARTITION_RESET address field (R502, R506). -/
def resetAddr (p cause : Nat) : W64 := fld p 3 0 ||| fld cause 4 8

/-- A partition reset begins at a boundary (R55 row 1): its contexts are lost with PARTITION_RESET in the cue before, and the
health record takes the event (R492, R503, R506). -/
def beginReset (s : State) (p : Nat) : State :=
  let x := partOf s p
  let cause := x.resetCause.getD 0
  let bay := (partBays s p).head?.getD ((x.newShape.getD {}).first)
  let s1 := (ctxsWhere s (fun _ y => y.part == p)).foldl (fun s c => houseLoss s c stReset (resetAddr p cause)) s
  let s2 := addEvent s1 0x0B (hubDie bay) [p, cause]
  modPart s2 p (fun x => { x with state := 1, resetBegun := true, idlePending := false })

/-- A command of the partition's contexts has started and not completed. -/
def partBusy (s : State) (p : Nat) : Bool :=
  s.queues.any (fun kv => decide (2 ≤ kv.1) && kv.2.used && kv.2.ctx != 0 && (ctxOf s kv.2.ctx).part == p &&
    kv.2.cmds.any (fun c => c.started.isSome))

/-- R455: consecutive cues of empty entries with no command of the partition's contexts started. -/
def countEmpty (s : State) (p : Nat) : State :=
  modPart s p (fun x => { x with
    emptyCues := if x.order.inForce.isEmpty && !partBusy s p then x.emptyCues + 1 else 0 })

/-- The shares of the steps in force (R444). -/
def sharesOf (x : Partition) (steps : List Placed) : List Share :=
  steps.filterMap (fun pl => (x.order.runs.find? (fun r => r.id == pl.1)).bind (fun r =>
    ((tget {} x.scripts r.slot).steps[pl.2]?).map (fun st => { run := r.id, queue := r.queue, claim := st.claim })))

/-- The steps of the entry that left force whose chain runs on through an idle cue (R61, R444). -/
def chainShares (x : Partition) (steps : List Placed) : List Share :=
  sharesOf x (steps.filter (fun pl => x.order.runs.any (fun r => r.id == pl.1 &&
    (((tget {} x.scripts r.slot).steps[pl.2 + 1]?).map (fun st => st.chain)).getD false)))

/-- A partition's verdict is applied at a boundary (R44, R55). In the first cue after an idle partition wakes no verdict has been
formed: the entry in force stays, with the kind of its last cue, and nothing starts, advances or counts a hold (DESIGN CHOICE,
log 111; R455 says only that the first cue begins). -/
def applyVerdict (s : State) (p : Nat) : State :=
  let x := partOf s p
  let s1 := match x.order.verdict with
    | some .reset => beginReset s p
    | some .hold => holdOn s p
    | some .idle => idleCue s p
    | some .advance => enterNext (leaveForce s p) p
    | none => if x.order.entered = 0 then enterNext s p else s
  modPart (countEmpty s1 p) p (fun y => { y with order := { y.order with
    verdict := none
    prev := x.order.now
    now := if x.order.verdict = some .idle then chainShares x x.order.inForce else sharesOf y y.order.inForce } })

/-- A reset requested of a partition that takes no cues begins at the next boundary (R55, R503). -/
def applyIdleReset (s : State) (p : Nat) : State :=
  if (dueReset s p).isSome && !(partOf s p).resetBegun && !partCues s p then
    beginReset (modPart s p (fun x => { x with resetCause := dueReset s p })) p
  else s

/-! ### The boundary -/

/-- The lowest-numbered hub in service (R39). -/
def lowestHub (s : State) : Nat := ((upFrom 0 8).find? (hubIsUp s)).getD s.clk.cueMaster

/-- The hold counts of the host ports advance (R367 items 4 and 6). -/
def countHeld (s : State) : State :=
  [0, 1].foldl (fun s p => modPort s p (fun x =>
    { x with sentVecs := [], cuesHeld := if x.holding then satTo 65536 (x.cuesHeld + 1) else x.cuesHeld })) s

/-- Hub at the other end of an FOH brace (R21). -/
def fohHub (l : Nat) : Nat := [0, 7, 3, 4].getD (l - 80) 0

/-- An FOH brace of the FOH is up and leads to a hub in service (R21, R26). -/
def fohReached (s : State) (f : Nat) : Bool :=
  [80 + 2 * f, 81 + 2 * f].any (fun l => !(trussOf s l).failed && hubIsUp s (fohHub l))

/-- The heartbeat of each FOH over the mirror link and the truss; a die that has stopped or lost its power sends none (R34). -/
def heartbeat (s : State) (truss : Bool) : State :=
  [0, 1].foldl (fun s f =>
    let d := dieOf s (fohDie f)
    let carried := !d.failed && !d.unpowered && (!s.panel.mirrorDown || (truss && fohReached s f))
    { s with panel := { s.panel with missed := tput 0 s.panel.missed f (if carried then 0 else tget 0 s.panel.missed f + 1) } }) s

/-- User temperature offsets are in use from the next boundary (R441). -/
def applyTempOffsets (s : State) : State :=
  useOffsets s (fun k => k / 2 ^ 62 % 4 == 1)

/-- Something takes effect at a boundary that has not come: a loss, a failure, a reset, a step change (R330, R304, R485). -/
def boundaryDue (s : State) : Bool :=
  s.ctxs.any (fun kv => kv.2.fault.isSome) || !s.mem.badDue.isEmpty || s.mgmt.resetDue.isSome ||
    s.mem.mstacks.any (fun kv => kv.2.lost.isSome) || s.clk.aclkDue.isSome || s.clk.pclkDue.isSome

/-- Every partition is in IDLE or deeper, or undefined (R40). -/
def allIdle (s : State) : Bool := (upFrom 0 8).all (fun p => !partRuns s p || (partOf s p).power ≥ 1)

/-- The counter may stop once every partition is IDLE or deeper and no command of any queue is in progress (R40, log 4). -/
def mayStop (s : State) : Bool :=
  allIdle s && !boundaryDue s && s.queues.all (fun kv => kv.2.cmds.isEmpty) && (upFrom 0 8).all (fun p => !(partOf s p).resetCause.isSome)

/-- Windows whose close is due are closed (R425). -/
def closeWindows (s : State) : State :=
  { s with net := { s.net with windows := tmap {} s.net.windows (fun _ w =>
      match w.closeAt with
      | some b => if b ≤ s.clk.cue then { w with opened := false, closeAt := none } else w
      | none => w) } }

/-- Dilution levels decided at an earlier boundary come into force (R451). -/
def applyLevels (s : State) : State :=
  (upFrom 0 8).foldl (fun s p => modPart s p (fun x => match x.levelDue with
    | some l => { x with level := l, levelDue := none, advances := if x.level = 0 then 0 else x.advances
                         idlePending := x.idlePending && decide (l ≠ 0) }
    | none => x)) s

/-- The module is off (R455). -/
def isOff (s : State) : Bool := s.mgmt.off && s.mgmt.phase == 0

/-- CUE_BOUNDARY (R44): the counter increments, verdicts are applied, tails are sampled, due records are written and
commands start. It comes after the call point of the cue; while the counter is stopped, only as the first boundary after a restart
(R40, R42). -/
def execCueBoundary (s : State) : Out :=
  if isOff s || (s.clk.stopped && !s.clk.restarting) || (!s.clk.called && !s.clk.stopped && s.clk.cue ≠ 0) then .next s
  else
    let n := s.clk.cue + 1
    let sa := (upFrom 0 8).foldl (fun s p => if partRuns s p then markReady s p else s) (accrue s)
    let s0 := { sa with
      eng := { s.eng with movedPrev := s.eng.moved, moved := [] }
      clk := { s.clk with
      cue := n, called := false, stopped := false, restarting := false, ticks := 0
      cycleCues := if s.clk.stopped || s.clk.cue = 0 then s.clk.cycleCues else tmod 0 s.clk.cycleCues s.clk.aclk (· + 1)
      houseCycleDue := decide (n % 2 ^ 20 = 0), cueMaster := lowestHub s, aclkPrev := s.clk.aclk } }
    let s1 := (upFrom 0 8).foldl (fun s p => if partCues s p then applyVerdict s p else applyIdleReset s p) (joinAll (settleContexts (applyLevels (if s.clk.ticks = 0 then evaluateLaws s0 else s0))))
    let s2 := closeWindows (applyTempOffsets (heartbeat (countHeld s1) true))
    let s3 := startAll (sampleAll (settleDestroys (writeDue s2)))
    let woken := (upFrom 0 8).foldl (fun s p => if partCues s p then
        (partOf s p).wakers.foldl (fun s w => finish s w.1 w.2 (plainDone n 0 0)) (modPart s p (fun x => { x with wakers := [] }))
      else s) s3
    if woken.mgmt.off then .next (powerOff woken)
    else .next { woken with clk := { woken.clk with
      quiet := if mayStop woken then woken.clk.quiet + 1 else 0
      stopped := mayStop woken && decide (woken.clk.quiet ≥ 1) } }

/-! ### The call point (R44, R45, R55) -/

/-- The ABORT commands that are dispatched in the present cue, with their targets (R63, R403): queue, ALL, SEQUENCE. -/
def dispatched (s : State) : List (Nat × Nat × Bool × Nat) :=
  s.queues.flatMap (fun kv =>
    (kv.2.cmds.filter (fun c => c.stage == 1 && pktOp (wordAt c.words 0) == 0x50 &&
        (if isHouse kv.1 then c.taken + 1 == s.clk.cue else c.started == some s.clk.cue))).map (fun c =>
      (kv.1, bits (wordAt c.words 1) 9 0, bit (wordAt c.words 1) 63, bits (wordAt c.words 2) 31 0)) ++
    (kv.2.cmds.filter (fun c => c.stage == 1 && pktOp (wordAt c.words 0) == 0xA1 && c.started == some s.clk.cue)).map (fun c =>
      (kv.1, bits (wordAt c.words 1) 9 0, true, 0)))

/-- A command is the target of an ABORT being dispatched (R402). -/
def underAbort (s : State) (q idx : Nat) : Bool :=
  (dispatched s).any (fun a => a.2.1 == q && (a.2.2.1 ||
    ((queueOf s q).cmds.find? (fun c => pktSeq (wordAt c.words 0) == a.2.2.2)).any (fun c => c.idx == idx)))

/-- A transfer whose source or destination begins in a host or remote window (R49). -/
def shareTransfer (s : State) (x : Transfer) : Bool :=
  let away := fun (va : Nat) (need : Need) => (translate s x.ctx va need).any (fun pa => !cacheable pa)
  (x.srcKind == 0 && away x.src needRead) || (x.dstKind == 0 && away x.dst needWrite)

/-- The transfer in progress on a mover has an end in a host or remote window and runs in the house share (R49). -/
def inHouseShare (s : State) (t u : Nat) : Bool :=
  24 ≤ u && (tget none s.eng.mover (4 * t + (u - 24))).any (fun x => shareTransfer s x)

/-- The starts of a unit whose positions have run out without their work being complete (R45); a transfer of R49 is never late. -/
def lateStarts (s : State) (t u pos : Nat) : List Start :=
  let x := unitOf s t u
  ((if inHouseShare s t u then [] else x.cur.toList) ++ x.waiting).filter (fun st => decide (st.last ≤ pos))

/-- A late start counts: its run is on the list, its context is not being lost, its PLAY_RUN not being aborted (R55). -/
def lateCounts (s : State) (p : Nat) (st : Start) : Bool :=
  match runOf s p st.run with
  | some r => !(ctxFalling s r.ctx) && (ctxOf s r.ctx).fault.isNone && !underAbort s r.queue r.idx
  | none => false

/-- The tile has late work or a program underrun (R45, R54). -/
def tileLate (s : State) (p t : Nat) : Bool :=
  let o := (partOf s p).order
  o.live && (o.under || (entryAt s t o.pos).isNone || (upFrom 0 28).any (fun u => (lateStarts s t u o.pos).any (lateCounts s p)))

/-- Mask of the late tiles of a partition. -/
def lateMask (s : State) (p : Nat) : Nat := maskOf ((servingTiles s p).filter (tileLate s p))

/-- The verdict, by the first row that applies (R55). -/
def verdictOf (reset : Bool) (late : Nat) (idlePending : Bool) : Verdict :=
  if reset then .reset else if late ≠ 0 then .hold else if idlePending then .idle else .advance

/-- CALL_POINT (R44, R55): each partition that takes cues forms its verdict. -/
def execCallPoint (s : State) : Out :=
  if isOff s || s.clk.called || s.clk.cue = 0 || s.clk.stopped then .next s
  else
    let s1 := (upFrom 0 8).foldl (fun s p =>
      if partCues s p then
        let late := lateMask s p
        let reset := dueReset s p
        modPart s p (fun x => { x with resetCause := reset, order := { x.order with
          late, verdict := some (verdictOf reset.isSome late x.idlePending) } })
      else s) s
    .next { s1 with clk := { s1.clk with called := true } }

/-! ### House cycles and idle ticks -/

/-- Flits that a direction of a link has carried in some cues, given by DVFS step: a cue is 4,096 ACLK cycles of
1 / (800 + 60 s) µs, a flit time 62.5 ps, or 125 ps for a joist (R24, R37, R46). While ACLK is stopped the truss carries none (R34,
R40, log 109). The sum over the steps is taken over one denominator, so that it is exact. -/
def flitsCarried (link : Nat) (cues : Table Nat) : Nat :=
  let all := ((upFrom 0 16).map (fun k => 800 + 60 * k)).foldl (· * ·) 1
  let n := (cues.map (fun kv => kv.2 * 4096 * 16000 * (all / (800 + 60 * kv.1)))).sum
  n / (if link ≥ 96 then 2 * all else all)

/-- Ends of a joist 96 + n: positions n and n + 1 (R21). -/
def joistEnds (n : Nat) : Nat × Nat := (n, (n + 1) % 80)

/-- A joist between two bound positions; a joist to an understudy or a retired position is parked (R26). -/
def joistLive (s : State) (l : Nat) : Bool :=
  let e := joistEnds (l - 96)
  (posTile s e.1).isSome && (posTile s e.2).isSome

/-- A truss link is declared failed in a case of R24; the failure takes effect by its own row (R26). A parked joist that goes
is not a failure and leaves no event (R26, log 97). -/
def declareTruss (s : State) (l case : Nat) : State :=
  let s1 := modTruss s l (fun x => { x with failed := true, case, pending := true })
  if (trussOf s l).failed then s
  else if 96 ≤ l && !joistLive s l then s1
  else addEvent s1 0x02 (if l < 80 then l else if l < 84 then fohDie ((l - 80) / 2) else if l < 96 then hubDie (l - 88) else l - 96) [l, case]

/-- Case 2 of R24 at a house-cycle boundary, and the counts reset. -/
def checkTruss (s0 : State) : State :=
  let cues := s0.clk.cycleCues
  s0.panel.truss.foldl (fun s kv =>
    let bad := fun (n : Nat) => decide (n * 10 ^ 9 > flitsCarried kv.1 cues)
    let s1 := if !kv.2.failed && (bad kv.2.a.errored || bad kv.2.b.errored) then declareTruss s kv.1 2 else s
    modTruss s1 kv.1 (fun x => { x with a := { x.a with errored := 0, retries := 0 }, b := { x.b with errored := 0, retries := 0 } }))
    { s0 with clk := { s0.clk with cycleCues := [] } }

/-- A lane of a channel is marked failed; a second marked lane while the channel runs fails the stack (R289, R293). -/
def markLane (s : State) (k ch lane : Nat) : State :=
  let c := chanOf s k ch
  if c.marked.testBit lane then s
  else
    let s1 := modChan s k ch (fun c => { c with marked := c.marked ||| 2 ^ lane })
    let s2 := addEvent s1 0x07 (stackDie k) [k, ch, lane]
    if c.marked ≠ 0 then modStack s2 k (fun x => { x with lost := some 2 }) else s2

/-- Lanes with more than 256 corrections in the house cycle are marked, and the counts reset (R289, R299). -/
def checkLanes (s : State) : State :=
  (upFrom 0 16).foldl (fun s k =>
    let s1 := (stackOf s k).channels.foldl (fun s kv =>
      kv.2.corrections.foldl (fun s x => if x.2 > 256 then markLane s k kv.1 x.1 else s) s) s
    modStack s1 k (fun x => { x with
      rowCorr := [], channels := tmap {} x.channels (fun _ c => { c with corrections := [] }) })) s

/-- State of a die in the snapshot: 0 in service, 1 degraded, 2 out of service, 3 failed or retired (R491). -/
def dieState (s : State) (d : Nat) : Nat :=
  if d < 80 then
    if bit (mapWord s (d / 10)) (54 + d % 10) then 3
    else if posIsOut s d then 2
    else if [96 + d, 96 + (d + 79) % 80].any (fun l => (trussOf s l).failed && joistLive s l) then 1 else 0
  else if d < 88 then (if hubIsUp s (d - 80) then 0 else 3)
  else if d < 90 then (if fohIsUp s (d - 88) then 0 else 3)
  else
    let x := stackOf s (d - 90)
    if x.state = 2 then 3
    else if x.state = 0 then 2
    else if x.channels.any (fun kv => kv.2.marked != 0) then 1 else 0

/-- Bytes 8 to 255 of the health record (R491). -/
def snapshotBytes (s : State) : List Byte :=
  let b := fun (x : Bool) (i : Nat) => if x then 2 ^ i else 0
  let f := s.panel.partFaults
  let flags := b (fohIsUp s 0) 0 + b (fohIsUp s 1) 1 + b (s.panel.primary == 1) 2 + b s.sec.limp 3 + f % 32 * 16 +
    b (!s.sec.ownerOk) 9 + b s.panel.mirrorDown 10
  leBytes 8 s.clk.cue ++ leBytes 8 flags ++
    (upFrom 0 106).map (fun d => BitVec.ofNat 8 (dieState s d * 64 + (dieOf s d).event % 64)) ++
    (upFrom 0 48).map (fun l => BitVec.ofNat 8 (linkOf s l).state) ++ List.replicate 78 0

/-- The snapshot is rebuilt; CHANGES increases when it differs from the one before, its cue stamp apart (R492, log 22). -/
def rebuildSnapshot (s : State) : State :=
  let new := snapshotBytes s
  let old := s.mgmt.snapshot
  let s1 := { s with mgmt := { s.mgmt with snapshot := new } }
  if new.drop 8 = old.drop 8 then s1 else healthChanged s1 []

/-- Power-weight offsets come into use (R441). -/
def applyWeightOffsets (s : State) : State :=
  useOffsets s (fun k => k / 2 ^ 62 % 4 == 0)

/-- Work of a house cycle (R24, R40, R289, R412, R428, R441, R470, R492). -/
def houseCycleWork (s : State) : State :=
  let s1 := rebuildSnapshot (applyWeightOffsets (checkLanes (checkTruss s)))
  { s1 with
    sec := { s1.sec with retryIndex := false }
    net := { s1.net with
      links := tmap {} s1.net.links (fun _ l => { l with hand := { l.hand with retryDue := l.state == 3 } })
      peers := tmap {} s1.net.peers (fun _ x => { x with hand := { x.hand with retryDue := x.valid && !x.auth } }) } }

/-- HOUSE_CYCLE_BOUNDARY (R40): due once at each boundary whose counter is a multiple of 2 ^ 20. -/
def execHouseCycleBoundary (s : State) : Out :=
  if !s.clk.houseCycleDue then .next s
  else .next (houseCycleWork { s with clk := { s.clk with houseCycleDue := false } })

/-- A command waits anywhere: the house restarts ACLK for it (R42). -/
def anyTaken (s : State) : Bool := s.queues.any (fun kv => !kv.2.cmds.isEmpty)

/-- IDLE_TICK (R42): while the counter is stopped, tails are sampled, the heartbeat is exchanged over the mirror link and
the hold counts advance, and the estimates reported since the last tick accrue (R454); a tail or command taken restarts ACLK. A command of the jack counts as taken here too. -/
def execIdleTick (s : State) : Out :=
  if isOff s || !s.clk.stopped then .next s
  else
    let sa := accrue s
    let s0 := { sa with
      clk := { s.clk with ticks := s.clk.ticks + 1, idle := s.clk.idle + 1 }
      pow := { sa.pow with dies := tmap {} sa.pow.dies (fun _ d => { d with estCue := 0 }) } }
    let s1 := sampleAll (heartbeat (countHeld s0) false)
    let wake := anyTaken s1 || s1.queues.any (fun kv => kv.2.seen != (queueOf s kv.1).seen) || s1.panel.mirrorDown || boundaryDue s1
    -- a command taken at a tick counts as taken at the first boundary after the restart
    let s2 := { s1 with queues := tmap {} s1.queues (fun q x => { x with
      marks := x.marks.map (fun m => if (queueOf s q).marks.contains m then m else (m.1, s.clk.cue + 1))
      cmds := x.cmds.map (fun c => if c.started.isNone then { c with taken := max c.taken (s.clk.cue + 1) } else c) }) }
    .next (if wake then { s2 with clk := { s2.clk with restarting := true, quiet := 0 } } else s2)

/-! ### The stall watchdog (R57) -/

/-- Contexts not in debug mode that have late work in the entry, with the lowest agent number of each (R57, R503). -/
def stalled (s : State) (p : Nat) : List (Nat × Nat) :=
  let o := (partOf s p).order
  let late := (servingTiles s p).flatMap (fun t => (upFrom 0 28).flatMap (fun u =>
    (lateStarts s t u o.pos).filterMap (fun st => (runOf s p st.run).map (fun r => (r.ctx, 28 * t + u)))))
  late.foldl (fun acc x =>
    if (ctxOf s x.1).debug || acc.any (fun y => y.1 == x.1) then acc else acc ++ [x]) []

/-- STALL_WATCHDOG (R57): 256 consecutive hold cues of one entry have passed and the last of them would be followed by another. At the
boundary that ends it the contexts with late work, debug contexts apart, are lost with GROUP_STALL and their units stop; the
partition advances if no late work remains. -/
def execStallWatchdog (p : Nat) (s : State) : Out :=
  let o := (partOf s p).order
  if !partCues s p || o.holdCount < 256 || o.kind ≠ .hold || o.verdict ≠ some .hold then .next s
  else
    let st := stalled s p
    let s1 := st.foldl (fun s x =>
      raise s x.1 { valid := true, status := stStall, cause := 0, agent := x.2, cue := s.clk.cue,
                    address := fld o.pos 16 0, whereAt := 0 }) s
    let s2 := st.foldl (fun s x =>
      let ids := ((partOf s p).order.runs.filter (fun r => r.ctx == x.1)).map (fun r => r.id)
      stopRuns s x.1 ids (partTiles s p)) s1
    let late := lateMask s2 p
    .next (modOrder s2 p (fun o => { o with late, verdict := some (if late ≠ 0 then .hold else .advance) }))

/-! ### Idle partitions (R455) -/

/-- PARTITION_IDLE (R455): after 1,024 consecutive cues of empty entries with no command started, ACLK is gated. -/
def execPartitionIdle (p : Nat) (s : State) : Out :=
  let x := partOf s p
  if !partCues s p || x.emptyCues < 1024 || partBusy s p || x.resetCause.isSome then .next s
  else .next (modPart s p (fun x => { x with power := 1, emptyCues := 0 }))

/-! ### Completion of runs (R113, R117, R120) -/

/-- Bay mask of a partition (R121). -/
def bayMask (s : State) (p : Nat) : Nat := maskOf (partBays s p)

/-- Attributed holds of a run, by step: one for each entry of the hold log in which a step of the run claims a late tile
(R120). -/
def runHolds (o : Order) (id : Nat) : List (Nat × Nat) :=
  o.log.foldl (fun acc e =>
    (e.steps.filter (fun x => x.1 == id && (x.2.2 &&& e.tiles) != 0)).foldl (fun acc x =>
      if acc.any (fun y => y.1 == x.2.1) then acc.map (fun y => if y.1 = x.2.1 then (y.1, y.2 + 1) else y)
      else acc ++ [(x.2.1, 1)]) acc) []

/-- The up to 1,024 steps with the most holds; ties go to the lower step number (R120). -/
def topHolds (hs : List (Nat × Nat)) : List (Nat × Nat) :=
  (sortBy (fun (a b : Nat × Nat) => if a.2 = b.2 then decide (a.1 ≤ b.1) else decide (a.2 > b.2)) hs).take 1024

/-- A history joined by the attributed holds of one more run (R120). -/
def addHolds (h : History) (hs : List (Nat × Nat)) : History :=
  let all := hs.foldl (fun acc x =>
    if acc.any (fun (y : Nat × Nat) => y.1 == x.1) then acc.map (fun y => if y.1 = x.1 then (y.1, satTo (2 ^ 32 - 1) (y.2 + x.2)) else y)
    else acc ++ [x]) h.holds
  { h with runs := satTo 65535 (h.runs + 1), holds := topHolds all }

/-- Histories with one used last put last; at most 4,096 are kept (R121). -/
def keepHistory (hs : List History) (h : History) : List History :=
  let rest := hs.filter (fun x => !(x.tag == h.tag && x.crc == h.crc && x.bays == h.bays))
  let all := rest ++ [h]
  all.drop (all.length - 4096)

/-- The prompter attributes the holds of a completed run, debug contexts apart (R120, R125). A run that an ABORT or the loss of its
context ended is not recorded (DESIGN CHOICE, log 116: R120 says after each run). -/
def attributeHolds (s : State) (p : Nat) (r : Run) : State :=
  if (ctxOf s r.ctx).debug then s
  else
    let sc := scriptOf s p r.slot
    let m := bayMask s p
    modOrder s p (fun o =>
      let old := (o.histories.find? (fun h => h.tag == sc.tag && h.crc == sc.crc && h.bays == m)).getD
        { tag := sc.tag, crc := sc.crc, bays := m, runs := 0, holds := [], prior := sc.made, base := sc.made }
      { o with histories := keepHistory o.histories { addHolds old (runHolds o r.id) with prior := sc.made } })

/-- RUN_COMPLETE (R87, R88, R113): the last step has left force, no transfer of the run is outstanding, and its SIGNALs have taken
effect. -/
def execRunComplete (p run : Nat) (s : State) : Out :=
  match runOf s p run with
  | none => .next s
  | some r =>
    if !runEnded s p r then .next s
    else
      let s1 := attributeHolds s p r
      let s2 := leaveRuns s1 p [run]
      let s4 := finish s2 r.queue r.idx { plainDone s.clk.cue 0 0 with holds := r.holds, energy := r.energy }
      .next (settleUnload s4 p s.clk.cue)

/-! ### Loss of a context (R373, R501) -/

/-- CONTEXT_LOSS (R330, R373): at the boundary after the cue in which its recorded fault arose, the context is lost. -/
def execContextLoss (c : Nat) (s : State) : Out :=
  if (ctxOf s c).st ≠ .live || !ctxFalling s c then .next s
  else .next (loseContext s c)

end Sys2Proof.Machine
end

