-- ==== Sys2Proof/Machine/Commands.lean ====
section
/-! DEFINITION. The plain commands of queues: NOP, ORDER, fences, ENERGY_QUERY, ABORT with its effect boundary, and packets
whose opcode no table defines (R380–R390, R401–R404). -/

namespace Sys2Proof.Machine

/-- NOP (R387): no effect; it completes at the next boundary. -/
def execNop (q : Nat) (s : State) : Out := .next (onCommand s q 0x00 (fun cm => answerNext s q cm 0 0))

/-- The port a command's context writes to, or that of its house queue when the context is 0 (R363, R387). -/
def cmdPort (s : State) (q : Nat) (c : Nat) : Option Nat :=
  if c = 0 then (if q < 2 then some q else none)
  else if (ctxOf s c).binding < 2 then some (ctxOf s c).binding else none

/-- ORDER (R363, R387). -/
def execOrder (q : Nat) (s : State) : Out :=
  .next (onCommand s q 0x03 (fun cm =>
    let s1 := match cmdPort s q (cmdCtx s q cm) with
      | some p => modPort s p (fun x => { x with orderNext := true })
      | none => s
    answerNext s1 q cm 0 0))

/-- The stage of a command that has faulted and waits for the loss of its context (R373). -/
def stageFaulted : Nat := 99

/-- A command meets a fault for context `c`: the loss completes it (R330, R373); on a house queue its record carries the
same status at that boundary (log 24); a physical address that no memory answers is no object (log 24). -/
def faultCommand (s : State) (q : Nat) (cm : Cmd) (c status addr : Nat) : State :=
  if c = 0 then reject s q cm stBadObject 0
  else
    let s1 := houseFault s c status addr
    if isHouse q then
      finish s1 q cm.idx { plainDone (s.clk.cue + 1) status (BitVec.ofNat 64 addr) with fault := true }
    else modCmd s1 q cm.idx (fun x => { x with stage := stageFaulted })

/-- A command reads an uncorrectable burst: the house acts at the next boundary (R302, R303). -/
def burstCommand (s : State) (q : Nat) (cm : Cmd) (c addr : Nat) : State :=
  modCmd (meetBad s (addr / 32) [(c, houseAgent)]) q cm.idx (fun x => { x with stage := stageFaulted })

/-- Where a fence lies (R388): in local memory, on a page it may not lie on, behind a fault, or in a burst that cannot be
read. -/
inductive FenceAt where
  | at (pa : Nat)
  | object
  | fault (status addr : Nat)
  | burst (addr : Nat)
deriving DecidableEq, Repr

def fenceAt (s : State) (c va : Nat) (need : Need) : FenceAt :=
  match translate s c va need with
  | none => .fault stTranslation va
  | some pa =>
    if !cacheable pa then .object
    else match resolve s c va 8 need with
      | .bad st a => .fault st a
      | .ok pas => match badPiece s pas with
        | some a => .burst a
        | none => .at pa

/-- The greater of two 64-bit values, unsigned (R389). -/
def maxWord (a b : W64) : W64 := if a.toNat < b.toNat then b else a

/-- A fence raised to max(current, VALUE) as one home atomic (R389): the state after it and the value found. -/
def raiseFence (s : State) (pa : Nat) (v : W64) : State × W64 :=
  let old := readWord s pa
  if v.toNat ≤ old.toNat then (s, old) else (writeBytes s pa (leBytes 8 v.toNat), old)

/-- Completion status of FENCE_STALE (R389, R499). -/
def stFenceStale : Nat := 1
def stDeferred : Nat := 3
def stAborted : Nat := 4
def stNothing : Nat := 2

/-- FENCE_SIGNAL (R388, R389). -/
def execFenceSignal (q : Nat) (s : State) : Out :=
  .next (onCommand s q 0x01 (fun cm =>
    let va := bits (wordAt cm.words 1) 54 0
    let c := cmdCtx s q cm
    if va % 8 ≠ 0 then reject s q cm stBadFormat 1
    else match fenceAt s c va needSignal with
      | .object => reject s q cm stBadObject 0
      | .fault st a => faultCommand s q cm c st a
      | .burst a => burstCommand s q cm c a
      | .at pa =>
        let v := wordAt cm.words 2
        let (s1, old) := raiseFence s pa v
        answerNext s1 q cm (if v.toNat < old.toNat then stFenceStale else 0) old))

/-- FENCE_WAIT (R388, R390): after its checks the wait begins to poll. -/
def execFenceWait (q : Nat) (s : State) : Out :=
  .next (onCommand s q 0x02 (fun cm =>
    let va := bits (wordAt cm.words 1) 54 0
    let c := cmdCtx s q cm
    if va % 8 ≠ 0 then reject s q cm stBadFormat 1
    else match fenceAt s c va needRead with
      | .object => reject s q cm stBadObject 0
      | .fault st a => faultCommand s q cm c st a
      | .burst a => burstCommand s q cm c a
      | .at _ => modCmd s q cm.idx (fun x => { x with stage := 1 })))

/-- FENCE_WAIT_READ (R390): one read of the polled fence; the wait completes at the next boundary once it finds TARGET or
more. -/
def execFenceWaitRead (q : Nat) (s : State) : Out :=
  match headCmd (queueOf s q) with
  | none => .next s
  | some cm =>
    let c := cmdCtx s q cm
    if cm.stage ≠ 1 || cm.fin.isSome || pktOp (wordAt cm.words 0) ≠ 0x02 || (ctxOf s c).fault.isSome then .next s
    else match fenceAt s c (bits (wordAt cm.words 1) 54 0) needRead with
      | .object => .next (reject s q cm stBadObject 0)
      | .fault st a => .next (faultCommand s q cm c st a)
      | .burst a => .next (burstCommand s q cm c a)
      | .at pa =>
        let v := readWord s pa
        let s1 := modCmd s q cm.idx (fun x => { x with last := v })
        .next (if (wordAt cm.words 2).toNat ≤ v.toNat then answerNext s1 q cm 0 v else s1)

/-- ENERGY_QUERY (R401): counters in µJ. -/
def execEnergyQuery (q : Nat) (s : State) : Out :=
  .next (onCommand s q 0x60 (fun cm =>
    let w := wordAt cm.words 1
    let c := cmdCtx s q cm
    let n := bits w 41 32
    let say := fun (e : Nat) => answerNext s q cm 0 (BitVec.ofNat 64 (e / 1024))
    match bits w 1 0 with
    | 0 =>
      if !queueUsed s n || (!isHouse q && (queueOf s n).ctx ≠ c) then reject s q cm stBadObject 0
      else say (queueOf s n).energy
    | 1 => if c = 0 then reject s q cm stBadObject 0 else say (ctxOf s c).energy
    | 2 => if c = 0 then reject s q cm stBadObject 0 else say (partOf s (ctxOf s c).part).energy
    | _ => reject s q cm stBadFormat 1))

/-- BAD_OPCODE_PACKET (R382): a packet whose opcode no table defines. -/
def execBadOpcodePacket (q : Nat) (s : State) : Out :=
  match headCmd (queueOf s q) with
  | none => .next s
  | some cm =>
    let op := pktOp (wordAt cm.words 0)
    .next (if knownOps.contains op then s else onCommand s q op (fun _ => s))

/-! ### ABORT -/

/-- The queue whose commands an ABORT on `q` may end (R402). -/
def mayAbort (s : State) (q n : Nat) : Bool :=
  if q = 1024 then queueUsed s n
  else if q < 2 then n == q || (decide (2 ≤ n) && (queueOf s n).used && (queueOf s n).ctx != 0 && pathOwns s q (queueOf s n).ctx)
  else decide (2 ≤ n) && (queueOf s n).used && (queueOf s n).ctx == (queueOf s q).ctx

/-- ABORT (R402, R403): on a compute or copy queue the started head is dispatched; on a house queue the command is found
when it is taken, and counts as complete for the order of its queue from then on. -/
def execAbort (q idx : Nat) (s : State) : Out :=
  match cmdOf s q idx with
  | none => .next s
  | some cm =>
    if pktOp (wordAt cm.words 0) ≠ 0x50 || cm.stage ≠ 0 || cm.fin.isSome then .next s
    else if isHouse q then
      let bad := (deskCheck s q (wordAt cm.words 0)).orElse (fun _ =>
        if mayAbort s q (bits (wordAt cm.words 1) 9 0) then none else some (stBadObject, 0))
      let s1 := modCmd s q idx (fun x => { x with stage := 1, passed := true, started := some cm.taken })
      match bad with
      | some (st, w) => .next (finish s1 q idx (plainDone (cm.taken + 1) st (BitVec.ofNat 64 w)))
      | none => .next s1
    else
      .next (onCommand s q 0x50 (fun c =>
        if c.idx ≠ idx then s
        else if !mayAbort s q (bits (wordAt c.words 1) 9 0) then reject s q c stBadObject 0
        else modCmd s q idx (fun x => { x with stage := 1 })))

/-- An outcome ABORTED at the effect boundary (R404). -/
def abortDone (s : State) (result : W64) (holds energy : Nat) : Done :=
  { due := s.clk.cue, status := stAborted, result, holds, energy, mismatch := false, fault := false }

/-- R115: a run ends at the effect boundary of an ABORT. -/
def abortRun (s : State) (p : Nat) (r : Run) : State := leaveRuns (stopRuns s 0 [r.id] (partTiles s p)) p [r.id]

/-- One target of an ABORT judged at its effect boundary: the state, and whether it was aborted (R404). A loss of its
context that falls there comes first (R505). -/
def abortOne (s : State) (q : Nat) (cm : Cmd) : State × Bool :=
  let op := pktOp (wordAt cm.words 0)
  if cm.fin.isSome || ctxFalling s (queueOf s q).ctx then (s, false)
  else if cm.started.isNone then (finish s q cm.idx (abortDone s 0 0 0), true)
  else if 0x10 ≤ op && op ≤ 0x12 then
    if copyDone s q then (s, false)
    else (finish (stopCopy s q) q cm.idx (abortDone s 0 0 cm.energy), true)
  else if op = 0x02 then (finish s q cm.idx (abortDone s cm.last 0 0), true)
  else if op = 0x20 then
    if cm.stage = stageFaulted then (s, false)
    else
      let p := (ctxOf s (queueOf s q).ctx).part
      let s1 := modOrder (stopCopy s q) p (fun o => { o with loads := o.loads.filter (fun x => x != (q, cm.idx)) })
      (finish s1 q cm.idx (abortDone s 0 0 0), true)
  else if op = 0x21 then
    let p := (ctxOf s (queueOf s q).ctx).part
    match (partOf s p).order.runs.find? (fun r => r.queue == q && r.idx == cm.idx) with
    | some r =>
      if runEnded s p r then (s, false)
      else (finish (abortRun s p r) q cm.idx (abortDone s 0 r.holds r.energy), true)
    | none => (finish s q cm.idx (abortDone s 0 0 0), true)
  else (s, false)

/-- Targets of an ABORT with ALL: every taken and uncompleted command but the ABORT itself (R402). -/
def abortAll (s : State) (n : Nat) (self : Nat × Nat) : State × Nat :=
  (queueOf s n).cmds.foldl (fun acc cm =>
    if (n, cm.idx) = self then acc
    else
      let r := abortOne acc.1 n cm
      (r.1, if r.2 then acc.2 + 1 else acc.2)) (s, 0)

/-- The status codes of R499; no other exists (R10). -/
def statusCodes : List Nat :=
  [0x0000, 0x0001, 0x0002, 0x0003, 0x0004, 0x0100, 0x0101, 0x0102, 0x0103, 0x0104, 0x0105, 0x0106, 0x0107, 0x0108,
   0x0200, 0x0201, 0x0202, 0x0203, 0x0204, 0x0205, 0x0206, 0x0300, 0x0301]

/-- The status that an ABORT reports of a target without one: a free value among the codes of R499 (log 15). -/
def openStatus (cue queue seq : Nat) : Nat := statusCodes.getD (Config.openStatus cue queue seq % 23) 0

/-- The effect of an ABORT at its boundary (R402, R404). -/
def abortEffect (s : State) (q : Nat) (cm : Cmd) : State :=
  let n := bits (wordAt cm.words 1) 9 0
  let seq := bits (wordAt cm.words 2) 31 0
  let say := fun (s : State) (st : Nat) (r : W64) => finish s q cm.idx (plainDone s.clk.cue st r)
  if bit (wordAt cm.words 1) 63 then
    let r := abortAll s n (q, cm.idx)
    say r.1 (if r.2 = 0 then stNothing else 0) (BitVec.ofNat 64 r.2)
  else
    let word := fun (st : Nat) => fld st 16 32 ||| fld seq 32 0
    match (queueOf s n).recent.find? (fun r => r.1 == seq && r.2.2 == s.clk.cue) with
    | some r => say s stNothing (word r.2.1)
    | none =>
      match (queueOf s n).cmds.find? (fun c => pktSeq (wordAt c.words 0) == seq && (n, c.idx) != (q, cm.idx)) with
      | none => say s stNothing (word (openStatus s.clk.cue n seq))
      | some c =>
        let r := abortOne s n c
        if r.2 then say r.1 0 (word stAborted)
        else say r.1 stNothing (word (match c.fin with
          | some d => d.status
          | none => if (pktOp (wordAt c.words 0) = 0x21 || copyDone s n) then 0 else openStatus s.clk.cue n seq))

/-- ABORT_EFFECT (R376, R403, R404): at the boundary at which an ABORT, or the abort of a QUEUE_DESTROY, takes effect; a
command that waited for one that ended there starts there (R380). -/
def execAbortEffect (q idx : Nat) (s : State) : Out :=
  match cmdOf s q idx with
  | none => .next s
  | some cm =>
    let op := pktOp (wordAt cm.words 0)
    let due := if op = 0x50 && isHouse q then cm.taken + 2 else cm.started.getD s.clk.cue + 1
    if cm.stage ≠ 1 || cm.fin.isSome || s.clk.cue < due || ctxFalling s (queueOf s q).ctx then .next s
    else if op = 0x50 then .next (startHead (startHead (abortEffect s q cm) (bits (wordAt cm.words 1) 9 0)) q)
    else if op = 0xA1 then
      let r := abortAll s (bits (wordAt cm.words 1) 9 0) (q, idx)
      let s1 := modCmd r.1 q idx (fun x => { x with stage := 2 })
      .next (settleDestroy s1 q { cm with stage := 2 })
    else .next s

end Sys2Proof.Machine
end

