-- ==== Sys2Proof/Machine/Net.lean ====
section
/-! DEFINITION. Packets of the tenon links (R415–R422): headers, routes, the checks of receive windows (R328), what a packet
does where it arrives, and transfers at their sender. Byte streams with strides (R336), which transfers follow. -/

namespace Sys2Proof.Machine

/-! ### Byte streams (R336) -/

/-- The contiguous runs of `n` stream bytes from offset `off`: address and length of each, `fuel` runs at most. -/
def streamRuns (base : Nat) (counts : List Nat) (strides : List Int) : Nat → Nat → Nat → List (Nat × Nat)
  | 0, _, _ => []
  | fuel + 1, off, n =>
    if n = 0 then []
    else
      let c0 := max 1 (counts.getD 0 1)
      let c1 := max 1 (counts.getD 1 1)
      let c2 := max 1 (counts.getD 2 1)
      let i0 := off % c0
      let r := off / c0
      let addr : Int := base + i0 + (r % c1 : Nat) * strides.getD 0 0 + (r / c1 % c2 : Nat) * strides.getD 1 0 +
        (r / c1 / c2 : Nat) * strides.getD 2 0
      let k := min n (c0 - i0)
      ((addr % 2 ^ 64).toNat, k) :: streamRuns base counts strides fuel (off + k) (n - k)

/-- Element width in bits of a tensor (R69). -/
def tensorBits (ts : List W64) : Nat := fmtBits (bits (wordAt ts 0) 63 60)

/-- Rank, extents and strides of a tensor record (R67). -/
def tensorRank (ts : List W64) : Nat := bits (wordAt ts 0) 55 53
def tensorExtent (ts : List W64) (d : Nat) : Nat := bits (wordAt ts (3 + d / 2)) (if d % 2 = 0 then 31 else 63) (if d % 2 = 0 then 0 else 32)
def tensorStride (ts : List W64) (d : Nat) : Nat := bits (wordAt ts (6 + (d - 1))) 47 0
def tensorVa (ts : List W64) : Nat := bits (wordAt ts 1) 54 0
def tensorScaleVa (ts : List W64) : Nat := bits (wordAt ts 2) 54 0

/-- Bytes of a dimension-0 row (R69). -/
def tensorRow (ts : List W64) : Nat := (if tensorRank ts = 0 then 1 else tensorExtent ts 0) * tensorBits ts / 8

/-- Rows of a tensor as byte addresses in linear order, `first` to `first + n − 1`. -/
def tensorRows (ts : List W64) (first n : Nat) : List Nat :=
  (upFrom first n).map (fun r =>
    let e := fun (d : Nat) => if d < tensorRank ts then max 1 (tensorExtent ts d) else 1
    let i1 := r % e 1
    let i2 := r / e 1 % e 2
    let i3 := r / e 1 / e 2 % e 3
    let i4 := r / e 1 / e 2 / e 3 % e 4
    let i5 := r / e 1 / e 2 / e 3 / e 4
    tensorVa ts + i1 * tensorStride ts 1 + i2 * tensorStride ts 2 + i3 * tensorStride ts 3 + i4 * tensorStride ts 4 + i5 * tensorStride ts 5)

/-- Number of dimension-0 rows. -/
def tensorRowCount (ts : List W64) : Nat :=
  (upFrom 1 5).foldl (fun n d => if d < tensorRank ts then n * tensorExtent ts d else n) 1

/-- Packed bytes of a tensor (R69). -/
def tensorPacked (ts : List W64) : Nat := tensorRow ts * tensorRowCount ts

/-- Bytes of a tensor's footprint, from VA to the highest byte any index reaches (R68). -/
def tensorSpan (ts : List W64) : Nat :=
  (upFrom 1 5).foldl (fun n d => if d < tensorRank ts then n + (tensorExtent ts d - 1) * tensorStride ts d else n) (tensorRow ts)

/-- Scale bytes of a tensor: one for each block of 32 elements along SCALE_DIM, 16 for a gradient (R71). -/
def tensorScales (ts : List W64) : Nat :=
  if fmtScaled (bits (wordAt ts 0) 63 60) then
    (upFrom 0 6).foldl (fun n d => if d < tensorRank ts then n * tensorExtent ts d else n) 1 / blockLen (bits (wordAt ts 0) 59 56)
  else 0

/-- Addresses of packed element bytes of a tensor: contiguous runs from byte `off`, `n` bytes. -/
def elementRuns (ts : List W64) (off n : Nat) : List (Nat × Nat) :=
  let row := max 1 (tensorRow ts)
  let r0 := off / row
  let r1 := (off + n + row - 1) / row
  (((tensorRows ts r0 (r1 - r0)).zip (upFrom r0 (r1 - r0))).map (fun x =>
    let lo := max off (x.2 * row)
    let hi := min (off + n) ((x.2 + 1) * row)
    (x.1 + (lo - x.2 * row), hi - lo))).filter (fun x => decide (0 < x.2))

/-- Addresses of a tensor's bytes: its packed elements, and behind them its dense scale array (R69, R71). -/
def tensorRuns (ts : List W64) (off n : Nat) : List (Nat × Nat) :=
  let k := tensorPacked ts
  elementRuns ts off (min n (k - off)) ++
    (if off + n > k then [(tensorScaleVa ts + (max off k - k), off + n - max off k)] else [])

/-- The 64 KiB pages of a tensor's footprints, its scale array included, by their first addresses (R68, R74). -/
def tensorPages (ts : List W64) : List Nat :=
  let pages := fun (va n : Nat) => if n = 0 then ([] : List Nat) else (upFrom (va / 65536) ((va + n - 1) / 65536 + 1 - va / 65536)).map (fun k => 65536 * k)
  pages (tensorVa ts) (tensorSpan ts) ++ pages (tensorScaleVa ts) (tensorScales ts)

/-- Addresses of some stream bytes at the source, and at the destination. -/
def srcRuns (t : Transfer) (off n : Nat) : List (Nat × Nat) :=
  if t.srcTensor.isEmpty then streamRuns t.src t.counts t.srcStride n off n else tensorRuns t.srcTensor off n
def dstRuns (t : Transfer) (off n : Nat) : List (Nat × Nat) :=
  if t.dstTensor.isEmpty then streamRuns t.dst t.counts t.dstStride n off n else tensorRuns t.dstTensor off n

/-- A least number of a list. -/
def least : List Nat → Option Nat
  | [] => none
  | n :: ns => some (ns.foldl min n)

/-- Runs of virtual addresses as one unit (R319, R331): the lowest address that does not translate, then the first that
fails the owner check or lies in failed memory. -/
def resolveRuns (s : State) (c : Nat) (runs : List (Nat × Nat)) (need : Need) : Access :=
  let ps := runs.flatMap (fun r => pagesOf r.1 r.2)
  match least ((ps.filter (fun x => (translate s c x.1 need).isNone)).map (fun x => x.1)) with
  | some a => .bad stTranslation a
  | none =>
    let pas := ps.map (fun x => ((translate s c x.1 need).getD 0, x.2))
    match (ps.zip pas).find? (fun x => !ownerOk s c x.2.1) with
    | some x => .bad stOwner x.1.1
    | none => match pas.findSome? (fun x => deadAddr s x.1) with
      | some a => .bad stMemory a
      | none => .ok pas

/-! ### Headers (R415) -/

/-- A packet: header words and payload. -/
abbrev Packet := List W64 × List Byte

def hType (h : List W64) : Nat := bits (wordAt h 0) 63 60
def hTtl (h : List W64) : Nat := bits (wordAt h 0) 59 56
def hDst (h : List W64) : Nat := bits (wordAt h 0) 55 32
def hSrc (h : List W64) : Nat := bits (wordAt h 0) 31 8
def hLast (h : List W64) : Bool := bit (wordAt h 0) 7
def hWindow (h : List W64) : Nat := bits (wordAt h 1) 63 52
def hOffset (h : List W64) : Nat := bits (wordAt h 1) 39 0
def hEpoch (h : List W64) : Nat := bits (wordAt h 2) 63 48
def hLength (h : List W64) : Nat := bits (wordAt h 2) 44 32
def hXfer (h : List W64) : Nat := bits (wordAt h 2) 31 0
def hSeq (h : List W64) : Nat := bits (wordAt h 3) 63 32
def hStep (h : List W64) : Nat := bits (wordAt h 3) 31 28

/-- Fields of a header; the source sets TTL 15. -/
structure Head where
  ty : Nat
  dst : Nat := 0
  src : Nat := 0
  last : Bool := false
  window : Nat := 0
  offset : Nat := 0
  epoch : Nat := 0
  len : Nat := 0
  xfer : Nat := 0
  seq : Nat := 0
  step : Nat := 0
  ttl : Nat := 15

def Head.words (h : Head) : List W64 :=
  [fld h.ty 4 60 ||| fld h.ttl 4 56 ||| fld h.dst 24 32 ||| fld h.src 24 8 ||| flag h.last 7,
   fld h.window 12 52 ||| fld h.offset 40 0,
   fld h.epoch 16 48 ||| fld h.len 13 32 ||| fld h.xfer 32 0,
   fld h.seq 32 32 ||| fld h.step 4 28]

/-- Pieces of a window range cut at every multiple of `unit`: window offset and length (R420). -/
def cutAt (unit : Nat) : Nat → Nat → Nat → List (Nat × Nat)
  | 0, _, _ => []
  | fuel + 1, off, n =>
    if n = 0 then []
    else
      let k := min n (unit - off % unit)
      (off, k) :: cutAt unit fuel (off + k) (n - k)

/-! ### The drop log (R422, R423) -/

/-- A drop is logged at this device. -/
def logDrop (s : State) (step window src dst epoch : Nat) : State :=
  let w0 := fld step 4 60 ||| fld window 12 48 ||| fld src 24 24 ||| fld dst 24 0
  let w1 := fld epoch 16 48 ||| fld s.clk.cue 48 0
  { s with net := { s.net with
      dropLog := tput (0, 0) s.net.dropLog (s.net.drops % 256) (w0, w1)
      drops := (s.net.drops + 1) % 2 ^ 32 } }

def dropPacket (s : State) (step : Nat) (h : List W64) : State := logDrop s step (hWindow h) (hSrc h) (hDst h) (hEpoch h)

/-! ### Receive windows (R328) -/

/-- What the checks of R328 find: the step that fails, or the physical pieces of the access. -/
inductive Landing where
  | fails (step : Nat)
  | lands (pieces : List (Nat × Nat))
deriving DecidableEq, Repr

/-- The window counts as open (R424, R425): from the boundary of its WINDOW_OPEN's completion, while its context lives and its
partition is not in NAP (R456). -/
def windowOpen (s : State) (w : Window) : Bool :=
  w.opened && decide (w.openFrom ≤ s.clk.cue) && (ctxOf s w.ctx).st == .live &&
    decide ((partOf s (ctxOf s w.ctx).part).power < 2)

/-- Steps 1 to 7 of R328 for an access of `n` bytes; `kind` 0 write, 1 read, 2 signal. -/
def windowCheck (s : State) (src n_w offset n epoch kind : Nat) : Landing :=
  let w := windowOf s n_w
  if !windowOpen s w then .fails 1
  else if src < w.lo || w.hi < src then .fails 2
  else if epoch ≠ w.epoch then .fails 3
  else if (kind = 0 && !w.write) || (kind = 1 && !w.read) || (kind = 2 && !w.atomic) then .fails 4
  else if offset + n > w.size then .fails 5
  else
    let need := if kind = 0 then needWrite else if kind = 1 then needRead else needSignal
    let ps := pagesOf (w.va + offset) n
    if ps.any (fun x => (translate s w.ctx x.1 need).isNone) then .fails 6
    else
      let pas := ps.map (fun x => ((translate s w.ctx x.1 need).getD 0, x.2))
      if pas.any (fun x => !ownerOk s w.ctx x.1 || !cacheable x.1 || (deadAddr s x.1).isSome) then .fails 7
      else .lands pas

/-! ### The receiver's counts (R421) -/

/-- The count of a transfer at a hub. -/
def rxOf (s : State) (src xfer hub : Nat) : Option RxCount :=
  s.net.rx.find? (fun r => r.src == src && r.xfer == xfer && r.hub == hub)

def rxDrop (s : State) (src xfer hub : Nat) : State :=
  { s with net := { s.net with rx := s.net.rx.filter (fun r => !(r.src == src && r.xfer == xfer && r.hub == hub)) } }

def rxPut (s : State) (r : RxCount) : State :=
  let s1 := rxDrop s r.src r.xfer r.hub
  { s1 with net := { s1.net with rx := s1.net.rx ++ [r] } }

/-- Entries of a hub's table. -/
def rxFull (s : State) (hub : Nat) : Bool := decide ((s.net.rx.filter (fun r => r.hub == hub)).length ≥ 16384)

/-- A WRITE or SIGNAL packet's outcome (0 accepted) is counted; the final packet returns the ACK (R421). -/
def countPacket (s : State) (hub : Nat) (h : List W64) (step : Nat) (final data : Bool) : State × List Packet :=
  let src := hSrc h
  let x := hXfer h
  let old := rxOf s src x hub
  let ack := fun (n st : Nat) =>
    (({ ty := 4, dst := src, src := s.net.gid, window := hWindow h, epoch := hEpoch h, xfer := x, seq := n, step := st } : Head).words, ([] : List Byte))
  match old with
  | none =>
    if rxFull s hub then (dropPacket s 11 h, if final then [ack 0 11] else [])
    else
      let r : RxCount := { src, xfer := x, hub, accepted := if step = 0 && data then 1 else 0, step }
      if final then (s, [ack r.accepted r.step]) else (rxPut s r, [])
  | some r0 =>
    let r := { r0 with accepted := if step = 0 && data then r0.accepted + 1 else r0.accepted, step := if r0.step = 0 then step else r0.step }
    if final then (rxDrop s src x hub, [ack r.accepted r.step]) else (rxPut s r, [])

/-- A WRITE packet (R328, R421): performed, or dropped with its step; `sig`: a SIGNAL follows the transfer's data. -/
def takeWrite (s : State) (hub : Nat) (h : List W64) (payload : List Byte) (sig : Bool) : State × List Packet :=
  let bs := payload.take (hLength h)
  let final := hLast h && !sig
  if (rxOf s (hSrc h) (hXfer h) hub).isNone && rxFull s hub then countPacket s hub h 11 final true
  else match windowCheck s (hSrc h) (hWindow h) (hOffset h) bs.length (hEpoch h) 0 with
    | .fails st => countPacket (dropPacket s st h) hub h st final true
    | .lands pas => match badPartial s pas with
      | some a => countPacket (dropPacket (meetBad s (a / 32) []) 13 h) hub h 13 final true
      | none => countPacket (writePieces s pas bs) hub h 0 final true

/-- A SIGNAL packet (R421, R422): applied as a max when every packet of its transfer was accepted. -/
def takeSignal (s : State) (hub : Nat) (h : List W64) (payload : List Byte) : State × List Packet :=
  if (rxOf s (hSrc h) (hXfer h) hub).isNone && rxFull s hub then countPacket s hub h 11 true false
  else match windowCheck s (hSrc h) (hWindow h) (hOffset h) 8 (hEpoch h) 2 with
    | .fails st => countPacket (dropPacket s st h) hub h st true false
    | .lands pas =>
      match badPiece s pas with
      | some a => countPacket (dropPacket (meetBad s (a / 32) []) 13 h) hub h 13 true false
      | none =>
        let (n, st) := match rxOf s (hSrc h) (hXfer h) hub with
          | some r => (r.accepted, r.step)
          | none => (0, 0)
        let v := BitVec.ofNat 64 (leNat (payload.take 8))
        let old := BitVec.ofNat 64 (leNat (readPieces s pas))
        let s1 := if n = hSeq h && st = 0 && old.toNat < v.toNat then writePieces s pas (leBytes 8 v.toNat) else s
        countPacket s1 hub h 0 true false

/-- READ_RESP packets that answer a READ_REQ, cut at 256-byte boundaries (R420). -/
def readResponses (own : Nat) (h : List W64) (data : List Byte) : List Packet :=
  let ps := cutAt 256 (data.length + 1) (hOffset h) data.length
  (ps.zip (upFrom 0 ps.length)).map (fun x =>
    (({ ty := 2, dst := hSrc h, src := own, last := decide (x.2 + 1 = ps.length), window := hWindow h, offset := x.1.1
        epoch := hEpoch h, len := x.1.2, xfer := hXfer h, seq := x.2 } : Head).words,
     (data.drop (x.1.1 - hOffset h)).take x.1.2))

/-- A refused READ_REQ is answered by one READ_RESP with LENGTH 0 (R421). -/
def refuseRead (s : State) (h : List W64) (step : Nat) : State × List Packet :=
  (dropPacket s step h,
   [(({ ty := 2, dst := hSrc h, src := s.net.gid, last := true, window := hWindow h, offset := hOffset h
        epoch := hEpoch h, xfer := hXfer h, seq := 0, step } : Head).words, [])])

/-- A READ_REQ packet (R420–R422). -/
def takeReadReq (s : State) (h : List W64) : State × List Packet :=
  let n := hLength h
  if n = 0 || n > 4096 then refuseRead s h 5
  else match windowCheck s (hSrc h) (hWindow h) (hOffset h) n (hEpoch h) 1 with
    | .fails st => refuseRead s h st
    | .lands pas => match badPiece s pas with
      | some a => refuseRead (meetBad s (a / 32) []) h 13
      | none => (s, readResponses s.net.gid h (readPieces s pas))

/-- A page lies in the window of a host or of another device. -/
def foreign (pa : Nat) : Bool := inRemote pa || (hostOf pa).isSome

/-! ### Transfers at their sender (R420, R422) -/

def xferOf (s : State) (x : Nat) : Xfer := tget {} s.net.xfers x
def modXfer (s : State) (x : Nat) (f : Xfer → Xfer) : State :=
  { s with net := { s.net with xfers := tmod {} s.net.xfers x f } }

/-- The lowest transfer number that is not in use (log 25). -/
def freeXfer (s : State) : Nat :=
  ((upFrom 0 (s.net.xfers.length + 1)).find? (fun x => !(xferOf s x).used)).getD s.net.xfers.length

/-- Bytes written where a stream's destination lies: local memory at once, a host as posted writes (R364). -/
def writeOut (s : State) : List (Nat × Nat) → List Byte → State
  | [], _ => s
  | (pa, n) :: rest, bs =>
    let s1 := match hostOf pa with
      | some (p, bus) => postWrite s p bus (bs.take n) true
      | none =>
        if cacheable pa then writeBytes s pa (bs.take n)
        else if inTileStore pa then writeStore s pa (bs.take n) else s
    writeOut s1 rest (bs.drop n)

/-- A transfer ends at its sender, delivered or dropped: its run no longer waits for it (R88, R113, R422). -/
def endXfer (s : State) (x : Nat) : State :=
  let t := xferOf s x
  let s1 := { s with net := { s.net with xfers := terase s.net.xfers x } }
  let s1 := if t.kind = 1 then
      { s1 with eng := { s1.eng with copies := tmod none s1.eng.copies t.owner.1 (fun c => c.map (fun c =>
        { c with ended := c.ended.map (fun _ => s.clk.cue) })) } }
    else s1
  if t.kind = 5 && !t.get then
    -- the answer to the packets of a run's COPY ends the run's transfer
    let o := xferOf s t.owner.1
    modRun { s1 with net := { s1.net with xfers := terase s1.net.xfers t.owner.1 } } o.owner.1 o.owner.2
      (fun r => { r with xfers := r.xfers.filter (fun y => y != t.owner.1) })
  else if t.kind = 0 then modRun s1 t.owner.1 t.owner.2 (fun r => { r with xfers := r.xfers.filter (fun y => y != x) }) else s1

/-- Bytes for a page of another device become a transfer of the run of their own, which sends them on (R86, R88). -/
def sendOn (s : State) (t : Xfer) (va : Nat) (bs : List Byte) : State :=
  let x := freeXfer s
  let data : Transfer := { ctx := t.ctx, srcKind := 3, hand := bs, dst := va, counts := [bs.length, 1, 1, 1] }
  modRun (modXfer s x (fun _ => { used := true, ctx := t.ctx, len := bs.length, started := beat s, owner := t.owner, kind := 0
                                  node := t.node, data })) t.owner.1 t.owner.2 (fun r => { r with xfers := r.xfers ++ [x] })

/-- Bytes that arrive are stored page by page. -/
def landPages (t : Xfer) : State → List (Nat × Nat) → List Byte → State
  | s, [], _ => s
  | s, (va, n) :: rest, bs =>
    let pa := (translate s t.ctx va needWrite).getD 0
    landPages t (if inRemote pa then sendOn s t va (bs.take n) else writeOut s [(pa, n)] (bs.take n)) rest (bs.drop n)

/-- Bytes of a read that arrive for the destination of a WINDOW_GET (R86, R420): written through the context's tables; a
page that faults loses the context (R330). -/
def landGet (s : State) (t : Xfer) (at_ : Nat) (bs : List Byte) : State :=
  let runs := dstRuns t.data at_ bs.length
  match resolveRuns s t.ctx runs needWrite with
  | .bad st a => houseFault s t.ctx st a
  | .ok _ => landPages t s (runs.flatMap (fun r => pagesOf r.1 r.2)) bs

/-- The bytes of a read so far with one more piece in place; a refused piece reads as zeros (R422). -/
def spliceRead (t : Xfer) (old : Option (List Byte)) (off n : Nat) (bs : List Byte) : Option (List Byte) :=
  let b := old.getD (List.replicate t.len 0)
  let k := off - t.offset
  some (b.take k ++ (if bs.isEmpty then List.replicate n 0 else bs) ++ b.drop (k + n))

/-- Bytes of a read that arrive for who waits for them: a run's destination, the tile in progress of a copy command, a
core, or a thread of a group processor. A refused piece has no bytes. -/
def landRead (s : State) (t : Xfer) (off n : Nat) (bs : List Byte) : State :=
  match t.kind with
  | 0 => if bs.isEmpty then s else landGet s t (off - t.offset) bs
  | 1 => s
  | 2 => modCore s t.owner.1 (fun c => { c with arrived := spliceRead t c.arrived off n bs })
  | 6 =>
    let o := t.owner.2 + (off - t.offset)
    let bytes := if bs.isEmpty then (upFrom o n).map (fun k => Config.lostByte t.ctx k) else bs
    modQueue s t.owner.1 (fun x => { x with cmds := x.cmds.map (fun c =>
      if c.asked && c.fin.isNone then { c with got := tput [] c.got o bytes } else c) })
  | _ => modGp s (t.owner.1 / 16) (t.owner.1 % 16) (fun g =>
      { g with threads := tmod {} g.threads t.owner.2 (fun y => { y with arrived := spliceRead t y.arrived off n bs }) })

/-- A core or thread whose read is complete goes on (R239); a load whose transfer was dropped returns zeros (R422). -/
def wakeReader (s : State) (t : Xfer) : State :=
  let lost := decide (t.step ≠ 0)
  let zeros := List.replicate t.len (0 : Byte)
  if t.kind = 2 then modCore s t.owner.1 (fun c => { c with waiting := false, arrived := if lost then some zeros else c.arrived })
  else if t.kind = 3 then
    let g := gpOf s (t.owner.1 / 16) (t.owner.1 % 16)
    gpArrive s (t.owner.1 / 16) (t.owner.1 % 16) t.owner.2 (if lost then zeros else ((threadAt g t.owner.2).arrived).getD [])
  else s

/-- Bytes of window behind a physical address of the remote window: slot and window offset (R315). -/
def remoteAt (s : State) (pa : Nat) : SendSlot × Nat :=
  let d := slotOf s ((pa - 0x100000000000) / 0x100000000)
  (d, d.base + (pa - 0x100000000000) % 0x100000000)

/-- Bytes of the tile in progress (R338). -/
def tileLen (t : Transfer) : Nat := min 8192 (streamLen t - t.at_)

/-- The pieces of a tile's source with their offsets in the tile. -/
def withOffsets : Nat → List (Nat × Nat) → List (Nat × Nat × Nat)
  | _, [] => []
  | o, (pa, n) :: rest => (o, pa, n) :: withOffsets (o + n) rest

/-- Source pieces of the tile in progress: offset in the tile, physical address, length. -/
def tileSource (s : State) (t : Transfer) : List (Nat × Nat × Nat) :=
  let runs := if t.at_ < streamLen t then srcRuns t t.at_ (tileLen t)
    else [(((srcRuns t (streamLen t - 1) 1).map (fun r => r.1 + r.2)).headD 0, crcBytes t.poly)]
  match resolveRuns s t.ctx runs needRead with
  | .ok pas => withOffsets 0 pas
  | .bad _ _ => []

/-- Bytes read for the tile in progress of a transfer: those of the piece whose window range the answer covers. -/
def landTile (s : State) (c : Transfer) (off n : Nat) (bs : List Byte) : Transfer :=
  match (tileSource s c).find? (fun x => inRemote x.2.1 &&
      decide ((remoteAt s x.2.1).2 ≤ off) && decide (off < (remoteAt s x.2.1).2 + x.2.2)) with
  | none => c
  | some (o, pa, _) => { c with fetch := c.fetch.map (fun f => tput (0, []) f (o + (off - (remoteAt s pa).2)) (n, bs)) }

/-- The bytes go to the tile of a copy command (`kind` 1) or of a run's transfer (`kind` 5). -/
def landCopy (s : State) (kind q off n : Nat) (bs : List Byte) : State :=
  if kind = 1 then
    { s with eng := { s.eng with copies := tmod none s.eng.copies q (fun c => c.map (fun c => landTile s c off n bs)) } }
  else modXfer s q (fun t => { t with data := landTile s t.data off n bs })

/-- A READ_RESP packet (R420–R422): its data goes to the transfer's destination; the last byte ends the transfer. -/
def takeReadResp (s : State) (h : List W64) (payload : List Byte) : State :=
  let t := xferOf s (hXfer h)
  if !t.used || !t.get then s
  else if t.kind = 1 || t.kind = 5 then
    let refused := hStep h ≠ 0
    let n := if refused then 4096 - hOffset h % 4096 else min (hLength h) payload.length
    landCopy (modXfer s (hXfer h) (fun t => { t with step := if t.step = 0 then hStep h else t.step })) t.kind t.owner.1 (hOffset h) n
      (if refused then [] else payload.take n)
  else if hOffset h < t.offset || t.offset + t.len ≤ hOffset h then s
  else
    let refused := hStep h ≠ 0
    let left := t.offset + t.len - hOffset h
    let n := if refused then min (4096 - hOffset h % 4096) left else min (min (hLength h) payload.length) left
    let s1 := landRead s t (hOffset h) n (if refused then [] else payload.take n)
    let t1 := { t with got := t.got + n, step := if t.step = 0 then hStep h else t.step }
    if t1.got ≥ t.len then endXfer (wakeReader s1 t1) (hXfer h) else modXfer s1 (hXfer h) (fun _ => t1)

/-- An ACK packet (R422): the transfer is delivered when it counts every data packet with STEP 0; a short count is logged
with step 10. -/
def takeAck (s : State) (h : List W64) : State :=
  let t := xferOf s (hXfer h)
  if !t.used || t.get || t.gid ≠ hSrc h then s
  else
    let s1 := if hSeq h < t.sent then logDrop s 10 t.window s.net.gid t.gid t.epoch else s
    endXfer s1 (hXfer h)

/-- A packet addressed to this device, or taken through its own windows, at a hub: the state and the packets it answers
with. -/
def takePacket (s : State) (hub : Nat) (p : Packet) (sig : Bool) : State × List Packet :=
  match hType p.1 with
  | 0 => takeWrite s hub p.1 p.2 sig
  | 1 => takeReadReq s p.1
  | 2 => (takeReadResp s p.1 p.2, [])
  | 3 => takeSignal s hub p.1 p.2
  | 4 => (takeAck s p.1, [])
  | _ => (s, [])

/-! ### Sending (R416, R419, R428) -/

/-- The entry of the route table; 0x30–0xFD are treated as 0xFF (R417). -/
def routeOf (s : State) (hub gid : Nat) : Nat :=
  let v := match s.net.routeCache.find? (fun e => e.1 == hub && e.2.1 == gid) with
    | some e => e.2.2
    | none => tget 0xFF s.net.routes gid
  if 48 ≤ v && v ≤ 0xFD then 0xFF else v

/-- A route entry is kept in the hub's cache of 65,536 entries, the oldest leaving first (R418). -/
def cacheRoute (s : State) (hub gid : Nat) : State :=
  if s.net.routeCache.any (fun e => e.1 == hub && e.2.1 == gid) then s
  else
    let mine := s.net.routeCache.filter (fun e => e.1 == hub)
    let rest := if mine.length ≥ 65536 then s.net.routeCache.erase (mine.headD (0, 0, 0)) else s.net.routeCache
    { s with net := { s.net with routeCache := rest ++ [(hub, gid, tget 0xFF s.net.routes gid)] } }

/-- The authenticated peer of an Ethernet port that has a GID (R419, R428). -/
def peerFor (s : State) (port gid : Nat) : Option Nat :=
  (s.net.peers.find? (fun kv => kv.1 / 1024 == port && kv.2.valid && kv.2.gid == gid && kv.2.auth)).map (fun kv => kv.1)

/-- A packet goes to a peer as a datagram: transport word with PSEQ and the cumulative PACK, header, payload; at most 256
are on their way (R428). -/
def datagram (s : State) (k : Nat) (p : Packet) : State :=
  let x := tget {} s.net.peers k
  let word := fld x.tx 32 32 ||| fld (x.rx + 2 ^ 32 - 1) 32 0
  let s1 := { s with net := { s.net with peers := tput {} s.net.peers k { x with
    tx := (x.tx + 1) % 2 ^ 32, unacked := x.unacked ++ [(word :: p.1, p.2)] } } }
  if x.unacked.length < 256 then
    { s1 with net := { s1.net with eth := tmod {} s1.net.eth (k / 1024) (fun e => { e with out := e.out ++ [(x.mac, wordBytes (word :: p.1) ++ p.2)] }) } }
  else s1

/-- A packet with TTL lowered by 1, as a hub forwards it (R416). -/
def lowerTtl (p : Packet) : Packet := (setBits (wordAt p.1 0) 59 56 (hTtl p.1 - 1) :: p.1.drop 1, p.2)

/-- A packet leaves from a hub by its route (R416, R419): on a link, to a peer, back into this device, or dropped with
step 8. On a link in loopback it comes back as an arriving packet: taken when it is addressed to this device, else forwarded
with TTL lowered until TTL 0 (R408, R416). `sig`: a SIGNAL follows the data of its transfer. Answers to packets that stay on
the device are sent in turn. -/
def sendPackets : Nat → State → Nat → List (Packet × Bool) → State
  | 0, s, _, _ => s
  | fuel + 1, s, hub, ps =>
    ps.foldl (fun s x =>
      let (p, sig) := x
      let r := routeOf s hub (hDst p.1)
      let s := cacheRoute s hub (hDst p.1)
      let back := fun (s : State) (hub' : Nat) =>
        let o := takePacket s hub' p sig
        sendPackets fuel o.1 hub' (o.2.map (fun y => (y, false)))
      if r = 0xFE then back s hub
      else if r = 0xFF then dropPacket s 8 p.1
      else
        let l := linkOf s r
        if l.state = 4 then modLink s r (fun l => { l with out := l.out ++ [p] })
        else if l.state = 5 then
          let s := modLink s r (fun l => { l with out := l.out ++ [p] })
          if hDst p.1 = s.net.gid then back s (r / 6)
          else if hTtl p.1 = 0 then dropPacket s 8 p.1
          else sendPackets fuel s (r / 6) [(lowerTtl p, sig)]
        else if l.state = 6 then match peerFor s r (hDst p.1) with
          | some k => datagram s k p
          | none => dropPacket s 8 p.1
        else dropPacket s 8 p.1) s

/-- Rounds that carry every answer of a device to itself, each with the 15 hops that TTL allows in loopback. -/
def sendRounds : Nat := 64

/-- Packets of this device's own transfers and answers. -/
def sendAll (s : State) (hub : Nat) (ps : List Packet) : State := sendPackets sendRounds s hub (ps.map (fun p => (p, false)))

/-- WRITE packets of a transfer for consecutive window bytes, cut at every 256-byte boundary (R420): `gid` and `window` at
the destination, `offset` its first byte, `last` when these bytes end the transfer's data. -/
def sendCut (s : State) (x : Nat) (gid window epoch offset : Nat) (bs : List Byte) (last : Bool) : State :=
  let t := xferOf s x
  let ps := cutAt 256 (bs.length + 1) offset bs.length
  let pkts := (ps.zip (upFrom 0 ps.length)).map (fun y =>
    (({ ty := 0, dst := gid, src := s.net.gid, last := last && decide (y.2 + 1 = ps.length), window, offset := y.1.1, epoch
        len := y.1.2, xfer := x, seq := t.sent + y.2 } : Head).words, (bs.drop (y.1.1 - offset)).take y.1.2))
  let s1 := modXfer s x (fun t => { t with sent := t.sent + ps.length, waiting := last })
  sendPackets sendRounds s1 s.clk.cueMaster (pkts.map (fun p => (p, t.signal.isSome)))

/-- The packet being filled leaves; `last`: it ends the transfer's data. -/
def sendTail (s : State) (x : Nat) (last : Bool) : State :=
  let t := xferOf s x
  let (gid, window, epoch, off) := t.tailEnd
  sendCut (modXfer s x (fun t => { t with tail := [] })) x gid window epoch (off - t.tail.length) t.tail last

/-- Data of a transfer for consecutive window bytes (R420), given as it is moved: a packet leaves when bytes go on behind it
at its boundary or elsewhere, so that the cut lies at the window's boundaries whatever the pieces are. -/
def sendData (s : State) (x : Nat) (gid window epoch offset : Nat) (bs : List Byte) (last : Bool) : State :=
  let t := xferOf s x
  let joins := t.tail.isEmpty || decide (t.tailEnd = (gid, window, epoch, offset))
  let s1 := if joins then s else sendTail s x false
  let data := if joins then t.tail ++ bs else bs
  let ends := offset + bs.length
  let start := ends - data.length
  let held := min data.length (if ends % 256 = 0 then 256 else ends % 256)
  let s2 := if held < data.length then sendCut s1 x gid window epoch start (data.take (data.length - held)) false else s1
  let s3 := modXfer s2 x (fun t => { t with tail := data.drop (data.length - held), tailEnd := (gid, window, epoch, ends) })
  if last then sendTail s3 x true else s3

/-- READ_REQ packets of a transfer, one for each 4 KiB-aligned piece of the range (R420). -/
def sendReads (s : State) (x : Nat) (gid window epoch offset n : Nat) : State :=
  let ps := cutAt 4096 (n + 1) offset n
  let pkts := (ps.zip (upFrom 0 ps.length)).map (fun y =>
    (({ ty := 1, dst := gid, src := s.net.gid, window, offset := y.1.1, epoch, len := y.1.2, xfer := x, seq := y.2 } : Head).words, ([] : List Byte)))
  sendAll s s.clk.cueMaster pkts

/-- A foreign store of an agent (R239, R364, R420): host bytes are posted, bytes for another device leave as packets; none:
the port's buffer is full. -/
def storeForeign (s : State) (agent c pa : Nat) (bs : List Byte) (relaxed : Bool) : Option State :=
  match hostOf pa with
  | some (p, bus) => if portTakes s p bs.length then some (postWrite s p bus bs relaxed) else none
  | none =>
    let x := freeXfer s
    let r := remoteAt s pa
    let s1 := modXfer s x (fun _ => { used := true, ctx := c, gid := r.1.gid, window := r.1.window, epoch := r.1.epoch, offset := r.2
                                      len := bs.length, started := beat s, kind := 4, owner := (agent, 0), waiting := true })
    some (sendData s1 x r.1.gid r.1.window r.1.epoch r.2 bs true)

/-- The ports behind some pieces take their bytes. -/
def piecesTaken (s : State) (pas : List (Nat × Nat)) : Bool :=
  [0, 1].all (fun p => portTakes s p ((pas.map (fun x => match hostOf x.1 with
    | some (p', _) => if p' = p then x.2 else 0
    | none => 0)).sum))

/-- Bytes written by the house wherever some pieces lie: local memory, a host, another device. -/
def putBytes (s : State) (c : Nat) : List (Nat × Nat) → List Byte → State
  | [], _ => s
  | (pa, n) :: rest, bs =>
    let s1 := if foreign pa then (storeForeign s houseAgent c pa (bs.take n) true).getD s
      else if cacheable pa then writeBytes s pa (bs.take n)
      else if inTileStore pa then writeStore s pa (bs.take n) else s
    putBytes s1 c rest (bs.drop n)

end Sys2Proof.Machine
end

