-- ==== Sys2Proof/Machine/Movers.lean ====
section
/-! DEFINITION. Tensor movers and check units (R333–R348, R391): copy commands, transfer records and transfer tiles; the
transfers of a run that leave the partition (R85–R88): SIGNAL, WINDOW_PUT, WINDOW_GET, COPY. -/

namespace Sys2Proof.Machine

/-! ### Work lists in the tile store (R52) -/

/-- A unit's list ends: nothing is in progress on it (R167 step 9). -/
def endList (s : State) (t u : Nat) : State := modUnit s t u (fun x => { waiting := x.waiting })

/-- A fault stops a unit's list: the unit starts nothing more until the loss of its context takes effect (R158, R201). -/
def haltList (s : State) (t u : Nat) : State := modUnit s t u (fun x => { waiting := x.waiting, ctx := x.ctx, broken := true })

/-- A fault of an engine unit: the list stops, and the context is lost at the next boundary (R169, R330). -/
def engineFault (s : State) (t u status cause addr index : Nat) : State :=
  let x := unitOf s t u
  let node := (x.cur.map (fun st => st.node)).getD 0
  haltList (raise s x.ctx (faultOf s status cause (28 * t + u) (BitVec.ofNat 64 addr) (fld node 32 32 ||| fld index 8 0))) t u

/-- A record error (R158, R191, R336): the list stops, the context is lost with INSTRUCTION_TRAP, cause RECORD, and the
health record logs a prompter fault. -/
def recordError (s : State) (t u index : Nat) : State :=
  let c := (unitOf s t u).ctx
  addEvent (engineFault s t u stTrap 0x10 0 index) 0x03 ((tilePos s t).getD 0) [c, u]

/-- The next start of a unit becomes its list in progress (R155, R168): header word 0 and the list's context. A unit that a
fault stopped starts nothing. -/
def takeStart (s : State) (t u : Nat) : Option (Start × W64 × State) :=
  let x := unitOf s t u
  match x.cur, x.broken && (ctxOf s x.ctx).fault.isSome, x.waiting with
  | none, false, st :: rest =>
    let w0 := tileWord s t st.desc
    some (st, w0, modUnit s t u (fun _ => { waiting := rest, cur := some st, ctx := bits w0 59 48, count := bits w0 47 40 }))
  | _, _, _ => none

/-- A tile whose engines run: bound, in service, its partition in ACTIVE, IDLE apart. -/
def tileRuns (s : State) (t : Nat) : Bool := decide (t < 72) && tileServes s t

/-- MOVER_WORK_LIST (R334): the unit takes its next list. -/
def execMoverWorkList (t u : Nat) (s : State) : Out :=
  if !tileRuns s t then .next s
  else match takeStart s t (24 + u) with
    | none => .next s
    | some (_, w0, s1) =>
      .next (if bits w0 47 40 = 0 || bits w0 47 40 > 64 then recordError s1 t (24 + u) 0 else s1)

/-! ### Transfers (R335–R344) -/

/-- Signed strides of three words. -/
def strideWords (ws : List W64) (i : Nat) : List Int :=
  [signed 48 (bits (wordAt ws i) 47 0), signed 48 (bits (wordAt ws (i + 1)) 47 0), signed 48 (bits (wordAt ws (i + 2)) 47 0)]

def countWords (ws : List W64) (i : Nat) : List Nat :=
  [bits (wordAt ws i) 63 32, bits (wordAt ws i) 31 0, bits (wordAt ws (i + 1)) 63 32, bits (wordAt ws (i + 1)) 31 0]

/-- CHECK_MODE of a record or packet in the order of R335: 0 NONE, 1 APPEND, 2 VERIFY, 3 COMPUTE. -/
def recordTransfer (s : State) (t c : Nat) (ws : List W64) : Transfer :=
  let w0 := wordAt ws 0
  let poly := bits w0 58 57
  let runAt := bits (wordAt ws 12) 63 32
  { ctx := c, srcKind := bits w0 63 62, dstKind := bits w0 61 61, mode := bits w0 60 59, poly, save := bit w0 55
    srcTile := bits w0 47 40, dstTile := bits w0 39 32, src := bits (wordAt ws 1) 54 0, dst := bits (wordAt ws 2) 54 0
    counts := countWords ws 3, srcStride := strideWords ws 5, dstStride := strideWords ws 8, pattern := wordAt ws 11, runAt
    running := if bit w0 56 then (tileWord s t runAt).toNat % 2 ^ crcWidth poly else crcInit poly, tile := t }

/-- Span of a stream's offsets from its base: least and greatest byte (R336, R346). -/
def spanOf (counts : List Nat) (strides : List Int) : Int × Int :=
  let ext := fun (i : Nat) => ((counts.getD (i + 1) 1 : Int) - 1) * strides.getD i 0
  let lo := min 0 (ext 0) + min 0 (ext 1) + min 0 (ext 2)
  let hi := max 0 (ext 0) + max 0 (ext 1) + max 0 (ext 2) + (counts.getD 0 1 : Int) - 1
  (lo, hi)

/-- A tile-store end runs past 24 MiB (R336). -/
def pastTile (base : Nat) (counts : List Nat) (strides : List Int) : Bool :=
  let sp := spanOf counts strides
  decide ((base : Int) + sp.1 < 0) || decide ((base : Int) + sp.2 ≥ tileSize)

/-- A transfer record breaks R335 or R336. -/
def badRecord (s : State) (t : Nat) (ws : List W64) : Bool :=
  let x := recordTransfer s t 0 ws
  let w0 := wordAt ws 0
  x.srcKind == 3 || x.counts.any (· == 0) || decide (streamLen x > 2 ^ 40) || x.mode == 1 || x.mode == 2 ||
    (x.srcKind == 1 && (pastTile x.src x.counts x.srcStride || (tilePos s x.srcTile).isNone || decide (x.srcTile ≥ 72))) ||
    (x.dstKind == 1 && (pastTile x.dst x.counts x.dstStride || (tilePos s x.dstTile).isNone || decide (x.dstTile ≥ 72))) ||
    ((bit w0 56 || bit w0 55 || x.mode == 3) && decide (x.runAt + 8 > tileSize)) ||
    -- reserved bits
    bits w0 54 48 ≠ 0 || bits w0 31 0 ≠ 0 || bits (wordAt ws 1) 63 55 ≠ 0 || bits (wordAt ws 2) 63 55 ≠ 0 ||
    ([5, 6, 7, 8, 9, 10].any (fun i => bits (wordAt ws i) 63 48 != 0)) || bits (wordAt ws 12) 31 0 ≠ 0 ||
    wordAt ws 13 ≠ 0 || wordAt ws 14 ≠ 0 || wordAt ws 15 ≠ 0

/-- TRANSFER_RECORD (R337): the next record of a mover's list starts, none being in progress; after the last the list ends. -/
def execTransferRecord (t u : Nat) (s : State) : Out :=
  let x := unitOf s t (24 + u)
  match x.cur with
  | none => .next s
  | some st =>
    if !tileRuns s t || (tget none s.eng.mover (4 * t + u)).isSome then .next s
    else if x.recNo ≥ x.count then .next (endList s t (24 + u))
    else
      let ws := tileWords s t (st.desc + 64 + 128 * x.recNo) 16
      if badRecord s t ws then .next (recordError s t (24 + u) x.recNo)
      else
        let s1 := modUnit s t (24 + u) (fun x => { x with recNo := x.recNo + 1 })
        .next { s1 with eng := { s1.eng with mover := tput none s1.eng.mover (4 * t + u) (some (recordTransfer s t x.ctx ws)) } }

/-- A check value follows the stream as one further tile (R338): APPEND and VERIFY without RUN_SAVE. -/
def checkTile (t : Transfer) : Bool := (t.mode == 1 || t.mode == 2) && !t.save

/-- The check unit runs over the stream (R344). -/
def checking (t : Transfer) : Bool := t.mode != 0 || t.save

/-- What a transfer tile meets. -/
inductive Moved where
  /-- the tile is done; the transfer goes on as given -/
  | done (s : State) (t : Transfer)
  /-- data of a host or another device is awaited, or the port's buffer is full -/
  | waits (s : State) (t : Transfer)
  | fault (s : State) (status addr : Nat)
  /-- an uncorrectable burst (R302) -/
  | burst (s : State) (addr : Nat)

/-- Some bytes of a place, as physical pieces. -/
def placePieces : List (Nat × Nat) → Nat → Nat → List (Nat × Nat)
  | [], _, _ => []
  | (pa, len) :: rest, off, n =>
    if n = 0 then []
    else if len ≤ off then placePieces rest (off - len) n
    else (pa + off, min n (len - off)) :: placePieces rest 0 (n - (len - off))

/-- Physical pieces of one end of some stream bytes; a tile-store end and an INTERNAL tensor have no translation. -/
def endPieces (s : State) (c kind tile : Nat) (place runs : List (Nat × Nat)) (need : Need) : Access :=
  if !place.isEmpty then .ok place
  else if kind = 1 then .ok (runs.map (fun r => (tileBase s tile + r.1, r.2)))
  else if kind ≥ 2 then .ok [] else resolveRuns s c runs need

/-- The lowest address of one end that does not translate (R331). -/
def endUnmapped (s : State) (c kind : Nat) (place runs : List (Nat × Nat)) (need : Need) : Option Nat :=
  if kind = 0 && place.isEmpty then
    least (((runs.flatMap (fun r => pagesOf r.1 r.2)).filter (fun x => (translate s c x.1 need).isNone)).map (fun x => x.1))
  else none

/-- The foreign pieces of a source are asked for (R364, R420): `job` names the transfer. -/
def askPieces (s : State) (job : Job) (c : Nat) (x : Option Nat) (ps : List (Nat × Nat × Nat)) : State :=
  ps.foldl (fun s p =>
    match hostOf p.2.1 with
    | some (h, bus) => askHost s h bus p.2.2 c (fun o => .tile job (p.1 + o))
    | none => match x with
      | some n =>
        let r := remoteAt s p.2.1
        sendReads s n r.1.gid r.1.window r.1.epoch r.2 p.2.2
      | none => s) s

/-- Bytes of one source piece: local memory, or what has been fetched of it; a byte that no answer brought is none. -/
def pieceBytes (s : State) (f : Table (Nat × List Byte)) (p : Nat × Nat × Nat) : List (Option Byte) :=
  if foreign p.2.1 then
    (upFrom p.1 p.2.2).map (fun o =>
      (f.find? (fun kv => decide (kv.1 ≤ o) && decide (o < kv.1 + kv.2.1))).bind (fun kv => kv.2.2[o - kv.1]?))
  else (if inTileStore p.2.1 then tgetN 0 s.mem.cells p.2.1 p.2.2 else readBytes s p.2.1 p.2.2).map some

/-- Every foreign byte has been answered. -/
def fetched (f : Table (Nat × List Byte)) (ps : List (Nat × Nat × Nat)) : Bool :=
  ps.all (fun p => !foreign p.2.1 || (upFrom p.1 p.2.2).all (fun o =>
    f.any (fun kv => decide (kv.1 ≤ o) && decide (o < kv.1 + kv.2.1))))

/-- Bytes written to one destination piece; bytes of a refused piece are left unwritten (R422). -/
def putPiece (s : State) (pa : Nat) (relaxed : Bool) (bs : List (Option Byte)) : State :=
  let whole := bs.filterMap id
  let put := fun (s : State) (pa : Nat) (bs : List Byte) => match hostOf pa with
    | some (h, bus) => postWrite s h bus bs relaxed
    | none => if inTileStore pa then writeStore s pa bs else writeBytes s pa bs
  if whole.length = bs.length then put s pa whole
  else (bs.zip (upFrom pa bs.length)).foldl (fun s x => match x.1 with
    | some b => put s x.2 [b]
    | none => s) s

/-- Bytes written to the pieces of a destination: local, tile store, host, or packets of transfer `x` (R420). -/
def putPieces (relaxed : Bool) (x : Nat) : State → List (Nat × Nat) → List (Option Byte) → State
  | s, [], _ => s
  | s, (pa, n) :: rest, bs =>
    let s1 := if inRemote pa then
        let r := remoteAt s pa
        sendData s x r.1.gid r.1.window r.1.epoch r.2 ((bs.take n).map (fun b => b.getD 0)) false
      else putPiece s pa relaxed (bs.take n)
    putPieces relaxed x s1 rest (bs.drop n)

/-- The data of a transfer has ended: the last packet of the part that went to another device leaves (R420). -/
def endData (s : State) (x : Option Nat) : State :=
  match x with
  | some n => sendTail s n true
  | none => s

/-- The host ports of a destination take the bytes (R367). -/
def portsTake (s : State) (ps : List (Nat × Nat)) : Bool :=
  [0, 1].all (fun h => portTakes s h ((ps.filter (fun p => (hostOf p.1).any (fun x => x.1 == h))).map (fun p => p.2)).sum)

/-- Stream bytes of a pattern (R336). -/
def patternBytes (w : W64) (off n : Nat) : List (Option Byte) :=
  (upFrom off n).map (fun i => some (w.extractLsb' (8 * (i % 8)) 8))

/-- The transfer numbers that foreign ends need (R420, log 25): one for reads, one for writes. -/
def withXfers (s : State) (t : Transfer) (owner : Nat × Nat) (kind : Nat) (src dst : List (Nat × Nat)) : State × Transfer :=
  let new := fun (s : State) (get : Bool) (pa : Nat) =>
    let x := freeXfer s
    let r := remoteAt s pa
    (modXfer s x (fun _ => { used := true, ctx := t.ctx, gid := r.1.gid, window := r.1.window, epoch := r.1.epoch, offset := r.2
                             len := streamLen t, get, started := beat s, owner, kind, waiting := true }), x)
  let (s1, t1) := match src.find? (fun p => inRemote p.1), t.xferIn with
    | some p, none => let n := new s true p.1; (n.1, { t with xferIn := some n.2 })
    | _, _ => (s, t)
  match dst.find? (fun p => inRemote p.1), t1.xfer with
  | some p, none => let n := new s1 false p.1; (n.1, { t1 with xfer := some n.2 })
  | _, _ => (s1, t1)

/-- One data tile of a transfer (R331, R338): every page is translated before a byte moves; reads of other memory are
awaited; the bytes are written, or sent as packets of the run's own transfer, and taken by the check unit. -/
def moveTile (s : State) (job : Job) (owner : Nat × Nat) (kind : Nat) (t : Transfer) : Moved :=
  let n := tileLen t
  let src := if t.srcKind ≥ 2 then [] else srcRuns t t.at_ n
  let dst := dstRuns t t.at_ n
  let srcHere := placePieces t.srcPlace t.at_ n
  let dstHere := placePieces t.dstPlace t.at_ n
  match (endUnmapped s t.ctx t.srcKind srcHere src needRead).orElse (fun _ => endUnmapped s t.ctx t.dstKind dstHere dst needWrite) with
  | some a => .fault s stTranslation a
  | none =>
    match endPieces s t.ctx t.srcKind t.srcTile srcHere src needRead with
    | .bad st a => .fault s st a
    | .ok srcP =>
      match badPiece s (srcP.filter (fun p => cacheable p.1)) with
      | some a => .burst s a
      | none =>
        match endPieces s t.ctx t.dstKind t.dstTile dstHere dst needWrite with
        | .bad st a => .fault s st a
        | .ok dstP =>
          match badPartial s (dstP.filter (fun p => cacheable p.1)) with
          | some a => .burst s a
          | none =>
            let (s1, t1) := withXfers s t owner kind srcP dstP
            let ps := withOffsets 0 srcP
            let ext := ps.filter (fun p => foreign p.2.1)
            match t1.fetch with
            | none =>
              if ext.isEmpty then finishTile s1 t1 n ps dstP []
              else .waits (askPieces s1 job t.ctx t1.xferIn ext) { t1 with fetch := some [] }
            | some f => if fetched f ext then finishTile s1 t1 n ps dstP f else .waits s1 t1
where
  finishTile (s : State) (t : Transfer) (n : Nat) (ps : List (Nat × Nat × Nat)) (dstP : List (Nat × Nat)) (f : Table (Nat × List Byte)) : Moved :=
    if !portsTake s dstP || (match job with
      | .sched tile _ => !transferGranted s tile (ps.map (fun p => p.2)) dstP
      | _ => false) then .waits s t
    else
      let bs := if t.srcKind = 3 then ((t.hand.drop t.at_).take n).map some
        else if t.srcKind = 2 then patternBytes t.pattern t.at_ n else ps.flatMap (pieceBytes s f)
      let ends := decide (t.at_ + n ≥ streamLen t) && !(checkTile t && t.mode == 1)
      let s1 := match t.dstKind, job with
        | 2, .run x =>
          let v := xferOf s x
          sendData s x v.gid v.window v.epoch (v.offset + t.at_) (bs.map (fun b => b.getD 0)) ends
        | _, _ =>
          let s0 := putPieces true (t.xfer.getD 0) s dstP bs
          if ends then endData s0 t.xfer else s0
      let taken := ((bs.zip (upFrom t.at_ n)).map (fun b => b.1.getD (Config.lostByte t.ctx b.2))).take ((t.checkLen.getD (t.at_ + n)) - t.at_)
      .done s1 { t with
        at_ := t.at_ + n, fetch := none
        running := if checking t then crcRun t.poly t.running taken else t.running }

/-- The tile of the check value (R338, R341, R344): APPEND writes it behind the stream, not relaxed; VERIFY reads the
stored value behind the source and compares. -/
def moveCheck (s : State) (job : Job) (owner : Nat × Nat) (kind : Nat) (t : Transfer) : Moved :=
  let w := crcBytes t.poly
  let final := t.running ^^^ crcXor t.poly
  let after := fun (runs : List (Nat × Nat)) => match runs.getLast? with
    | some r => r.1 + r.2
    | none => 0
  let last := streamLen t - 1
  if t.mode = 1 then
    let runs := [(after (dstRuns t last 1), w)]
    match resolveRuns s t.ctx runs needWrite with
    | .bad st a => .fault s st a
    | .ok ps =>
      match badPartial s (ps.filter (fun p => cacheable p.1)) with
      | some a => .burst s a
      | none =>
        if !portsTake s ps then .waits s t
        else
          let (s1, t1) := withXfers s t owner kind [] ps
          .done (endData (putPieces false (t1.xfer.getD 0) s1 ps ((leBytes w final).map some)) t1.xfer) { t1 with checked := true }
  else
    let runs := [(after (srcRuns t last 1), w)]
    match resolveRuns s t.ctx runs needRead with
    | .bad st a => .fault s st a
    | .ok ps0 =>
      match badPiece s (ps0.filter (fun p => cacheable p.1)) with
      | some a => .burst s a
      | none =>
        let ps := withOffsets 0 ps0
        let ext := ps.filter (fun p => foreign p.2.1)
        let judge := fun (f : Table (Nat × List Byte)) =>
          let stored := leNat (((ps.flatMap (pieceBytes s f)).zip (upFrom (streamLen t) w)).map (fun b => b.1.getD (Config.lostByte t.ctx b.2)))
          Moved.done s { t with checked := true, fetch := none, mismatch := decide (stored ≠ final) }
        match t.fetch with
        | none =>
          let (s1, t1) := withXfers s t owner kind ps0 []
          if ext.isEmpty then judge [] else .waits (askPieces s1 job t1.ctx t1.xferIn ext) { t1 with fetch := some [] }
        | some f => if fetched f ext then judge f else .waits s t

/-- The next tile of a transfer, data or check. -/
def moveNext (s : State) (job : Job) (owner : Nat × Nat) (kind : Nat) (t : Transfer) : Moved :=
  if t.at_ < streamLen t then moveTile s job owner kind t else moveCheck s job owner kind t

/-- Nothing of the transfer is left to move. -/
def moveOver (t : Transfer) : Bool := decide (streamLen t ≤ t.at_) && (t.checked || !checkTile t)

/-- A scheduled record's tile (R337, R343): at its end the running or final value goes to RUN_AT. -/
def schedTile (s : State) (t m : Nat) (x : Transfer) : State :=
  let put := fun (s : State) (y : Option Transfer) => { s with eng := { s.eng with mover := tput none s.eng.mover (4 * t + m) y } }
  let stop := fun (s : State) => { s with eng := { s.eng with mover := terase s.eng.mover (4 * t + m) } }
  match moveNext s (.sched t m) (t, m) 4 x with
  | .waits s1 y => put s1 (some y)
  | .fault s1 st a => stop (engineFault s1 t (24 + m) st 0 a ((unitOf s1 t (24 + m)).recNo - 1))
  | .burst s1 a => stop (haltList (meetBad s1 (a / 32) [(x.ctx, 28 * t + 24 + m)]) t (24 + m))
  | .done s1 y =>
    if moveOver y then
      let v := if y.save then y.running else y.running ^^^ crcXor y.poly
      put (if y.save || y.mode == 3 then writeTile s1 t y.runAt (leBytes 8 v) else s1) none
    else put s1 (some y)

/-- The movers' bytes of a copy command are counted for its energy (R437, R444). -/
def countMoved (s : State) (t q n : Nat) : State := { s with eng := { s.eng with moved := s.eng.moved ++ [(t, q, n)] } }

/-- A copy command's tile (R345): a fault carries the agent number of its mover. -/
def copyTile (s : State) (q : Nat) (x : Transfer) : State :=
  let put := fun (s : State) (y : Transfer) => { s with eng := { s.eng with copies := tput none s.eng.copies q (some y) } }
  match headCmd (queueOf s q) with
  | none => s
  | some cm =>
    if cm.stage ≠ 1 || cm.fin.isSome || x.ended.isSome || !tileServes s x.tile || (ctxOf s x.ctx).fault.isSome then s
    else match moveNext s (.cmd q) (q, 0) 1 x with
      | .waits s1 y => put s1 y
      | .fault s1 st a =>
        raise (modCmd s1 q cm.idx (fun c => { c with stage := stageFaulted })) x.ctx
          (faultOf s1 st 0 (28 * x.tile + 24 + q % 4) (BitVec.ofNat 64 a) 0)
      | .burst s1 a => modCmd (meetBad s1 (a / 32) [(x.ctx, 28 * x.tile + 24 + q % 4)]) q cm.idx (fun c => { c with stage := stageFaulted })
      | .done s1 y =>
        let s2 := countMoved s1 x.tile q (y.at_ - x.at_)
        if moveOver y then
          let s3 := match y.xferIn with
            | some n => endXfer s2 n
            | none => s2
          put s3 { y with ended := some s.clk.cue }
        else put s2 y

/-- The SIGNAL packet of a WINDOW_PUT, after its data (R420). -/
def sendSignal (s : State) (x : Nat) : State :=
  let v := xferOf s x
  match v.signal with
  | some (sw, so, val) =>
    sendAll s s.clk.cueMaster
      [(({ ty := 3, dst := v.gid, src := s.net.gid, window := sw, offset := so, epoch := v.epoch, len := 8, xfer := x, seq := v.sent } : Head).words,
        leBytes 8 val.toNat)]
  | none => s

/-- The check value of a run's COPY goes to CHECK_OUT (R85). -/
def putCheckOut (s : State) (y : Transfer) : State :=
  if y.mode ≠ 3 then s
  else match endPieces s y.ctx 0 0 y.chkPlace [(y.runAt, crcBytes y.poly)] needWrite with
    | .ok ps =>
      let bs := leBytes (crcBytes y.poly) (y.running ^^^ crcXor y.poly)
      if ps.any (fun p => inRemote p.1) then putBytes s y.ctx ps bs else putPieces false 0 s ps (bs.map some)
    | .bad st a => houseFault s y.ctx st a

/-- A tile of a transfer of a run: a COPY that leaves the partition, or a WINDOW_PUT whose source lies outside (R85, R88).
The transfer ends with its last write, or, with another device behind it, with the answer (R113). -/
def runTile (s : State) (x : Nat) : State :=
  let t := xferOf s x
  if !t.used || t.kind ≠ 0 || t.get || (ctxOf s t.ctx).fault.isSome || moveOver t.data || t.data.counts.isEmpty then s
  else
    match moveNext s (.run x) (x, 0) 5 t.data with
    | .waits s1 y => modXfer s1 x (fun t => { t with data := y })
    | .fault s1 st a => modXfer (houseFault s1 t.ctx st a) x (fun t => { t with used := false })
    | .burst s1 a => modXfer (meetBad s1 (a / 32) [(t.ctx, houseAgent)]) x (fun t => { t with used := false })
    | .done s1 y =>
      let s2 := modXfer s1 x (fun t => { t with data := y })
      if !moveOver y then s2
      else
        let s3 := match y.xferIn with
          | some n => { s2 with net := { s2.net with xfers := terase s2.net.xfers n } }
          | none => s2
        if y.dstKind = 2 then sendSignal s3 x
        else
          let s4 := putCheckOut s3 y
          if y.xfer.isSome then s4 else endXfer s4 x

/-- TRANSFER_TILE (R338): one tile of a scheduled record, a copy command, or a run's COPY that leaves the partition. -/
def execTransferTile (job : Job) (s : State) : Out :=
  match job with
  | .sched t m => match tget none s.eng.mover (4 * t + m) with
    | some x => if tileRuns s t && (ctxOf s x.ctx).fault.isNone then .next (schedTile s t m x) else .next s
    | none => .next s
  | .cmd q => match tget none s.eng.copies q with
    | some x => .next (copyTile s q x)
    | none => .next s
  | .run x => .next (runTile s x)

/-! ### Copy commands (R345, R346, R391) -/

/-- The transfer of a copy packet: `op` 0x10 COPY, 0x11 FILL, 0x12 COPY_CHECKED. -/
def packetTransfer (c tile op : Nat) (ws : List W64) : Transfer :=
  let w11 := wordAt ws 11
  let check := op == 0x12
  let poly := if check then bits w11 61 60 else 0
  { ctx := c, srcKind := if op = 0x11 then 2 else 0, dstKind := 0, mode := if check then bits w11 63 62 else 0, poly
    save := check && bit w11 58, src := bits (wordAt ws 1) 54 0, dst := bits (wordAt ws 2) 54 0
    counts := countWords ws 3, srcStride := strideWords ws 5, dstStride := strideWords ws 8
    pattern := if op = 0x11 then w11 else 0
    running := if check && bit w11 59 then (wordAt ws 12).toNat % 2 ^ crcWidth poly else crcInit poly, tile }

/-- Footprint of one end, check bytes apart: first and last byte (R346). -/
def footprint (base : Nat) (counts : List Nat) (strides : List Int) : Int × Int :=
  let sp := spanOf counts strides
  ((base : Int) + sp.1, (base : Int) + sp.2)

/-- The check bytes behind the last byte of a stream. -/
def checkSpan (t : Transfer) (runs : List (Nat × Nat)) : Int × Int :=
  let a : Int := match runs.getLast? with
    | some r => (r.1 + r.2 : Nat)
    | none => 0
  (a, a + crcBytes t.poly - 1)

def spansMeet (a b : Int × Int) : Bool := decide (a.1 ≤ b.2) && decide (b.1 ≤ a.2)

/-- A remote-window end: a page at either end of the stream lies behind a send slot (log 26). -/
def remoteEnd (s : State) (t : Transfer) : Bool :=
  let isR := fun (need : Need) (runs : List (Nat × Nat)) => runs.any (fun r => (translate s t.ctx r.1 need).any inRemote)
  let last := streamLen t - 1
  (t.srcKind == 0 && isR needRead (srcRuns t 0 1 ++ srcRuns t last 1)) || isR needWrite (dstRuns t 0 1 ++ dstRuns t last 1)

/-- The first packet word at fault of a copy command (R346, R386): a zero count leaves no footprint; footprints that meet are word 1. -/
def copyFormat (s : State) (t : Transfer) : Option Nat :=
  match (t.counts.zip (upFrom 0 4)).find? (fun x => x.1 == 0) with
  | some x => some (3 + x.2 / 2)
  | none =>
    let n := streamLen t
    let srcs := footprint t.src t.counts t.srcStride :: (if t.mode = 2 && !t.save then [checkSpan t (srcRuns t (n - 1) 1)] else [])
    let dsts := footprint t.dst t.counts t.dstStride :: (if t.mode = 1 && !t.save then [checkSpan t (dstRuns t (n - 1) 1)] else [])
    if t.srcKind ≠ 2 && srcs.any (fun a => dsts.any (spansMeet a)) then some 1
    else if n > 2 ^ 40 || (n > 2 ^ 30 && remoteEnd s t) then some 3
    else none

/-- In-service logical tiles of a partition, ascending (R345). -/
def liveTiles (s : State) (p : Nat) : List Nat := (partTiles s p).filter (tileServes s)

/-- A copy command starts (R345): on mover q mod 4 of the tile at place q mod n. -/
def startCopy (s : State) (q op : Nat) : State :=
  onCommand s q op (fun cm =>
    let c := (queueOf s q).ctx
    let tiles := liveTiles s (ctxOf s c).part
    let t := packetTransfer c (tiles.getD (q % tiles.length) 0) op cm.words
    match copyFormat s t with
    | some w => reject s q cm stBadFormat w
    | none =>
      if tiles.isEmpty then reject s q cm stNoResource 0
      else
        let s1 := modCmd s q cm.idx (fun x => { x with stage := 1 })
        { s1 with eng := { s1.eng with copies := tput none s1.eng.copies q (some t) } })

/-- COPY (R391). -/
def execCopy (q : Nat) (s : State) : Out := .next (startCopy s q 0x10)
/-- FILL (R391). -/
def execFill (q : Nat) (s : State) : Out := .next (startCopy s q 0x11)
/-- COPY_CHECKED (R347, R391). -/
def execCopyChecked (q : Nat) (s : State) : Out := .next (startCopy s q 0x12)

/-- COPY_COMPLETE (R391): at the first boundary after the last write and check value have been performed. -/
def execCopyComplete (q : Nat) (s : State) : Out :=
  match headCmd (queueOf s q) with
  | some cm => if cm.stage = 1 && cm.fin.isNone && copyDone s q then .next (completeCopy s q cm) else .next s
  | none => .next s

/-! ### Nodes of a run that no engine carries out (R75, R86–R88) -/

/-- Nodes before a node that are not complete. -/
def earlierDone (s : State) (p : Nat) (r : Run) (node : Nat) : Bool := (upFrom 0 node).all (nodeDone s p r)

/-- A run that has begun, not left, and whose context is not being lost, with the node at its turn. -/
def nodeDue (s : State) (p run node kind : Nat) : Option (Run × Script × List W64) :=
  match runOf s p run with
  | none => none
  | some r =>
    let sc := scriptOf s p r.slot
    match sc.nodes[node]? with
    | some ws =>
      if nodeKind ws = kind && r.begun && !r.done.contains node && (ctxOf s r.ctx).fault.isNone && partRuns s p then some (r, sc, ws) else none
    | none => none

def markDone (s : State) (p run node : Nat) : State := modRun s p run (fun r => { r with done := r.done ++ [node] })

/-- SIGNAL_NODE (R87, R389): once every earlier node has completed, the fence is raised to max(current, VALUE). A fence that lies in a
host or remote window loses the context with TRANSLATION_FAULT (DESIGN CHOICE, log 124: R388 names a status for commands only). -/
def execSignalNode (p run node : Nat) (s : State) : Out :=
  match nodeDue s p run node 7 with
  | none => .next s
  | some (r, _, ws) =>
    if !earlierDone s p r node then .next s
    else match fenceAt s r.ctx (bits (wordAt ws 1) 54 0) needSignal with
      | .at pa => .next (markDone (raiseFence s pa (wordAt ws 2)).1 p run node)
      | .object => .next (houseFault s r.ctx stTranslation (bits (wordAt ws 1) 54 0))
      | .fault st a => .next (houseFault s r.ctx st a)
      | .burst a => .next (meetBad s (a / 32) [(r.ctx, houseAgent)])

/-- The new transfer of a window node; the number is the device's choice and must be free. -/
def windowXfer (s : State) (p : Nat) (r : Run) (node : Nat) (ws : List W64) (len : Nat) (get : Bool) : Xfer :=
  { used := true, ctx := r.ctx, gid := bits (wordAt ws 1) 47 24, window := bits (wordAt ws 1) 23 12, epoch := bits (wordAt ws 2) 63 48
    offset := bits (wordAt ws 2) 39 0, len, get
    signal := if !get && bit (wordAt ws 3) 63 then some (bits (wordAt ws 3) 51 40, bits (wordAt ws 3) 39 0, wordAt ws 4) else none
    started := beat s, owner := (p, r.id), kind := 0, node, waiting := true }

def addXfer (s : State) (p run x : Nat) (v : Xfer) : State :=
  modRun (modXfer s x (fun _ => v)) p run (fun r => { r with xfers := r.xfers ++ [x] })

/-- The nodes before a node that write its source had completed at the last boundary: it starts in the cue after (R88). -/
def sourceReady (r : Run) (sc : Script) (node source : Nat) : Bool :=
  (upFrom 0 node).all (fun k => !(sc.uses.getD k ([], [])).2.contains source || r.ready.contains k)

/-- Some page of a tensor, its scales included, lies in the window of a host or of another device (R85). -/
def leaves (s : State) (c : Nat) (ts : List W64) : Bool :=
  (tensorPages ts).any (fun va => (translate s c va 0).any foreign)

/-- WINDOW_PUT (R86, R88, R420): the packed elements leave as WRITE packets, then a SIGNAL if asked; a source outside the
device's memory is read tile by tile. -/
def execWindowPut (p run node xfer : Nat) (s : State) : Out :=
  match nodeDue s p run node 5 with
  | none => .next s
  | some (r, sc, ws) =>
    let t := bits (wordAt ws 1) 63 48
    let ts := sc.tensors.getD t []
    let n := tensorPacked ts
    if (xferOf s xfer).used || !sourceReady r sc node t then .next s
    else
      let v := windowXfer s p r node ws n false
      if leaves s r.ctx ts then
        let data : Transfer := { ctx := r.ctx, dstKind := 2, counts := [n, 1, 1, 1], srcTensor := ts }
        .next (markDone (addXfer s p run xfer { v with data }) p run node)
      else match resolveRuns s r.ctx (tensorRuns ts 0 n) needRead with
        | .bad st a => .next (houseFault s r.ctx st a)
        | .ok ps => match badPiece s ps with
          | some a => .next (meetBad s (a / 32) [(r.ctx, houseAgent)])
          | none =>
            let s1 := markDone (addXfer s p run xfer v) p run node
            .next (sendSignal (sendData s1 xfer v.gid v.window v.epoch v.offset (readPieces s ps) true) xfer)

/-- WINDOW_GET (R86, R88, R420): READ_REQ packets ask for the packed elements. Its source lies in another device, so no node of the
play writes it. -/
def execWindowGet (p run node xfer : Nat) (s : State) : Out :=
  match nodeDue s p run node 6 with
  | none => .next s
  | some (r, sc, ws) =>
    let t := bits (wordAt ws 1) 63 48
    let ts := sc.tensors.getD t []
    if (xferOf s xfer).used then .next s
    else
      let v := { windowXfer s p r node ws (tensorPacked ts) true with data := { ctx := r.ctx, dstTensor := ts } }
      let s1 := markDone (addXfer s p run xfer v) p run node
      .next (sendReads s1 xfer v.gid v.window v.epoch v.offset v.len)

/-- COPY_LEAVING_PARTITION (R85, R88): a COPY that no step of the plan carries out, one with a host or remote page, runs as a
house-share transfer: its elements, then its scale bytes; the check value covers the elements. An INTERNAL end lies where the plan
placed it (R73, R101). -/
def execCopyLeavingPartition (p run node xfer : Nat) (s : State) : Out :=
  match nodeDue s p run node 4 with
  | none => .next s
  | some (r, sc, ws) =>
    let a := bits (wordAt ws 1) 63 48
    let b := bits (wordAt ws 1) 47 32
    let src := sc.tensors.getD a []
    let dst := sc.tensors.getD b []
    if (xferOf s xfer).used || !sourceReady r sc node a || !(nodeSteps sc node).isEmpty then .next s
    else
      let w0 := wordAt ws 0
      let c := bits (wordAt ws 1) 31 16
      let chk := sc.tensors.getD c []
      let n := tensorPacked src + tensorScales src
      let data : Transfer := {
        ctx := r.ctx, counts := [n, 1, 1, 1], srcTensor := src, dstTensor := dst, checkLen := some (tensorPacked src)
        poly := bits w0 35 34, mode := if bits w0 33 32 = 1 then 3 else 0, running := crcInit (bits w0 35 34), runAt := tensorVa chk
        srcPlace := placeOf sc a, dstPlace := placeOf sc b, chkPlace := placeOf sc c }
      let v : Xfer := { used := true, ctx := r.ctx, len := n, started := beat s, owner := (p, run), kind := 0, node, data }
      .next (markDone (addXfer s p run xfer v) p run node)

end Sys2Proof.Machine
end

