-- ==== Sys2Proof/Machine/Issue.lean ====
section
/-! DEFINITION. Group processors and cores as issuers of Xichai instructions: work lists and blocks (R197–R203), the choice of
an issue (R205, R206), barriers and collectives as states of threads (R207, R208, R211, R212), traps (R218, R245–R249). -/

namespace Sys2Proof.Machine

/-! ### Work lists and blocks (R197–R203) -/

/-- GP_WORK_LIST (R197, R219): the group processor takes its next list, none being in progress. -/
def execGpWorkList (t u : Nat) (s : State) : Out :=
  if !tileRuns s t || decide (u ≥ 16) then .next s
  else match takeStart s t (8 + u) with
    | none => .next s
    | some (_, w0, s1) =>
      let s2 := modUnit s1 t (8 + u) (fun x => { x with legacy := bit w0 39, debug := bit w0 38 })
      .next (if bits w0 47 40 = 0 || bits w0 47 40 > 16 then recordError s2 t (8 + u) 0 else s2)

/-- The words of the block record that a list has reached. -/
def blockWords (s : State) (t u : Nat) : Option (List W64) :=
  let x := unitOf s t (8 + u)
  match x.cur with
  | some st => if x.recNo < x.count then some (tileWords s t (st.desc + 64 + 64 * x.recNo) 8) else none
  | none => none

def blockOf (ws : List W64) : Block :=
  { codeAt := bits (wordAt ws 0) 63 32, codeBytes := bits (wordAt ws 0) 31 0, threads := bits (wordAt ws 1) 31 16
    cluster := bits (wordAt ws 1) 15 8, rank := bits (wordAt ws 1) 7 4, block := bits (wordAt ws 2) 63 32
    blocks := bits (wordAt ws 2) 31 0, localBytes := bits (wordAt ws 4) 63 32, rankGp := wordAt ws 5, node := bits (wordAt ws 6) 63 32 }

/-- GP of a rank of a cluster (R198). -/
def rankGp (b : Block) (r : Nat) : Nat := bits b.rankGp (4 * r + 3) (4 * r)

/-- GPs of a block's cluster. -/
def clusterGps (b : Block) : List Nat := (upFrom 0 b.cluster).map (rankGp b)

/-- A block record is in error (R201). -/
def blockError (ws : List W64) : Bool :=
  let b := blockOf ws
  let entry := bits (wordAt ws 1) 63 32
  let argBytes := bits (wordAt ws 3) 31 16
  b.threads < 32 || b.threads > 256 || b.threads % 32 != 0 || b.cluster == 0 || b.cluster > 16 || decide (b.rank ≥ b.cluster) ||
    (clusterGps b).eraseDups.length != (clusterGps b).length || decide (entry ≥ b.codeBytes) ||
    decide (b.localBytes < argBytes) || b.localBytes > 196608 || decide (b.codeAt + b.codeBytes > tileSize) ||
    decide (bits (wordAt ws 3) 63 32 + argBytes > tileSize)

/-- Another block of the cluster that a GP last held still runs, so its local memory is kept (R203). -/
def clusterAlive (s : State) (t u : Nat) : Bool :=
  let b := (gpOf s t u).blk
  b.cluster > 1 && (clusterGps b).any (fun v =>
    let y := gpOf s t v
    y.running && y.blk.node == b.node && y.blk.block - y.blk.rank == b.block - b.rank)

/-- One block begins (R200): registers, predicates and local memory are set, the L1 holds no line. -/
def releaseBlock (s : State) (t u : Nat) (ws : List W64) : State :=
  let b := blockOf ws
  let entry := bits (wordAt ws 1) 63 32
  let args := tileBytes s t (bits (wordAt ws 3) 63 32) (bits (wordAt ws 3) 31 16)
  let s1 := modGp s t u (fun g =>
    { running := true, blk := b, lead := g.lead, mem := tputN 0 [] 0 args
      threads := tputN {} [] 0 ((upFrom 0 b.threads).map (fun _ => ({ pc := entry } : Thread))) })
  { s1 with coh := { s1.coh with
      l1 := terase s1.coh.l1 (16 * t + u)
      waiters := s1.coh.waiters.filter (fun v => v.who != .gp t u) } }

/-- The list on a GP may release its block: a record is reached, none runs, and the local memory of an older cluster is
free. -/
def blockDue (s : State) (t u : Nat) : Option (List W64) :=
  if (gpOf s t u).running || clusterAlive s t u then none else blockWords s t u

/-- BLOCK_RELEASE (R199, R200, R201): the next block's threads start together at ENTRY; the blocks of a cluster release in
one cycle. -/
def execBlockRelease (t u : Nat) (s : State) : Out :=
  if !tileRuns s t || decide (u ≥ 16) then .next s
  else match blockDue s t u with
    | none => .next s
    | some ws =>
      if blockError ws then .next (recordError s t (8 + u) (unitOf s t (8 + u)).recNo)
      else
        let b := blockOf ws
        let peers := (clusterGps b).map (fun v => (v, blockDue s t v))
        let same := fun (o : Option (List W64)) => match o with
          | some vs => (blockOf vs).node == b.node && (blockOf vs).block - (blockOf vs).rank == b.block - b.rank &&
              (blockOf vs).cluster == b.cluster
          | none => false
        if b.cluster = 1 then .next (releaseBlock s t u ws)
        else if !peers.all (fun p => same p.2) then .next s
        else match peers.find? (fun p => blockError (p.2.getD [])) with
          | some p => .next (recordError s t (8 + p.1) (unitOf s t (8 + p.1)).recNo)
          | none => .next (peers.foldl (fun s p => releaseBlock s t p.1 (p.2.getD [])) s)

/-! ### Traps -/

/-- A trap of a group processor stops its block in that cycle; the context is lost at the next boundary (R218, R246). Threads
that wait with a store or atomic issued before keep it; the others end. -/
def gpTrap (s : State) (t g status cause : Nat) (addr : W64) (pc : Nat) : State :=
  let x := unitOf s t (8 + g)
  let node := (gpOf s t g).blk.node
  let s1 := raise s x.ctx (faultOf s status cause (28 * t + 8 + g) addr (fld node 32 32 ||| fld pc 32 0))
  let still := (threadsOf (gpOf s t g)).filter (storesStill s t (gpOf s t g))
  modGp (forgetGp (haltList s1 t (8 + g)) t g) t g (fun y =>
    { y with running := false, stopped := true, halted := 0, stepping := 0
             threads := (y.threads.filter (fun kv => still.contains kv.1)) })

/-- The status of a trap cause on a group processor (R245). -/
def causeStatus (cause : Nat) : Nat :=
  if cause = 0x20 then stTranslation else if cause = 0x21 then stOwner else if cause = 0x22 then stCollective else stTrap

/-- MODE bits (R250). -/
def modeSup : Nat := 0
def modeIen : Nat := 1
def modeInTrap : Nat := 2
def modePsup : Nat := 3
def modePien : Nat := 4

/-- MODE from its fields. -/
def modeWord (sup ien inTrap psup pien : Bool) : BitVec 5 :=
  (if sup then 1 else 0) ||| (if ien then 2 else 0) ||| (if inTrap then 4 else 0) ||| (if psup then 8 else 0) ||| (if pien then 16 else 0)

/-- A core takes a trap (R248): saved pc, cause, address and mode, supervisor with interrupts off, pc at the vector; in a
trap handler it halts instead (R249). Translation and owner causes lose the context (R247). -/
def coreTrap (s : State) (c cause : Nat) (addr : W64) (pc : Nat) : State :=
  let x := coreOf s c
  let s := { s with coh := { s.coh with waiters := s.coh.waiters.filter (fun v => v.who != .core c) } }
  let s1 := if cause = 0x20 || cause = 0x21 then
      raise s x.ctx (faultOf s (causeStatus cause) cause (2016 + c) addr (BitVec.ofNat 64 pc)) else s
  if bit x.mode modeInTrap then
    addEvent (modCore s1 c (fun x => { x with halted := true })) 0x04 (80 + c / 16) [c, x.tcause, x.tpc]
  else
    modCore s1 c (fun x => { x with
      tpc := pc % 2 ^ 55, tcause := cause, taddr := addr, pc := x.tvec
      mode := modeWord true false true (bit x.mode modeSup) (bit x.mode modeIen)
      waiting := false, arrived := none, fetched := none })

/-! ### The choice of an issue (R205, R206) -/

/-- What a row finds at an issuer. -/
structure Issue where
  word : W64
  pc : Nat
  threads : List Nat

/-- A group slot may issue: not halted, or making its one step (R222). -/
def groupOpen (g : Gp) (k : Nat) : Bool := !g.halted.testBit k || g.stepping.testBit k

/-- Ready threads of a group slot (R205). -/
def readyOf (g : Gp) (k : Nat) : List Nat :=
  if !groupOpen g k then []
  else (upFrom (32 * k) 32).filter (fun i => decide (i < g.blk.threads) && (threadAt g i).st == .ready)

/-- The lead group: the next after the last lead that has a ready thread (R205). -/
def leadGroup (g : Gp) : Option Nat :=
  ((upFrom 1 8).map (fun i => (g.lead + i) % 8)).find? (fun k => !(readyOf g k).isEmpty)

/-- Lowest program counter of some threads. -/
def lowestPc (g : Gp) (is : List Nat) : Nat := (is.map (fun i => (threadAt g i).pc)).foldl min ((threadAt g (is.headD 0)).pc)

/-- Instructions that are not re-packed (R206). -/
def noRepack (w : W64) : Bool := xFmt w == 4 || xAtomic w || (xFmt w == 3 && (xOp w == 0x006 || xOp w == 0x007))

/-- The issue set widened by the other groups (R206). -/
def repack (g : Gp) (lead pc : Nat) (set : List Nat) : List Nat :=
  ((upFrom 1 7).map (fun i => (lead + i) % 8)).foldl (fun set k =>
    let more := (readyOf g k).filter (fun i => (threadAt g i).pc == pc)
    if g.stepping.testBit k || more.any (fun i => set.any (fun j => j % 32 == i % 32)) then set else set ++ more) set

/-- The next issue of a group processor. -/
def gpIssue (s : State) (t gp : Nat) : Option (Nat × Issue) :=
  let g := gpOf s t gp
  if !tileRuns s t || !g.running || decide (gp ≥ 16) then none
  else (leadGroup g).map (fun k =>
    let is := readyOf g k
    let pc := lowestPc g is
    let w := codeWord s t g.blk pc
    let set := is.filter (fun i => (threadAt g i).pc == pc)
    (k, { word := w, pc, threads := sortBy (fun a b => decide (a % 32 ≤ b % 32))
            (if noRepack w || g.stepping.testBit k then set else repack g k pc set) }))

/-- The breakpoint halts the lead before it issues, a stepping group apart (R221, R223). -/
def breakHits (s : State) (t gp k pc : Nat) : Bool :=
  s.eng.dbgArmed == some (unitOf s t (8 + gp)).ctx && bit s.eng.dbgBreak 63 && bits s.eng.dbgBreak 31 0 == pc &&
    !(gpOf s t gp).stepping.testBit k

/-- Bookkeeping of an issue: the lead moves on, and a stepping group halts again (R205, R222). -/
def countIssue (s : State) (t gp k : Nat) : State :=
  modGp s t gp (fun g => { g with lead := k, stepping := if g.stepping.testBit k then g.stepping - 2 ^ k else g.stepping })

/-- A row of a group processor: its next issue is the instruction (`f`, `op`); otherwise the state stays as it is. -/
def gpRow (f op : Nat) (body : State → Nat → Nat → Issue → State) (t gp : Nat) (s : State) : State :=
  match gpIssue s t gp with
  | none => s
  | some (k, i) =>
    if breakHits s t gp k i.pc then modGp s t gp (fun g => { g with halted := g.halted ||| 2 ^ k })
    else if xFmt i.word ≠ f || xOp i.word ≠ op || !legalOnGp i.word then s
    else body (countIssue s t gp k) t gp i

/-- Falling through past the last word (R240). -/
def fallsOut (s : State) (t gp pc : Nat) : Bool := decide (pc + 8 ≥ (gpOf s t gp).blk.codeBytes)

/-- The block ends with its last thread (R199, R212): the next record is reached, or the list ends. -/
def settleEnd (s : State) (t gp : Nat) : State :=
  let g := gpOf s t gp
  if g.running && (threadsOf g).all (fun i => (threadAt g i).st == .exited) then
    let x := unitOf s t (8 + gp)
    let s1 := modGp s t gp (fun g => { g with running := false, threads := [], halted := 0, stepping := 0 })
    if x.recNo + 1 < x.count then modUnit s1 t (8 + gp) (fun x => { x with recNo := x.recNo + 1 }) else endList s1 t (8 + gp)
  else s

/-- Threads stopped at a barrier go on. -/
def passBarrier (s : State) (t gp : Nat) (at_ : ThreadSt) : State :=
  (threadsOf (gpOf s t gp)).foldl (fun s n => modThread s t gp n (fun x =>
    if x.st = at_ then { x with st := .ready, pc := x.pc + 8 } else x)) s

/-- Every thread of a block has exited or stopped at this barrier; a block that has ended counts as arrived, one that a trap
stopped has not ended (R211). -/
def allArrived (g : Gp) (at_ : ThreadSt) : Bool :=
  (!g.running && !g.stopped) || g.running && (threadsOf g).all (fun i => (threadAt g i).st == .exited || (threadAt g i).st == at_)

/-- Barriers of a block and its cluster are released when every live thread has arrived (R211, R212). -/
def settleBarriers (s : State) (t gp : Nat) : State :=
  let g := gpOf s t gp
  let s1 := if g.running && allArrived g .barBlock then passBarrier s t gp .barBlock else s
  let peers := (clusterGps g.blk).filter (fun v =>
    let y := (gpOf s1 t v).blk
    y.node == g.blk.node && y.block - y.rank == g.blk.block - g.blk.rank)
  if peers.all (fun v => allArrived (gpOf s1 t v) .barCluster) then peers.foldl (fun s v => passBarrier s t v .barCluster) s1 else s1

/-- Some thread of a group waits at a collective with a member that has exited, or that is stopped at another collective
(R208): the offset of the collective. -/
def mismatchAt (g : Gp) (k : Nat) : Option Nat :=
  let is := (upFrom (32 * k) 32).filter (fun i => decide (i < g.blk.threads))
  is.findSome? (fun i => match (threadAt g i).st with
    | .collective pc m =>
      if is.any (fun j => m.testBit (j % 32) && (match (threadAt g j).st with
        | .exited => true
        | .collective pc' m' => pc' != pc || m' != m
        | _ => false)) then some pc else none
    | _ => none)

/-- After threads exit or stop: mismatches, barriers, the block's end. -/
def settleGp (s : State) (t gp : Nat) : State :=
  let g := gpOf s t gp
  match (upFrom 0 8).findSome? (mismatchAt g) with
  | some pc => gpTrap s t gp stCollective 0x22 (BitVec.ofNat 64 pc) pc
  | none => settleEnd (settleBarriers s t gp) t gp

/-! ### Cores -/

/-- The core executes: released, not halted or waiting, its hub up, its partition running and not in NAP or OFF (R249,
R250, R455). -/
def coreRuns (s : State) (c : Nat) : Bool :=
  let x := coreOf s c
  let h := c / 16
  decide (c < 128) && x.on && !x.halted && !x.wfi && hubIsUp s h &&
    (match bayPart s h with
     | some p => partRuns s p && decide ((partOf s p).power < 2)
     | none => false)

/-- Translation with the context of a core; a context that does not exist maps nothing. -/
def coreMaps (s : State) (c : Nat) : Bool := c == 0 || (ctxOf s c).st != .free

/-- What a core's fetch meets: a trap with its address, the word, or a wait in a changed state (R240, R253, R302). -/
inductive Fetch where
  | trap (cause : Nat) (addr : W64)
  | word (w : W64)
  | waits (s : State)

/-- A fetch that misses asks the core's L2 for the line and waits (R253, R265). A fill that gets no data is held until the
context is lost, and raises cause 0x08 then (R302). -/
def awaitFetch (s : State) (c line : Nat) : State :=
  let s1 := modCore (askLine s (72 + c) line .read) c (fun x => { x with waiting := true })
  if s1.coh.waiters.any (fun v => v.who == .core c) then s1
  else { s1 with coh := { s1.coh with waiters := s1.coh.waiters ++ [{ who := .core c, threads := [], lines := [line], fetch := true }] } }

/-- An access to memory that is gone: the context is lost (R278, R304); the core waits as above. -/
def coreGone (s : State) (c addr : Nat) : State :=
  let x := coreOf s c
  modCore (raise s x.ctx (faultOf s stMemory 0 (2016 + c) (BitVec.ofNat 64 addr) (BitVec.ofNat 64 (x.pc % 2 ^ 55)))) c
    (fun x => { x with waiting := true })

/-- A read of another device for a core or thread: the lowest free transfer (R239, R420, log 25). -/
def askRemote (s : State) (ctx pa n : Nat) (owner : Nat × Nat) (kind : Nat) : State :=
  let x := freeXfer s
  let r := remoteAt s pa
  let s1 := modXfer s x (fun _ => { used := true, ctx, gid := r.1.gid, window := r.1.window, epoch := r.1.epoch, offset := r.2
                                    len := n, get := true, started := beat s, owner, kind, waiting := true })
  sendReads s1 x r.1.gid r.1.window r.1.epoch r.2 n

def coreFetch (s : State) (c : Nat) : Fetch :=
  let x := coreOf s c
  let va : W64 := BitVec.ofNat 64 x.pc
  if x.pc % 8 ≠ 0 then .trap 0x03 va
  else if !coreMaps s x.ctx then .trap 0x20 va
  else match resolve s x.ctx x.pc 8 needFetch with
    | .bad st a =>
      if st = stOwner then .trap 0x21 va
      else if st = stTranslation then .trap 0x20 va
      else if ctxLive s x.ctx then .waits (coreGone s c a) else .trap 0x08 va
    | .ok ps =>
      if allLocal ps then
        let pa := (ps.headD (0, 0)).1
        match l2Find s (72 + c) (pa / 128) with
        | some l => .word (BitVec.ofNat 64 (leNat ((upFrom (pa % 128) 8).map (lineByte l.data))))
        | none =>
          if !ctxLive s x.ctx && (badBurst s (pa / 128 * 128) 128).isSome then .trap 0x08 va
          else .waits (awaitFetch s c (pa / 128))
      else match x.fetched with
        | some w => .word w
        | none => match x.arrived with
          | some bs => .word (BitVec.ofNat 64 (leNat bs))
          | none =>
            let s1 := modCore s c (fun x => { x with waiting := true })
            .waits (match ps.head? with
              | some (pa, _) => match hostOf pa with
                | some (p, bus) => askHost s1 p bus 8 x.ctx (fun _ => .core c)
                | none => askRemote s1 x.ctx pa 8 (c, 0) 2
              | none => s1)

/-- A core whose held access belongs to a context that has been lost meets cause 0x08 (R245, R302). -/
def coreHeld (s : State) (c : Nat) : Bool := (coreOf s c).waiting && ctxLive s (coreOf s c).ctx

/-- A fetched word is used: its line is the most recently used of the L1 instruction cache, or enters it from the L2 (R251,
R252); a word fetched from a window is kept while its instruction waits (R253). -/
def keepFetched (s : State) (c : Nat) (w : W64) : State :=
  let x := coreOf s c
  match resolve s x.ctx x.pc 8 needFetch with
  | .ok ps =>
    if allLocal ps then
      let line := (ps.headD (0, 0)).1 / 128
      let hit := (tget [] s.coh.l1i c).contains line
      l1iPlace (if hit then s else touchLine s (72 + c) line) c line
    else if x.fetched.isSome then s else modCore s c (fun x => { x with fetched := some w, arrived := none })
  | .bad _ _ => s

/-- A core goes to another address, a virtual address of 55 bits (R224; DEDUCED that higher bits of a target are dropped, log
105); what it fetched or awaited is used up. -/
def coreGoto (s : State) (c : Nat) (pc : Nat) : State :=
  modCore s c (fun x => { x with pc := pc % 2 ^ 55, fetched := none, arrived := none, waiting := false })

def coreNext (s : State) (c : Nat) : State := coreGoto s c ((coreOf s c).pc + 8)

/-- An interrupt is pending and enabled (R240, R248). -/
def interruptReady (x : Core) : Bool := x.ipend != 0 && bit x.mode modeIen

/-- An interrupt is taken before the core's next instruction begins; an access under way is completed first (R245). -/
def interruptDue (x : Core) : Bool := interruptReady x && !x.waiting && x.arrived.isNone

/-- What a core does when its next instruction satisfies `is`. A fetch that traps or waits does so whatever `is` says. -/
def coreHas (is : W64 → Bool) (body : State → Nat → W64 → State) (c : Nat) (s : State) : State :=
  if !coreRuns s c || coreHeld s c then s
  else match coreFetch s c with
    | .waits s1 => s1
    | .trap cause addr => coreTrap s c cause addr (coreOf s c).pc
    | .word w => if is w then body (keepFetched (modCore s c (fun x => { x with waiting := false })) c w) c w else s

/-- A row of a core: its next instruction satisfies `is`; a due interrupt comes first. -/
def coreWhen (is : W64 → Bool) (body : State → Nat → W64 → State) (c : Nat) (s : State) : State :=
  if interruptDue (coreOf s c) then s else coreHas is body c s

/-- The row of the instruction (`f`, `op`); a guard that is off makes it a no-op (R232). -/
def coreRow (f op : Nat) (body : State → Nat → W64 → State) (c : Nat) (s : State) : State :=
  coreWhen (fun w => xFmt w == f && xOp w == op && legalOnCore w)
    (fun s c w => if guardOk w (coreOf s c).p then body s c w else coreNext s c) c s

/-! ### Instructions that change registers only -/

/-- Threads of an issue that its guard lets execute. -/
def active (s : State) (t gp : Nat) (i : Issue) : List Nat :=
  i.threads.filter (fun n => guardOk i.word (threadAt (gpOf s t gp) n).p)

/-- Every thread of the issue goes on at the next word; those that execute have their registers changed. -/
def gpLanes (h : Nat → Lane → Lane) (s : State) (t gp : Nat) (i : Issue) : State :=
  if fallsOut s t gp i.pc then gpTrap s t gp stTrap 0x03 (BitVec.ofNat 64 (i.pc + 8)) i.pc
  else i.threads.foldl (fun s n => modThread s t gp n (fun x =>
    if guardOk i.word x.p then
      let l := h n { g := x.g, p := x.p }
      { x with g := l.g, p := l.p, pc := x.pc + 8 }
    else { x with pc := x.pc + 8 })) s

/-- A register instruction at an issuer (R226, R232): `h` changes the registers of one thread or core. -/
def laneRow (f op : Nat) (h : W64 → Lane → Lane) (a : Agent) (s : State) : Out :=
  .next (match a with
    | .gp t g => gpRow f op (fun s t g i => gpLanes (fun _ => h i.word) s t g i) t g s
    | .core c => coreRow f op (fun s c w =>
        modCore (coreNext s c) c (fun x => let l := h w { g := x.g, p := x.p }; { x with g := l.g, p := l.p })) c s)

end Sys2Proof.Machine
end

