-- ==== Sys2Proof/Machine/Mxe.lean ====
section
/-! DEFINITION. The matrix engines (R151–R169): work lists, passes, the accumulation of the reference and legacy orders, and
the output pipeline. -/

namespace Sys2Proof.Machine

/-- MXE_WORK_LIST (R155, R168): the engine takes its next list, none being in progress. A COUNT outside 1–64 is a record
error (DESIGN CHOICE, log 101: R158's list does not name it). -/
def execMxeWorkList (t u : Nat) (s : State) : Out :=
  if !tileRuns s t || decide (u ≥ 4) then .next s
  else match takeStart s t u with
    | none => .next s
    | some (_, w0, s1) =>
      let s2 := modUnit s1 t u (fun x => { x with legacy := bit w0 39 })
      .next (if bits w0 47 40 = 0 || bits w0 47 40 > 64 then recordError s2 t u 0 else s2)

/-! ### Records (R156) -/

/-- The fields of a pass record. -/
structure PassRec where
  op : Nat
  aFmt : Nat
  bFmt : Nat
  cFmt : Nat
  dFmt : Nat
  dKind : Nat
  dM : Bool
  cM : Bool
  aM : Bool
  bN : Bool
  bank : Bool
  accIn : Nat
  accOut : Nat
  /-- ROWS + 1 and COLS + 1 as the record gives them (R156) -/
  rowsGiven : Nat
  colsGiven : Nat
  aL : Nat
  bL : Nat
  cL : Nat
  kStart : Nat
  kLen : Nat
  aAt : Nat
  bAt : Nat
  aScale : Nat
  bScale : Nat
  accAt : Nat
  cAt : Nat
  dAt : Nat
  dScale : Nat
  colAt : Nat
  biasAt : Nat
  lo : Nat
  hi : Nat

def passRec (ws : List W64) : PassRec :=
  let w := wordAt ws
  { op := bits (w 0) 63 60, aFmt := bits (w 0) 59 56, bFmt := bits (w 0) 55 52, cFmt := bits (w 0) 51 48, dFmt := bits (w 0) 47 44
    dKind := bits (w 0) 43 41, dM := bit (w 0) 40, cM := bit (w 0) 39, aM := bit (w 0) 38, bN := bit (w 0) 37, bank := bit (w 0) 36
    accIn := bits (w 0) 35 34, accOut := bits (w 0) 33 32, rowsGiven := bits (w 0) 31 24 + 1, colsGiven := bits (w 0) 23 16 + 1
    aL := if bit (w 0) 15 then 16 else 32, bL := if bit (w 0) 14 then 16 else 32, cL := if bit (w 0) 13 then 16 else 32
    kStart := bits (w 1) 63 32, kLen := bits (w 1) 31 0, aAt := bits (w 2) 63 32, bAt := bits (w 2) 31 0
    aScale := bits (w 3) 63 32, bScale := bits (w 3) 31 0, accAt := bits (w 4) 63 32, cAt := bits (w 4) 31 0
    dAt := bits (w 5) 63 32, dScale := bits (w 5) 31 0, colAt := bits (w 6) 63 32, biasAt := bits (w 6) 31 0
    lo := bits (w 7) 63 32, hi := bits (w 7) 31 0 }

/-- Rows and columns of the block: the array has 128 of each (R152; DESIGN CHOICE for a larger ROWS or COLS, log 102). -/
def PassRec.rows (r : PassRec) : Nat := min 128 r.rowsGiven
def PassRec.cols (r : PassRec) : Nat := min 128 r.colsGiven

/-- Class of the operand pair: the wider one (R78, R127). -/
def PassRec.cls (r : PassRec) : Nat := max (fmtClass r.aFmt) (fmtClass r.bFmt)
def PassRec.wide (r : PassRec) : Bool := r.cls == 64

/-- Block length of the sums (R140, R144). -/
def sumBlock (legacy : Bool) (cls : Nat) : Nat := if legacy then (if cls ≤ 16 then 16 else 2) else if cls ≤ 16 then 32 else 4

/-- Bytes of a state image (R157). -/
def imageBytes : Nat := 589888

/-- A range of the tile store runs past 24 MiB. -/
def pastStore (off n : Nat) : Bool := decide (off + n > tileSize)

/-- Bytes of an operand panel for K elements, and of its scales (R159, R160). -/
def panelBytes (fmt k : Nat) : Nat := ceilDiv k 32 * 128 * 4 * fmtBits fmt
def panelScales (l k : Nat) : Nat := ceilDiv k 32 * (128 * 32 / l)

/-- The sum completes here (FINISH or PARTIAL). -/
def PassRec.completes (r : PassRec) : Bool := r.accOut ≥ 2

def bankOf (s : State) (t u : Nat) (b : Bool) : Bank := if b then (mxeOf s t u).b1 else (mxeOf s t u).b0
def setBank (s : State) (t u : Nat) (b : Bool) (v : Bank) : State :=
  modMxe s t u (fun m => if b then { m with b1 := v } else { m with b0 := v })

/-- Position of K at which the state that a pass continues stopped: the bank's, or that in the header of an image. -/
def stateAt (s : State) (t u : Nat) (r : PassRec) : Option (Nat × Nat) :=
  if r.accIn = 1 then let b := bankOf s t u r.bank; if b.held then some (b.k, b.blocks) else none
  else if r.accIn = 2 then some ((tileWord s t r.accAt).toNat, (tileWord s t (r.accAt + 16)).toNat)
  else some (r.kStart, 0)

/-- Bytes of a C or D panel from its offset to the last one of the block's rows and columns (R161). -/
def PassRec.panelReach (r : PassRec) (fmt : Nat) : Nat := (r.rows - 1) * (16 * fmtBits fmt) + ceilDiv (r.cols * fmtBits fmt) 8

/-- The same of its scale bytes, blocks of `l` elements along M or along N (R161). -/
def PassRec.scaleReach (r : PassRec) (l : Nat) (m : Bool) : Nat :=
  if m then 128 * (ceilDiv r.rows l - 1) + r.cols else 128 / l * (r.rows - 1) + ceilDiv r.cols l

/-- The bytes read of C run past the tile store: its panel, and its scales behind the 128 rows (R158, R161; log 27). -/
def PassRec.cPast (r : PassRec) : Bool :=
  r.cFmt != 15 && (pastStore r.cAt (r.panelReach r.cFmt) ||
    (fmtScaled r.cFmt && pastStore (r.cAt + 128 * 16 * fmtBits r.cFmt) (r.scaleReach r.cL r.cM)))

/-- The errors that concern the output (R158). -/
def outputError (r : PassRec) : Bool :=
  r.dFmt ≥ 12 || (r.cFmt ≥ 12 && r.cFmt != 15) ||
    (fmtScaled r.dFmt && decide ((if r.dM then r.rowsGiven else r.colsGiven) % blockLen r.dKind ≠ 0)) ||
    (r.accOut == 3 && pastStore r.accAt 65536) ||
    (r.accOut == 2 &&
      (pastStore r.dAt (r.panelReach r.dFmt) ||
       (fmtScaled r.dFmt && pastStore r.dScale (r.scaleReach (blockLen r.dKind) r.dM)) || r.cPast ||
       (r.colAt != 0xFFFFFFFF && pastStore r.colAt 512) || (r.biasAt != 0xFFFFFFFF && pastStore r.biasAt 512)))

/-- A PASS record is in error (R158). -/
def passError (s : State) (t u : Nat) (legacy : Bool) (r : PassRec) : Bool :=
  let l := sumBlock legacy r.cls
  let blocksAfter := (match stateAt s t u r with | some (_, n) => n | none => 0) + ceilDiv r.kLen l
  r.accIn == 3 || r.aFmt ≥ 12 || r.bFmt ≥ 12 || outputError r ||
    decide (r.kStart % 32 ≠ 0) || (decide (r.kLen % 32 ≠ 0) && !r.completes) ||
    (r.accIn == 0 && !legacy && r.cls != 64 && decide (r.kStart % (64 * l) ≠ 0)) ||
    (r.accIn != 0 && (match stateAt s t u r with | some (k, _) => k != r.kStart | none => true)) ||
    (r.cls != 64 && !legacy && (decide (blocksAfter > 256 * 64) || (decide (blocksAfter = 256 * 64) && !r.completes))) ||
    (legacy && r.accOut == 3) ||
    pastStore r.aAt (panelBytes r.aFmt r.kLen) || pastStore r.bAt (panelBytes r.bFmt r.kLen) ||
    (fmtScaled r.aFmt && pastStore r.aScale (panelScales r.aL r.kLen)) ||
    (fmtScaled r.bFmt && pastStore r.bScale (panelScales r.bL r.kLen)) ||
    ((r.accIn == 2 || r.accOut == 1) && pastStore r.accAt imageBytes) ||
    (r.accIn == 0 && (r.cls == 64 || legacy) && r.cPast)

/-- A COMBINE record is in error (R158, R165). -/
def combineError (legacy : Bool) (r : PassRec) : Bool :=
  legacy || !r.completes || r.aFmt ≥ 12 || r.bFmt ≥ 12 || outputError r || pastStore r.aAt 65536 || pastStore r.bAt 65536

/-! ### Operands (R159–R161) -/

/-- Elements of a packed row (R69): `n` elements of `fb` bits. -/
def unpackRow (fb : Nat) (bs : List Byte) (n : Nat) : List Nat :=
  let v := leNat bs
  (upFrom 0 n).map (fun i => v / 2 ^ (fb * i) % 2 ^ fb)

/-- The 32 values of a row of one group of a panel, with their scales. -/
def groupRow (s : State) (t fmt at_ scaleAt l : Nat) (across : Bool) (g r : Nat) : List Val :=
  let fb := fmtBits fmt
  let raw := unpackRow fb (tileBytes s t (at_ + g * 128 * 4 * fb + r * 4 * fb) (4 * fb)) 32
  let scale := fun (i : Nat) =>
    if fmtScaled fmt then
      (tileBytes s t (scaleAt + g * (128 * 32 / l) + (if across then 32 * (r / l) + i else 32 / l * r + i / l)) 1).headD 0
    else 0
  (raw.zip (upFrom 0 32)).map (fun x => decodeScaled fmt x.1 (scale x.2).toNat)

/-- The values of a row along the K elements of a pass; positions beyond them contribute nothing. -/
def panelRow (s : State) (t fmt at_ scaleAt l : Nat) (across : Bool) (k r : Nat) : List Val :=
  ((upFrom 0 (ceilDiv k 32)).flatMap (fun g => groupRow s t fmt at_ scaleAt l across g r)).take k

/-- An element of a D or C panel with its scale; C's scales lie behind its panel (log 27). -/
def panelElem (s : State) (t fmt at_ l : Nat) (m : Bool) (r c : Nat) : Val :=
  let fb := fmtBits fmt
  let raw := leNat (tileBytes s t (at_ + r * 16 * fb + fb * c / 8) 9) / 2 ^ (fb * c % 8) % 2 ^ fb
  let k := if m then 128 * (r / l) + c else 128 / l * r + c / l
  decodeScaled fmt raw (if fmtScaled fmt then ((tileBytes s t (at_ + 128 * 16 * fb + k) 1).headD 0).toNat else 0)

/-! ### Accumulation (R140–R144, R162–R164) -/

/-- Pieces of a list, `l` elements each, the last possibly short. -/
def piecesOf {α : Type} (l : Nat) : Nat → List α → List (List α)
  | 0, _ => []
  | fuel + 1, xs => if xs.isEmpty then [] else xs.take l :: piecesOf l fuel (xs.drop l)

def val32 (w : W64) : Val := ofBits false w
def bits32 (v : Val) : W64 := toBits false v

/-- add32 (R141). -/
def add32 (a b : W64) : W64 := bits32 (rnd false (vadd (val32 a) (val32 b)))

/-- round32 of the exact sum of a block (R142). -/
def blockSum (ps : List (Val × Val)) : W64 := bits32 (rnd false (exactSum (ps.map (fun p => vmul p.1 p.2))))

/-- push(t) of R162 from level `lvl`. -/
def pushTree : Nat → Nat → W64 → Cell → Cell
  | 0, _, t, c => { c with root := some t }
  | fuel + 1, lvl, t, c =>
    match c.stack.getD lvl none with
    | some x => pushTree fuel (lvl + 1) (add32 x t) { c with stack := lset c.stack lvl none }
    | none => { c with stack := lset c.stack lvl (some t) }

/-- The cell's stack with its eight levels. -/
def withLevels (c : Cell) : Cell := if c.stack.isEmpty then { c with stack := List.replicate 8 none } else c

/-- One block sum enters a cell under the reference order; `chunkEnd`: the chunk's 64th block (R162). -/
def addBlock (chunkEnd : Bool) (c : Cell) (sum : W64) : Cell :=
  let t := match c.t with
    | some x => add32 x sum
    | none => sum
  if chunkEnd then pushTree 8 0 t { withLevels c with t := none } else { c with t := some t }

/-- One block sum enters lane j mod 4 under LEGACY (R164). -/
def addLane (j : Nat) (c : Cell) (sum : W64) : Cell :=
  { c with stack := lset c.stack (j % 4) (some (add32 ((c.stack.getD (j % 4) none).getD 0) sum)) }

/-- A cell after the operand pairs of one pass, whose first block is number `first` of the node's K: a chunk ends with its
64th block, and lanes are counted from K = 0 (R162, R164). -/
def cellPass (legacy : Bool) (cls first : Nat) (c : Cell) (ps : List (Val × Val)) : Cell :=
  if cls = 64 then
    { c with t := some (ps.foldl (fun t p => toBits true (rnd true (vfma p.1 p.2 (ofBits true t)))) (c.t.getD 0)) }
  else
    let sums := (piecesOf (sumBlock legacy cls) (ps.length + 1) ps).map blockSum
    (sums.zip (upFrom first sums.length)).foldl (fun c x =>
      if legacy then addLane x.2 c x.1 else addBlock (decide (x.2 % 64 = 63)) c x.1) c

/-- complete() of R162 to R164. -/
def cellSum (legacy : Bool) (cls : Nat) (c : Cell) : W64 :=
  if cls = 64 then c.t.getD 0
  else if legacy then
    let l := fun (i : Nat) => (c.stack.getD i none).getD 0
    add32 (add32 (l 0) (l 1)) (add32 (l 2) (l 3))
  else
    let c1 := match c.t with
      | some t => pushTree 8 0 t { withLevels c with t := none }
      | none => c
    match c1.root with
    | some r => r
    | none => (c1.stack.foldl (fun acc x => match x, acc with
        | some v, some r => some (add32 v r)
        | some v, none => some v
        | none, r => r) none).getD 0

/-- The cell of a FRESH bank (R157, R163, R164); `cin`: C's element when C enters here. -/
def freshCell (legacy : Bool) (cls : Nat) (cin : Option Val) : Cell :=
  if cls = 64 then { t := some (toBits true (rnd true (cin.getD (vzero false)))) }
  else if legacy then { stack := [some (bits32 (rnd false (cin.getD (vzero false)))), some 0, some 0, some 0] }
  else {}

/-! ### State images (R157) -/

/-- Presence of the parts of a cell's state, the same in every cell of a bank: T, then the levels. -/
def presence (c : Cell) : Nat :=
  (if c.t.isSome then 1 else 0) + maskOf ((upFrom 1 8).filter (fun i => (c.stack.getD (i - 1) none).isSome))

/-- A cell's 36 bytes (log 28). -/
def cellImage (wide : Bool) (c : Cell) : List Byte :=
  if wide then leBytes 36 (c.t.getD 0).toNat
  else leBytes 4 (c.t.getD 0).toNat ++ (upFrom 0 8).flatMap (fun i => leBytes 4 ((c.stack.getD i none).getD 0).toNat)

/-- A bank's state image: a header of 64 bytes and 36 bytes for each cell (log 28). -/
def bankImage (wide : Bool) (b : Bank) : List Byte :=
  let c0 := tget {} b.cells 0
  leBytes 8 b.k ++ leBytes 8 b.k0 ++ leBytes 8 b.blocks ++ leBytes 8 (presence c0 + 1024 * c0.stack.length) ++ List.replicate 32 0 ++
    (upFrom 0 16384).flatMap (fun i => cellImage wide (tget {} b.cells i))

/-- A cell read back from its bytes. -/
def imageCell (wide : Bool) (m levels : Nat) (bs : List Byte) : Cell :=
  let part := fun (i : Nat) => if m.testBit i then some (BitVec.ofNat 64 (leNat ((bs.drop (4 * i)).take 4))) else none
  if wide then { t := some (BitVec.ofNat 64 (leNat (bs.take 8))) }
  else { t := part 0, stack := (upFrom 1 levels).map part }

/-- A bank read back from its image. -/
def loadImage (s : State) (t at_ ctx : Nat) (wide : Bool) : Bank :=
  let w := fun (i : Nat) => (tileWord s t (at_ + 8 * i)).toNat
  { held := true, ctx, k := w 0, k0 := w 1, blocks := w 2
    cells := ((upFrom 0 16384).map (fun i => (i, imageCell wide (w 3 % 1024) (w 3 / 1024) (tileBytes s t (at_ + 64 + 36 * i) 36)))).filter
      (fun c => decide (c.2 ≠ {})) }

/-! ### Rows of the engine -/

/-- The record that an engine's list has reached. -/
def curRecord (s : State) (t u : Nat) : Option (EngUnit × PassRec) :=
  let x := unitOf s t u
  match x.cur with
  | some st => if x.recNo < x.count then some (x, passRec (tileWords s t (st.desc + 64 + 64 * x.recNo) 8)) else none
  | none => none

/-- The record is done; after the last the list ends (R167). -/
def nextRecord (s : State) (t u : Nat) : State :=
  let x := unitOf s t u
  if x.recNo + 1 ≥ x.count then endList s t u
  else modUnit s t u (fun x => { x with recNo := x.recNo + 1, outDue := false })

/-- The bank with which a pass begins (R157). -/
def startBank (s : State) (t u : Nat) (x : EngUnit) (r : PassRec) : Bank :=
  if r.accIn = 1 then { bankOf s t u r.bank with ctx := x.ctx }
  else if r.accIn = 2 then loadImage s t r.accAt x.ctx r.wide
  else
    let cin := fun (i : Nat) =>
      if (r.cls = 64 || x.legacy) && r.cFmt ≠ 15 && i / 128 < r.rows && i % 128 < r.cols then
        some (panelElem s t r.cFmt r.cAt r.cL r.cM (i / 128) (i % 128))
      else none
    { held := true, ctx := x.ctx, k := r.kStart, k0 := r.kStart, blocks := 0
      cells := ((upFrom 0 16384).map (fun i => (i, freshCell x.legacy r.cls (cin i)))).filter (fun c => decide (c.2 ≠ {})) }

/-- The stream of a pass through a bank: every cell takes its row of A and its column of B in ascending K (R152, R162). -/
def streamPass (s : State) (t : Nat) (legacy : Bool) (r : PassRec) (b : Bank) : Bank :=
  let as := (upFrom 0 128).map (fun i => panelRow s t r.aFmt r.aAt r.aScale r.aL r.aM r.kLen i)
  let bs := (upFrom 0 128).map (fun i => panelRow s t r.bFmt r.bAt r.bScale r.bL r.bN r.kLen i)
  let cells := (as.zip (upFrom 0 128)).flatMap (fun a => (bs.zip (upFrom 0 128)).map (fun c =>
    let i := 128 * a.2 + c.2
    (i, cellPass legacy r.cls (r.kStart / sumBlock legacy r.cls) (tget {} b.cells i) (a.1.zip c.1))))
  { b with
    k := r.kStart + r.kLen
    blocks := b.blocks + ceilDiv r.kLen (sumBlock legacy r.cls)
    cells := cells.filter (fun c => decide (c.2 ≠ {})) }

/-- PASS (R156, R157): A and B stream along K into a bank; with KEEP the record is done, otherwise its output is due. -/
def execPass (t u : Nat) (s : State) : Out :=
  match curRecord s t u with
  | none => .next s
  | some (x, r) =>
    if !tileRuns s t || decide (u ≥ 4) || x.outDue || r.op = 2 then .next s
    else if r.op ≠ 1 || passError s t u x.legacy r then .next (recordError s t u x.recNo)
    else
      let s1 := setBank s t u r.bank (streamPass s t x.legacy r (startBank s t u x r))
      .next (if r.accOut = 0 then nextRecord s1 t u else modUnit s1 t u (fun x => { x with outDue := true }))

/-- COMBINE (R165): the sums of two partials await their way out. -/
def execCombine (t u : Nat) (s : State) : Out :=
  match curRecord s t u with
  | none => .next s
  | some (x, r) =>
    if !tileRuns s t || decide (u ≥ 4) || x.outDue || r.op ≠ 2 then .next s
    else if combineError x.legacy r then .next (recordError s t u x.recNo)
    else
      let part := fun (at_ i : Nat) => BitVec.ofNat 64 (leNat (tileBytes s t (at_ + 4 * i) 4))
      let sums := (upFrom 0 16384).map (fun i => (i, add32 (part r.aAt i) (part r.bAt i)))
      let s1 := modMxe s t u (fun m => { m with sums := sums.filter (fun x => decide (x.2 ≠ 0)) })
      .next (modUnit s1 t u (fun x => { x with outDue := true }))

/-- The completed sum of cell `i`: of a COMBINE, or of the record's bank. -/
def sumOf (s : State) (t u : Nat) (legacy : Bool) (r : PassRec) (i : Nat) : W64 :=
  if r.op = 2 then tget 0 (mxeOf s t u).sums i else cellSum legacy r.cls (tget {} (bankOf s t u r.bank).cells i)

/-- The state of the bank or sums is used up. -/
def freeBank (s : State) (t u : Nat) (r : PassRec) : State :=
  if r.op = 2 then modMxe s t u (fun m => { m with sums := [] }) else setBank s t u r.bank {}

/-- SAVE (R157): the state image is written and the bank is free. -/
def execSave (t u : Nat) (s : State) : Out :=
  match curRecord s t u with
  | none => .next s
  | some (x, r) =>
    if !tileRuns s t || !x.outDue || r.accOut ≠ 1 then .next s
    else .next (nextRecord (freeBank (writeTile s t r.accAt (bankImage r.wide (bankOf s t u r.bank))) t u r) t u)

/-- PARTIAL (R157, R161): the binary32 subtree sum of every cell is written. -/
def execPartialSum (t u : Nat) (s : State) : Out :=
  match curRecord s t u with
  | none => .next s
  | some (x, r) =>
    if !tileRuns s t || !x.outDue || r.accOut ≠ 3 then .next s
    else
      let word := fun (i : Nat) =>
        let v := sumOf s t u x.legacy r i
        if r.wide && r.op ≠ 2 then bits32 (rnd false (ofBits true v)) else v
      let bs := (upFrom 0 16384).flatMap (fun i => leBytes 4 (word i).toNat)
      .next (nextRecord (freeBank (writeTile s t r.accAt bs) t u r) t u)

/-! ### The output pipeline (R166) -/

/-- A binary32 value of 128 at an offset; the offset 0xFFFF_FFFF stands for a constant. -/
def columnValue (s : State) (t at_ c : Nat) (dflt : Val) : Val :=
  if at_ = 0xFFFFFFFF then dflt else val32 (BitVec.ofNat 64 (leNat (tileBytes s t (at_ + 4 * c) 4)))

/-- Stages 0 to 3 for one element: the completed sum, C where it enters here, scale, bias, clip. -/
def pipeValue (wide : Bool) (cin : Option Val) (sum scale bias lo hi : Val) : Val :=
  let r := match cin with
    | some c => rnd wide (vadd c sum)
    | none => sum
  let y := rnd wide (vadd (rnd wide (vmul r scale)) bias)
  if vlt y lo then lo else if vlt hi y then hi else y

/-- Stage 6: a zero becomes +0. -/
def plusZero : Val → Val
  | .fin n m e => if m = 0 then vzero false else .fin n m e
  | v => v

/-- Stages 4 to 7 for one element; an element of a block is already divided by its scale. -/
def pipeElem (fmt : Nat) (v : Val) : Nat :=
  match fmtOf fmt with
  | some f => encodeF f (flush f (plusZero (roundNoFlush f (fmtScaled fmt) v)))
  | none => encodeElem fmt v

/-- The value of an element after stage 3; the sums of a COMBINE are binary32 whatever its class (R165). -/
def stage3 (s : State) (t u : Nat) (legacy : Bool) (r : PassRec) (row col : Nat) : Val :=
  let sum := ofBits (r.wide && r.op ≠ 2) (sumOf s t u legacy r (128 * row + col))
  let cin := if r.wide || legacy then none
    else some (if r.cFmt = 15 then vzero false else panelElem s t r.cFmt r.cAt r.cL r.cM row col)
  pipeValue r.wide cin sum (columnValue s t r.colAt col (.fin false 1 0)) (columnValue s t r.biasAt col (vzero false))
    (val32 (BitVec.ofNat 64 r.lo)) (val32 (BitVec.ofNat 64 r.hi))

/-- A packed row whose first `n` elements are replaced; bits beyond them stay (R161). -/
def putRow (s : State) (t at_ fb : Nat) (es : List Nat) : State :=
  let nbits := fb * es.length
  let n := ceilDiv nbits 8
  let old := leNat (tileBytes s t at_ n)
  let new := (es.zip (upFrom 0 es.length)).foldl (fun v x => v + x.1 * 2 ^ (fb * x.2)) 0
  writeTile s t at_ (leBytes n (old / 2 ^ nbits * 2 ^ nbits + new))

/-- An unscaled D, row by row. -/
def finishPlain (s : State) (t : Nat) (r : PassRec) (v : Nat → Nat → Val) : State :=
  (upFrom 0 r.rows).foldl (fun s i =>
    putRow s t (r.dAt + i * 16 * fmtBits r.dFmt) (fmtBits r.dFmt) ((upFrom 0 r.cols).map (fun c => pipeElem r.dFmt (v i c)))) s

/-- A block-scaled D: scales along N, or along M (R161). -/
def finishScaled (s : State) (t : Nat) (r : PassRec) (v : Nat → Nat → Val) : State :=
  let l := blockLen r.dKind
  let block := fun (vs : List Val) => encodeBlock (pipeElem r.dFmt) r.dFmt r.dKind vs
  if r.dM then
    let cols := (upFrom 0 r.cols).map (fun c => (upFrom 0 (r.rows / l)).map (fun j => block ((upFrom (l * j) l).map (fun i => v i c))))
    let s1 := (cols.zip (upFrom 0 r.cols)).foldl (fun s x => (x.1.zip (upFrom 0 (r.rows / l))).foldl (fun s y =>
      writeTile s t (r.dScale + 128 * y.2 + x.2) [BitVec.ofNat 8 y.1.1]) s) s
    (upFrom 0 r.rows).foldl (fun s i =>
      putRow s t (r.dAt + i * 16 * fmtBits r.dFmt) (fmtBits r.dFmt)
        (cols.map (fun col => (col.getD (i / l) (0, [])).2.getD (i % l) 0))) s1
  else
    (upFrom 0 r.rows).foldl (fun s i =>
      let bs := (upFrom 0 (r.cols / l)).map (fun j => block ((upFrom (l * j) l).map (fun c => v i c)))
      let s1 := writeTile s t (r.dScale + 128 / l * i) (bs.map (fun b => BitVec.ofNat 8 b.1))
      putRow s1 t (r.dAt + i * 16 * fmtBits r.dFmt) (fmtBits r.dFmt) (bs.flatMap (fun b => b.2))) s

/-- FINISH (R166): C, scale, bias and clip, then D in its format with its scales. -/
def execFinish (t u : Nat) (s : State) : Out :=
  match curRecord s t u with
  | none => .next s
  | some (x, r) =>
    if !tileRuns s t || !x.outDue || r.accOut ≠ 2 then .next s
    else
      let v := fun (i c : Nat) => stage3 s t u x.legacy r i c
      let s1 := if fmtScaled r.dFmt then finishScaled s t r v else finishPlain s t r v
      .next (nextRecord (freeBank s1 t u r) t u)

end Sys2Proof.Machine
end

