-- ==== Sys2Proof/Machine/Vxe.lean ====
section
/-! DEFINITION. The vector engines (R171–R193): work lists, and one row per operation. A row runs the record that the list has
reached on the strip in progress (R189); a row whose operation is not the record's leaves the state as it is. -/

namespace Sys2Proof.Machine

/-! ### Records (R187, R188) -/

/-- A slot of a record: register, tile-store operand, or table. -/
structure VSlot where
  reg : Bool
  num : Nat
  base : Nat
  scaleBase : Nat
  strides : List Int
  va : Nat
  rowBytes : Nat
  rows : Nat
  rowStride : Nat

def vslot (ws : List W64) (i : Nat) : VSlot :=
  let a := wordAt ws (6 + 3 * i)
  let b := wordAt ws (7 + 3 * i)
  let c := wordAt ws (8 + 3 * i)
  { reg := bit a 63, num := bits a 62 58, base := bits a 57 32, scaleBase := bits a 31 0
    strides := [signed 32 (bits b 63 32), signed 32 (bits b 31 0), signed 32 (bits c 63 32), signed 32 (bits c 31 0)]
    va := bits a 54 0, rowBytes := bits b 63 32, rows := bits b 31 0, rowStride := bits c 47 0 }

/-- The fields of a record. -/
structure VRec where
  op : Nat
  fmts : List Nat
  kind : Nat
  kind2 : Nat
  chain : Bool
  maskEn : Bool
  mask : Nat
  maskWr : Bool
  maskOut : Nat
  levels : Nat
  axes : Nat
  imm0 : Nat
  imm1 : Nat
  counts : List Nat
  slots : List VSlot

def vecRec (ws : List W64) : VRec :=
  let w0 := wordAt ws 0
  let w := wordAt ws
  { op := bits w0 63 48, fmts := [bits w0 47 44, bits w0 43 40, bits w0 39 36, bits w0 35 32, bits w0 31 28]
    kind := bits w0 27 25, kind2 := bits w0 24 22, chain := bit w0 21, maskEn := bit w0 20, mask := bits w0 19 17
    maskWr := bit w0 16, maskOut := bits w0 15 13, levels := bits w0 12 10, axes := bits w0 9 5
    imm0 := bits (w 1) 63 32, imm1 := bits (w 1) 31 0
    counts := [bits (w 3) 63 32, bits (w 3) 31 0, bits (w 4) 63 32, bits (w 4) 31 0, bits (w 5) 63 32]
    slots := (upFrom 0 5).map (vslot ws) }

def VRec.fmt (r : VRec) (i : Nat) : Nat := r.fmts.getD i 0
def VRec.slot (r : VRec) (i : Nat) : VSlot := r.slots.getD i (vslot [] 0)

def vecElemOps : List Nat :=
  [0x01, 0x02, 0x03, 0x04, 0x05, 0x06, 0x07, 0x08, 0x09, 0x0A, 0x0B, 0x0C, 0x0D, 0x10, 0x11, 0x12, 0x13, 0x14, 0x15, 0x16, 0x17, 0x20]
def vecReduceOps : List Nat := [0x30, 0x31, 0x32, 0x33, 0x34, 0x38, 0x39, 0x3A]
def vecTableOps : List Nat := [0x40, 0x41, 0x42]
def vecWeightOps : List Nat := [0x50, 0x51]
/-- MASK_LOAD (R188). -/
def opMaskLoad : Nat := 0x0F00
def vecOps : List Nat := vecElemOps ++ vecReduceOps ++ vecTableOps ++ vecWeightOps ++ [opMaskLoad]

/-- Inputs X, Y, Z that an operation reads (R175). -/
def vecInputs (op : Nat) : Nat :=
  if [0x04, 0x50, 0x51].contains op then 3
  else if [0x01, 0x02, 0x03, 0x05, 0x06, 0x07, 0x0C, 0x20, 0x38, 0x39, 0x40, 0x41, 0x42].contains op then 2 else 1

/-- The record writes a mask register in place of OUT (MASK_WR of a CMP or MASK_LOAD, R188). -/
def VRec.toMask (r : VRec) : Bool := (r.op == opMaskLoad || r.op == 0x20) && r.maskWr

/-- Slots that the record uses. -/
def VRec.used (r : VRec) : List Nat :=
  upFrom 0 (vecInputs r.op) ++ (if r.toMask then [] else [3]) ++
    (if [0x38, 0x3A, 0x50, 0x51].contains r.op then [4] else [])

/-- Working format: binary64 when any operand or output is (R174); of a weight update, when OUT is (R186). -/
def VRec.wide (r : VRec) : Bool :=
  if vecWeightOps.contains r.op then r.fmt 3 == 0 else r.used.any (fun i => r.fmt i == 0)

/-! ### The iteration (R189) -/

/-- Indices of a linear position, level 0 first. -/
def levelIndex : List Nat → Nat → List Nat
  | [], _ => []
  | c :: cs, e => e % c :: levelIndex cs (e / c)

/-- Levels reduced: the lowest ones. -/
def axesLevels (axes : Nat) : Nat := if axes = 0 then 0 else Nat.log2 axes + 1

/-- Bits of the tile store from a bit address. -/
def tileBits (s : State) (t at_ n : Nat) : Nat :=
  leNat (tileBytes s t (at_ / 8) ((at_ % 8 + n + 7) / 8)) / 2 ^ (at_ % 8) % 2 ^ n

def putBits (s : State) (t at_ n v : Nat) : State :=
  let k := (at_ % 8 + n + 7) / 8
  let old := leNat (tileBytes s t (at_ / 8) k)
  let p := 2 ^ (at_ % 8)
  writeTile s t (at_ / 8) (leBytes k (old - old / p % 2 ^ n * p + v % 2 ^ n * p))

/-- Byte offset of the levels above level 0, from level `l`. -/
def strideSum (strides : List Int) (l : Nat) (idx : List Nat) : Int :=
  ((idx.zip (strides.drop (l - 1))).map (fun x => (x.1 : Int) * x.2)).foldl (· + ·) 0

/-- Bit address of element `e` of a slot: level 0 is packed (R189). -/
def elemBit (sl : VSlot) (fb : Nat) (counts : List Nat) (e : Nat) : Nat :=
  let idx := levelIndex counts e
  8 * ((sl.base : Int) + strideSum sl.strides 1 (idx.drop 1)).toNat + fb * idx.headD 0

/-- Offset of the scale of element `e` (R189). -/
def elemScale (sl : VSlot) (l : Nat) (counts : List Nat) (e : Nat) : Nat :=
  let c := counts.headD 1
  sl.scaleBase + e / c * (c / l) + e % c / l

/-- Bit address of output `o` of a reduction over the `k` lowest levels: the levels that stay have their strides; in a scaled
format the lowest of them is packed (log 29). -/
def reducedBit (sl : VSlot) (fmt : Nat) (counts : List Nat) (k o : Nat) : Nat :=
  let c := counts.getD k 1
  let up := strideSum sl.strides (k + 1) (levelIndex (counts.drop (k + 1)) (o / c))
  if fmtScaled fmt || k = 0 then 8 * ((sl.base : Int) + up).toNat + fmtBits fmt * (o % c)
  else 8 * ((sl.base : Int) + up + (o % c : Nat) * sl.strides.getD (k - 1) 0).toNat

def reducedScale (sl : VSlot) (l : Nat) (counts : List Nat) (k o : Nat) : Nat :=
  let c := counts.getD k 1
  sl.scaleBase + o / c * (c / l) + o % c / l

/-! ### Registers (R171, R172) -/

def vregGet (v : Vxe) (wide : Bool) (n e : Nat) : W64 :=
  if wide then
    (tget 0 v.regs (2048 * (n / 2 * 2 + 1) + e % 2048)) ++ (tget 0 v.regs (2048 * (n / 2 * 2) + e % 2048))
  else (tget 0 v.regs (2048 * n + e % 2048)).zeroExtend 64

def vregPut (v : Vxe) (wide : Bool) (n e : Nat) (w : W64) : Vxe :=
  if wide then
    { v with regs := tput 0 (tput 0 v.regs (2048 * (n / 2 * 2) + e % 2048) (w.truncate 32))
                       (2048 * (n / 2 * 2 + 1) + e % 2048) (w.extractLsb' 32 32) }
  else { v with regs := tput 0 v.regs (2048 * n + e % 2048) (w.truncate 32) }

def vmaskGet (v : Vxe) (m e : Nat) : Bool := tget false v.masks (2048 * m + e % 2048)

/-! ### The work of a row -/

/-- The record that a list has reached, on its strip: the engine, the record, the sequence's counts, the levels reduced and
the positions of the strip. -/
structure VWork where
  x : EngUnit
  v : Vxe
  r : VRec
  counts : List Nat
  k : Nat
  elems : List Nat
  total : Nat

def recordAt (s : State) (t desc n : Nat) : VRec := vecRec (tileWords s t (desc + 64 + 192 * n) 24)

def curVec (s : State) (t u : Nat) : Option VWork :=
  let x := unitOf s t (4 + u)
  let v := vxeOf s t u
  match x.cur with
  | some st =>
    if x.recNo < x.count then
      let first := recordAt s t st.desc v.seq
      let counts := first.counts.take (max 1 (min 5 first.levels))
      let total := counts.foldl (· * ·) 1
      some { x, v, r := recordAt s t st.desc x.recNo, counts, k := axesLevels first.axes, total
             elems := upFrom (2048 * v.strip) (min 2048 (total - 2048 * v.strip)) }
    else none
  | none => none

/-- The record is done on its strip: the next of the sequence, the next strip, the next sequence, or the list's end (R189).
Registers and masks are cleared between sequences. -/
def vecNext (s : State) (t u : Nat) (w : VWork) : State :=
  if w.r.chain && w.x.recNo + 1 < w.x.count then modUnit s t (4 + u) (fun x => { x with recNo := x.recNo + 1 })
  else if 2048 * (w.v.strip + 1) < w.total then
    modUnit (modVxe s t u (fun v => { v with strip := v.strip + 1 })) t (4 + u) (fun x => { x with recNo := w.v.seq })
  else if w.x.recNo + 1 < w.x.count then
    modUnit (modVxe s t u (fun _ => { seq := w.x.recNo + 1 })) t (4 + u) (fun x => { x with recNo := w.x.recNo + 1 })
  else endList (modVxe s t u (fun _ => {})) t (4 + u)

/-- The script whose run a unit's list belongs to, and the list's start. -/
def unitScript (s : State) (t : Nat) (x : EngUnit) : Option (Script × Start) :=
  match x.cur, bayPart s (t / 9) with
  | some st, some p => (runOf s p st.run).map (fun r => (scriptOf s p r.slot, st))
  | _, _ => none

/-- Number of a tensor that the list's VECTOR node names (R79): 0 X, 1 Y, 2 Z, 3 OUT, 4 OUT2, 5 MASK_SRC. -/
def nodeOperand (s : State) (t : Nat) (x : EngUnit) (i : Nat) : Option (Script × Nat) :=
  (unitScript s t x).bind (fun (sc, st) => (sc.nodes[st.node]?).bind (fun ws =>
    if nodeKind ws = 2 then some (sc, bits (wordAt ws (1 + i / 4)) (63 - 16 * (i % 4)) (48 - 16 * (i % 4))) else none))

/-- The record of such a tensor. -/
def nodeTensor (s : State) (t : Nat) (x : EngUnit) (i : Nat) : Option (List W64) :=
  (nodeOperand s t x i).bind (fun y => y.1.tensors[y.2]?)

/-- Block length of an operand: that of its tensor's kind (R71, log 30). -/
def operandBlock (s : State) (t : Nat) (x : EngUnit) (i : Nat) : Nat :=
  match nodeTensor s t x i with
  | some ts => blockLen (bits (wordAt ts 0) 59 56)
  | none => 32

/-- An operand's element decoded exactly, with its scale (R139): `l` is its block length. A register holds a working value. -/
def slotExact (s : State) (t : Nat) (w : VWork) (i l e : Nat) : Val :=
  let sl := w.r.slot i
  let f := w.r.fmt i
  if sl.reg then ofBits w.r.wide (vregGet w.v w.r.wide sl.num e)
  else
    let raw := tileBits s t (elemBit sl (fmtBits f) w.counts e) (fmtBits f)
    decodeScaled f raw (if fmtScaled f then tileBits s t (8 * elemScale sl l w.counts e) 8 else 0)

/-- An operand's element as a working value (R174). -/
def slotVal (s : State) (t : Nat) (w : VWork) (i l e : Nat) : Val :=
  if (w.r.slot i).reg then slotExact s t w i l e else rnd w.r.wide (slotExact s t w i l e)

/-- The element of an operand that is constant over each reduced set (R176). -/
def setVal (s : State) (t : Nat) (w : VWork) (i l o e : Nat) : Val :=
  let sl := w.r.slot i
  let f := w.r.fmt i
  if sl.reg then ofBits w.r.wide (vregGet w.v w.r.wide sl.num e)
  else
    let raw := tileBits s t (reducedBit sl f w.counts w.k o) (fmtBits f)
    let sc := if fmtScaled f then tileBits s t (8 * reducedScale sl l w.counts w.k o) 8 else 0
    rnd w.r.wide (decodeScaled f raw sc)

/-- An index element: 32 bits, not converted (R72, R183). -/
def indexVal (s : State) (t : Nat) (w : VWork) (i : Nat) : Nat :=
  let sl := w.r.slot 1
  if sl.reg then (vregGet w.v false sl.num i).toNat else tileBits s t (8 * sl.base + 32 * i) 32

/-- An immediate as a working value (R174). -/
def immVal (wide : Bool) (v : Nat) : Val := rnd wide (decodeElem 1 v)

/-- The element passes the record's mask (R179). -/
def VWork.keep (w : VWork) (e : Nat) : Bool := !w.r.maskEn || vmaskGet w.v w.r.mask e

/-! ### Outputs -/

/-- Runs of elements with one key, in order. -/
def groupsBy {α : Type} (key : α → Nat) : List α → List (List α)
  | [] => []
  | a :: l => match groupsBy key l with
    | [] => [[a]]
    | g :: gs => match g with
      | [] => [a] :: gs
      | b :: _ => if key a = key b then (a :: g) :: gs else [a] :: g :: gs

/-- A block of elements by the recipe (R137): scale byte, and each position with its encoding. -/
def blockOut (enc : Nat → Val → Nat) (fmt kind : Nat) (es : List (Nat × Val)) : Nat × List (Nat × Nat) :=
  if es.any (fun x => x.2 = .nan) then (255, es.map (fun x => (x.1, 0)))
  else
    let x := sharedExp fmt kind (es.map (fun x => x.2))
    ((x + 127).toNat, es.map (fun v => (v.1, enc v.1 (scaleBy x v.2))))

/-- Elements written to slot `i` (R174): a register holds the working value, memory the converted element;
`kind` of the recipe, `at_` their bit addresses, `scaleAt` their scales. -/
def putElems (s : State) (t u : Nat) (w : VWork) (i kind : Nat) (enc : Nat → Val → Nat) (at_ scaleAt : Nat → Nat)
    (es : List (Nat × Val)) : State :=
  let sl := w.r.slot i
  let f := w.r.fmt i
  if sl.reg then modVxe s t u (fun v => es.foldl (fun v x => vregPut v w.r.wide sl.num x.1 (toBits w.r.wide x.2)) v)
  else if fmtScaled f then
    (groupsBy (fun x => scaleAt x.1) es).foldl (fun s g =>
      let b := blockOut enc f kind g
      let s1 := b.2.foldl (fun s x => putBits s t (at_ x.1) (fmtBits f) x.2) s
      putBits s1 t (8 * scaleAt ((g.headD (0, .nan)).1)) 8 b.1) s
  else es.foldl (fun s x => putBits s t (at_ x.1) (fmtBits f) (enc x.1 x.2)) s

/-- Elementwise output to OUT (slot 3) or OUT2 (slot 4) by the tensor's kind (R174). -/
def putOut (s : State) (t u : Nat) (w : VWork) (i : Nat) (es : List (Nat × Val)) : State :=
  let kind := if i = 3 then w.r.kind else w.r.kind2
  let l := blockLen kind
  let sl := w.r.slot i
  putElems s t u w i kind (fun _ => encodeElem (w.r.fmt i)) (elemBit sl (fmtBits (w.r.fmt i)) w.counts) (elemScale sl l w.counts) es

/-- Key under which the outputs of a reduction wait for the rest of their block. -/
def pendKey (w : VWork) (i : Nat) : Nat := 1000 * i + w.x.recNo

/-- Outputs of a reduction, in order (R180): the elements of a block are written together. -/
def putReduced (s : State) (t u : Nat) (w : VWork) (i : Nat) (outs : List (Nat × Val)) : State :=
  let kind := if i = 3 then w.r.kind else w.r.kind2
  let l := blockLen kind
  let sl := w.r.slot i
  let f := w.r.fmt i
  let put := fun (s : State) (es : List (Nat × Val)) =>
    putElems s t u w i kind (fun _ => encodeElem f) (reducedBit sl f w.counts w.k) (reducedScale sl l w.counts w.k) es
  if sl.reg || !fmtScaled f then put s outs
  else
    let c := w.counts.getD w.k 1
    outs.foldl (fun s x =>
      let pend := tget [] (vxeOf s t u).terms (pendKey w i) ++ [some (toBits w.r.wide x.2)]
      let ends := decide ((x.1 % c + 1) % l = 0) || decide (x.1 % c + 1 = c)
      let keep := fun (p : List (Option W64)) (s : State) => modVxe s t u (fun v => { v with terms := tput [] v.terms (pendKey w i) p })
      if ends then
        let vs := pend.map (fun b => ofBits w.r.wide (b.getD 0))
        keep [] (put s ((upFrom (x.1 + 1 - vs.length) vs.length).zip vs))
      else keep pend s) s

/-! ### Errors (R191) -/

/-- Bytes from the tile store that a slot covers run past 24 MiB: `c` packed elements at each index of the upper levels,
given with their strides; in a scaled format one row of scales for each (R189). -/
def slotPast (sl : VSlot) (fb l : Nat) (scaled : Bool) (c : Nat) (ups : List (Nat × Int)) : Bool :=
  let lo := (ups.map (fun x => min 0 (((x.1 : Int) - 1) * x.2))).foldl (· + ·) 0
  let hi := (ups.map (fun x => max 0 (((x.1 : Int) - 1) * x.2))).foldl (· + ·) 0
  let rows := ups.foldl (fun n x => n * x.1) 1
  decide ((sl.base : Int) + lo < 0) || decide ((sl.base : Int) + hi + ceilDiv (c * fb) 8 > tileSize) ||
    (scaled && decide (sl.scaleBase + rows * ceilDiv c l > tileSize))

/-- Slots that hold a table (R188). -/
def VRec.table (r : VRec) (i : Nat) : Bool := (r.op == 0x40 && i == 0) || ((r.op == 0x41 || r.op == 0x42) && i == 3)

/-- Slots that hold one element for each reduced set. -/
def VRec.reduced (r : VRec) (i : Nat) : Bool :=
  ([0x30, 0x31, 0x32, 0x33, 0x34, 0x3A].contains r.op && i ≥ 3) || (r.op == 0x38 && (i == 1 || i == 4))

/-- Outputs of which a gated record writes single elements; they may not be block-scaled (R176, R188). -/
def VRec.maskedOut (r : VRec) (i : Nat) : Bool :=
  (i == 3 && r.op != 0x0C && (vecElemOps.contains r.op || [opMaskLoad, 0x38, 0x39, 0x40].contains r.op)) ||
    (i ≥ 3 && vecWeightOps.contains r.op)

/-- A format that the operation does not accept in a slot (R72, R175, R176, R183). -/
def badFormat (r : VRec) (i : Nat) : Bool :=
  let f := r.fmt i
  if r.op = 0x33 && i = 3 then f != 1
  else if r.op = 0x20 && i = 3 then f != 0xB
  else if vecTableOps.contains r.op && i = 1 then f != 1
  else if (r.op = 0x41 || r.op = 0x42) && i = 3 then f ≥ 12 || fmtScaled f
  else if r.op = 0x40 && i = 3 then f ≥ 12 || (fmtScaled (r.fmt 0) && f != r.fmt 0) || (r.maskEn && fmtScaled f)
  else f ≥ 12 || (r.maskEn && fmtScaled f && r.maskedOut i)

/-- A record is in error (R191). -/
def vecError (s : State) (t : Nat) (w : VWork) : Bool :=
  let r := w.r
  r.levels == 0 || r.levels > 5 || decide (r.axes + 1 ≠ 2 ^ axesLevels r.axes) || decide (axesLevels r.axes > r.levels) ||
    w.counts.any (· == 0) || r.used.any (badFormat r) ||
    r.used.any (fun i =>
      let sl := r.slot i
      let f := r.fmt i
      let l := if i = 3 then blockLen r.kind else if i = 4 then blockLen r.kind2 else operandBlock s t w.x i
      if r.table i then sl.reg
      else if sl.reg then false
      else if vecTableOps.contains r.op && i = 1 then decide (sl.base + 4 * w.counts.getD 1 1 > tileSize)
      else if r.reduced i && !fmtScaled f && w.k ≠ 0 then
        slotPast sl (fmtBits f) l false 1 ((w.counts.drop w.k).zip (sl.strides.drop (w.k - 1)))
      else if r.reduced i then
        slotPast sl (fmtBits f) l (fmtScaled f) (w.counts.getD w.k 1) ((w.counts.drop (w.k + 1)).zip (sl.strides.drop w.k))
      else
        let counts := if r.op = 0x51 && (i = 2 || i = 4) then w.counts ++ [2] else w.counts
        slotPast sl (fmtBits f) l (fmtScaled f) (counts.headD 1) ((counts.drop 1).zip sl.strides))

/-- What the work of a record met. -/
inductive VDone where
  | ok (s : State)
  /-- a window that the work needs is not granted in this cue (R185) -/
  | waits
  | fault (s : State) (status addr : Nat)
  | burst (s : State) (addr : Nat)

/-- A row of operation `code` (R188, R189, R191, R192). -/
def vecRow (code : Nat) (body : State → Nat → Nat → VWork → VDone) (t u : Nat) (s : State) : Out :=
  match curVec s t u with
  | none => .next s
  | some w =>
    if !tileRuns s t || decide (u ≥ 4) then .next s
    else if !vecOps.contains w.r.op then .next (recordError s t (4 + u) w.x.recNo)
    else if w.r.op ≠ code then .next s
    else if vecError s t w then .next (recordError s t (4 + u) w.x.recNo)
    else match body s t u w with
      | .ok s1 => .next (vecNext s1 t u w)
      | .waits => .next s
      | .fault s1 st a => .next (engineFault s1 t (4 + u) st 0 a w.x.recNo)
      | .burst s1 a => .next (haltList (meetBad s1 (a / 32) [(w.x.ctx, 28 * t + 4 + u)]) t (4 + u))

/-- VXE_WORK_LIST (R187, R168): the engine takes its next list, none being in progress. -/
def execVxeWorkList (t u : Nat) (s : State) : Out :=
  if !tileRuns s t || decide (u ≥ 4) then .next s
  else match takeStart s t (4 + u) with
    | none => .next s
    | some (st, w0, s1) =>
      let s2 := modVxe (modUnit s1 t (4 + u) (fun x => { x with legacy := bit w0 39, seed := tileWord s t (st.desc + 8) })) t u (fun _ => {})
      .next (if bits w0 47 40 = 0 || bits w0 47 40 > 128 then recordError s2 t (4 + u) 0 else s2)

/-! ### Elementwise operations (R175, R177–R179) -/

/-- |x| as an arithmetic operation (R175). -/
def vabs : Val → Val
  | .nan => .nan
  | .inf _ => .inf false
  | .fin _ m e => .fin false m e

/-- CLAMP (R175, R177). -/
def vclamp (x lo hi : Val) : Val := if x = .nan then .nan else if vlt x lo then lo else if vlt hi x then hi else x

/-- The exact result of an elementwise operation on working values; `a`, `b` immediates, `m` the selector (R175). -/
def vecFn (op : Nat) (wide : Bool) (a b x y z : Val) (m : Bool) : Val :=
  match op with
  | 0x01 => vadd x y
  | 0x02 => vsub x y
  | 0x03 => vmul x y
  | 0x04 => vfma x y z
  | 0x05 => vdiv x y
  | 0x06 => vmin x y
  | 0x07 => vmax x y
  | 0x08 => vabs x
  | 0x09 => vneg x
  | 0x0A => vfma x a b
  | 0x0B => vclamp x a b
  | 0x0C => if m then x else y
  | 0x10 => vsqrt x
  | 0x11 => vrsqrt x
  | 0x12 => vrcp x
  | 0x13 => vexp (rnd wide) x
  | 0x14 => vlog (rnd wide) x
  | 0x15 => vtanh (rnd wide) x
  | 0x16 => vsigmoid (rnd wide) x
  | 0x17 => verf (rnd wide) x
  | _ => x

/-- The working value of an elementwise record at a position. -/
def elemResult (s : State) (t : Nat) (w : VWork) (e : Nat) : Val :=
  let r := w.r
  let get := fun (i : Nat) => if i < vecInputs r.op then slotVal s t w i (operandBlock s t w.x i) e else vzero false
  if r.op = 0x20 then (if cmpHolds r.imm0 (get 0) (get 1) then .fin false 1 0 else vzero false)
  else rnd r.wide (vecFn r.op r.wide (immVal r.wide r.imm0) (immVal r.wide r.imm1) (get 0) (get 1) (get 2) (vmaskGet w.v r.mask e))

/-- Mask register bits written for a strip (R188). -/
def putMask (s : State) (t u : Nat) (w : VWork) (es : List (Nat × Bool)) : State :=
  modVxe s t u (fun v => { v with masks := es.foldl (fun m x => tput false m (2048 * w.r.maskOut + x.1 % 2048) x.2) v.masks })

/-- An elementwise record on its strip: elements whose mask element is false keep their content; SELECT writes every one. -/
def vecElem (s : State) (t u : Nat) (w : VWork) : VDone :=
  let es := (w.elems.filter (fun e => w.r.op == 0x0C || w.keep e)).map (fun e => (e, elemResult s t w e))
  .ok (if w.r.toMask then putMask s t u w (es.map (fun x => (x.1, decide (x.2 = .fin false 1 0)))) else putOut s t u w 3 es)

/-- VECTOR_ADD (R175): x + y. -/
def execVectorAdd (t u : Nat) (s : State) : Out := vecRow 0x01 vecElem t u s
/-- VECTOR_SUB (R175): x − y. -/
def execVectorSub (t u : Nat) (s : State) : Out := vecRow 0x02 vecElem t u s
/-- VECTOR_MUL (R175): x × y. -/
def execVectorMul (t u : Nat) (s : State) : Out := vecRow 0x03 vecElem t u s
/-- FMA (R175): x × y + z, one rounding. -/
def execVectorFma (t u : Nat) (s : State) : Out := vecRow 0x04 vecElem t u s
/-- VECTOR_DIV (R175, R178). -/
def execVectorDiv (t u : Nat) (s : State) : Out := vecRow 0x05 vecElem t u s
/-- VECTOR_MIN (R175, R177). -/
def execVectorMin (t u : Nat) (s : State) : Out := vecRow 0x06 vecElem t u s
/-- VECTOR_MAX (R175, R177). -/
def execVectorMax (t u : Nat) (s : State) : Out := vecRow 0x07 vecElem t u s
/-- ABS (R175). -/
def execVectorAbs (t u : Nat) (s : State) : Out := vecRow 0x08 vecElem t u s
/-- NEG (R175). -/
def execVectorNeg (t u : Nat) (s : State) : Out := vecRow 0x09 vecElem t u s
/-- SCALE_ADD (R175): x × a + b, one rounding. -/
def execScaleAdd (t u : Nat) (s : State) : Out := vecRow 0x0A vecElem t u s
/-- CLAMP (R175, R177). -/
def execVectorClamp (t u : Nat) (s : State) : Out := vecRow 0x0B vecElem t u s
/-- SELECT (R175, R179). -/
def execVectorSelect (t u : Nat) (s : State) : Out := vecRow 0x0C vecElem t u s
/-- CONVERT (R175). -/
def execVectorConvert (t u : Nat) (s : State) : Out := vecRow 0x0D vecElem t u s
/-- SQRT (R177, R178). -/
def execVectorSqrt (t u : Nat) (s : State) : Out := vecRow 0x10 vecElem t u s
/-- RSQRT (R177, R178). -/
def execVectorRsqrt (t u : Nat) (s : State) : Out := vecRow 0x11 vecElem t u s
/-- RCP (R177, R178). -/
def execVectorRcp (t u : Nat) (s : State) : Out := vecRow 0x12 vecElem t u s
/-- EXP (R177, R178). -/
def execVectorExp (t u : Nat) (s : State) : Out := vecRow 0x13 vecElem t u s
/-- LOG (R177, R178). -/
def execVectorLog (t u : Nat) (s : State) : Out := vecRow 0x14 vecElem t u s
/-- TANH (R177, R178). -/
def execVectorTanh (t u : Nat) (s : State) : Out := vecRow 0x15 vecElem t u s
/-- SIGMOID (R177, R178). -/
def execVectorSigmoid (t u : Nat) (s : State) : Out := vecRow 0x16 vecElem t u s
/-- ERF (R177, R178). -/
def execVectorErf (t u : Nat) (s : State) : Out := vecRow 0x17 vecElem t u s
/-- CMP (R175): 1 or 0, or a mask register. -/
def execVectorCmp (t u : Nat) (s : State) : Out := vecRow 0x20 vecElem t u s

/-- An element is true when its value is not zero; NaN counts as true (R179). -/
def vtrue : Val → Bool
  | .fin _ m _ => m != 0
  | _ => true

/-- MASK_LOAD (R188): mask bit := X element not zero; the exact value, its scale included. With MASK_WR 0 it writes 1 or 0
to OUT, as CMP does (DESIGN CHOICE, log 103). -/
def execMaskLoad (t u : Nat) (s : State) : Out :=
  vecRow opMaskLoad (fun s t u w =>
    let l := operandBlock s t w.x 5
    let es := (w.elems.filter w.keep).map (fun e => (e, vtrue (slotExact s t w 0 l e)))
    .ok (if w.r.toMask then putMask s t u w es
         else putOut s t u w 3 (es.map (fun x => (x.1, if x.2 then .fin false 1 0 else vzero false))))) t u s

/-! ### Reductions (R141, R144, R180, R182) -/

/-- tree() of R141. -/
def treeSum : Nat → List W64 → W64
  | 0, ts => ts.headD 0
  | fuel + 1, ts =>
    if ts.length ≤ 1 then ts.headD 0
    else
      let m := 2 ^ Nat.log2 (ts.length - 1)
      add32 (treeSum fuel (ts.take m)) (treeSum fuel (ts.drop m))

/-- ref_dot and legacy_dot (R141, R144): binary64 bits in class 64, binary32 bits otherwise. -/
def refDot (legacy : Bool) (cls : Nat) (ps : List (Val × Val)) (cin : Option Val) : W64 :=
  if cls = 64 then
    match cin, ps with
    | none, [] => 0
    | some c, _ => toBits true (ps.foldl (fun acc p => rnd true (vfma p.1 p.2 acc)) (rnd true c))
    | none, p :: rest => toBits true (rest.foldl (fun acc p => rnd true (vfma p.1 p.2 acc)) (rnd true (vmul p.1 p.2)))
  else if legacy then
    let sums := (piecesOf (sumBlock true cls) (ps.length + 1) ps).map blockSum
    let c := (sums.zip (upFrom 0 sums.length)).foldl (fun c x => addLane x.2 c x.1)
      { stack := [some (bits32 (rnd false (cin.getD (vzero false)))), some 0, some 0, some 0] }
    cellSum true cls c
  else
    let sums := (piecesOf (sumBlock false cls) (ps.length + 1) ps).map blockSum
    let chunk := fun (c : List W64) => match c with
      | [] => 0
      | x :: xs => xs.foldl add32 x
    let ts := (piecesOf 64 (sums.length + 1) sums).map chunk
    match cin, ts with
    | none, [] => 0
    | some c, [] => bits32 (rnd false c)
    | none, _ => treeSum ts.length ts
    | some c, _ => add32 (bits32 (rnd false c)) (treeSum ts.length ts)

/-- A sum reduction: ref_dot with b[k] = 1, masked-off terms removed first (R143, R180). -/
def sumTerms (legacy : Bool) (cls : Nat) (ts : List (Option Val)) : Val :=
  ofBits (cls == 64) (refDot legacy cls ((ts.filterMap id).map (fun v => (v, .fin false 1 0))) none)

/-- Greatest or least term (R180). -/
def extremeTerm (great : Bool) (ts : List (Option Val)) : Val :=
  match ts.filterMap id with
  | [] => .inf great
  | x :: xs => xs.foldl (if great then vmax else vmin) x

/-- Index of the greatest term; the first NaN wins; masked-off terms count (R180). -/
def argmaxTerm (ts : List (Option Val)) : Nat :=
  let step := fun (acc : Option (Val × Nat)) (x : Option Val × Nat) => match x.1, acc with
    | none, a => a
    | some v, none => some (v, x.2)
    | some v, some (b, i) => if b = .nan then some (b, i) else if v = .nan || vlt b v then some (v, x.2) else some (b, i)
  match (ts.zip (upFrom 0 ts.length)).foldl step none with
  | some (_, i) => i
  | none => 0xFFFFFFFF

/-- round(x × x) of every term. -/
def squares (wide : Bool) (ts : List (Option Val)) : List (Option Val) := ts.map (·.map (fun v => rnd wide (vmul v v)))

/-- The number of terms, masked-off ones included, in the working format (R182). -/
def countVal (n : Nat) : Val := .fin false n 0

/-- Mean and variance of a reduced set (R182). -/
def meanVar (legacy wide : Bool) (cls : Nat) (ts : List (Option Val)) : Val × Val :=
  let n := countVal ts.length
  let m := rnd wide (vdiv (sumTerms legacy cls ts) n)
  let dev := ts.map (·.map (fun v => rnd wide (vsub v m)))
  (m, rnd wide (vdiv (sumTerms legacy cls (squares wide dev)) n))

/-- The reciprocal root mean square of a reduced set (R182). -/
def rmsOf (legacy wide : Bool) (cls : Nat) (eps : Val) (ts : List (Option Val)) : Val :=
  let q := rnd wide (vdiv (sumTerms legacy cls (squares wide ts)) (countVal ts.length))
  rnd wide (vrsqrt (rnd wide (vadd q eps)))

/-- A complete reduced set: its number and its terms. -/
abbrev DoneSet := Nat × List (Option Val)

/-- The terms of a strip join those that wait; the sets that end in it are given back (R180). -/
def gatherTerms (wide : Bool) (n : Nat) (pend : List (Option W64)) (ts : List (Nat × Option Val)) : List DoneSet × List (Option W64) :=
  ts.foldl (fun acc x =>
    let p := acc.2 ++ [x.2.map (toBits wide)]
    if x.1 % n + 1 = n then (acc.1 ++ [(x.1 / n, p.map (·.map (ofBits wide)))], []) else (acc.1, p)) ([], pend)

/-- A reduction on its strip: `terms` of its positions, `emit` for the sets that end. -/
def vecReduce (term : State → Nat → VWork → Nat → Val) (emit : State → Nat → Nat → VWork → Nat → DoneSet → State)
    (s : State) (t u : Nat) (w : VWork) : VDone :=
  let n := (w.counts.take w.k).foldl (· * ·) 1
  let ts := w.elems.map (fun e => (e, if w.keep e then some (term s t w e) else none))
  let g := gatherTerms w.r.wide n (tget [] w.v.terms w.x.recNo) ts
  let s1 := modVxe s t u (fun v => { v with terms := tput [] v.terms w.x.recNo g.2 })
  .ok (g.1.foldl (fun s d => emit s t u w n d) s1)

def xTerm (s : State) (t : Nat) (w : VWork) (e : Nat) : Val := slotVal s t w 0 (operandBlock s t w.x 0) e

def VWork.cls (w : VWork) : Nat := fmtClass (w.r.fmt 0)

/-- One value per set goes to OUT. -/
def emitOne (f : VWork → List (Option Val) → Val) (s : State) (t u : Nat) (w : VWork) (_ : Nat) (d : DoneSet) : State :=
  putReduced s t u w 3 [(d.1, f w d.2)]

/-- REDUCE_SUM (R180). -/
def execReduceSum (t u : Nat) (s : State) : Out :=
  vecRow 0x30 (vecReduce xTerm (emitOne (fun w ts => sumTerms w.x.legacy w.cls ts))) t u s
/-- REDUCE_MAX (R180). -/
def execReduceMax (t u : Nat) (s : State) : Out := vecRow 0x31 (vecReduce xTerm (emitOne (fun _ ts => extremeTerm true ts))) t u s
/-- REDUCE_MIN (R180). -/
def execReduceMin (t u : Nat) (s : State) : Out := vecRow 0x32 (vecReduce xTerm (emitOne (fun _ ts => extremeTerm false ts))) t u s
/-- REDUCE_SUMSQ (R180). -/
def execReduceSumsq (t u : Nat) (s : State) : Out :=
  vecRow 0x34 (vecReduce xTerm (emitOne (fun w ts => sumTerms w.x.legacy w.cls (squares w.r.wide ts)))) t u s

/-- REDUCE_ARGMAX (R180): the index is written as a 32-bit number. -/
def execReduceArgmax (t u : Nat) (s : State) : Out :=
  vecRow 0x33 (vecReduce xTerm (fun s t u w _ d =>
    let sl := w.r.slot 3
    let i := argmaxTerm d.2
    if sl.reg then modVxe s t u (fun v => vregPut v false sl.num d.1 (BitVec.ofNat 64 i))
    else putBits s t (reducedBit sl 1 w.counts w.k d.1) 32 i)) t u s

/-- EXP_SUB_SUM (R175, R179): OUT e^(x − y), OUT2 its sum; masked-off elements are neither written nor summed. -/
def expTerm (s : State) (t : Nat) (w : VWork) (e : Nat) : Val :=
  let n := (w.counts.take w.k).foldl (· * ·) 1
  let y := setVal s t w 1 (operandBlock s t w.x 1) (e / n) e
  rnd w.r.wide (vexp (rnd w.r.wide) (vsub (xTerm s t w e) y))

def execExpSubSum (t u : Nat) (s : State) : Out :=
  vecRow 0x38 (fun s t u w =>
    let es := (w.elems.filter w.keep).map (fun e => (e, expTerm s t w e))
    match vecReduce expTerm (fun s t u w _ d => putReduced s t u w 4 [(d.1, sumTerms w.x.legacy w.cls d.2)]) s t u w with
    | .ok s1 => .ok (putOut s1 t u w 3 es)
    | d => d) t u s

/-- RMS_SCALE (R182): the elements of a set are written when its sum is known. -/
def execRmsScale (t u : Nat) (s : State) : Out :=
  vecRow 0x39 (vecReduce xTerm (fun s t u w n d =>
    let r := rmsOf w.x.legacy w.r.wide w.cls (immVal w.r.wide w.r.imm0) d.2
    let es := (d.2.zip (upFrom (n * d.1) n)).filterMap (fun x => x.1.map (fun v =>
      (x.2, rnd w.r.wide (vmul (rnd w.r.wide (vmul v r)) (slotVal s t w 1 (operandBlock s t w.x 1) x.2)))))
    putOut s t u w 3 es)) t u s

/-- MEAN_VAR (R182). -/
def execMeanVar (t u : Nat) (s : State) : Out :=
  vecRow 0x3A (vecReduce xTerm (fun s t u w _ d =>
    let mv := meanVar w.x.legacy w.r.wide w.cls d.2
    putReduced (putReduced s t u w 3 [(d.1, mv.1)]) t u w 4 [(d.1, mv.2)])) t u s

/-! ### Gathers and scatters (R183–R185) -/

/-- Rows whose first element lies in the strip. -/
def VWork.rows (w : VWork) : List Nat :=
  let c := w.counts.headD 1
  (w.elems.filter (fun e => e % c = 0)).map (fun e => e / c)

/-- Work over rows, in order, that ends at the first that fails. -/
def overRows (f : State → Nat → VDone) : State → List Nat → VDone
  | s, [] => .ok s
  | s, i :: is => match f s i with
    | .ok s1 => overRows f s1 is
    | d => d

/-- The pieces of a table row, in the device's memory (R76, R184, R185). -/
def rowAccess (s : State) (c : Nat) (runs : List (Nat × Nat)) (need : Need) : Access :=
  match resolveRuns s c runs need with
  | .ok ps => if allLocal ps then .ok ps else .bad stOwner ((runs.headD (0, 0)).1)
  | a => a

/-- The addresses of row `j` of a table: its bytes and, of a scaled one, its scales. -/
def tableRow (s : State) (t : Nat) (w : VWork) (tab : VSlot) (f j : Nat) : List (Nat × Nat) :=
  let c := w.counts.headD 1
  let n := c / operandBlock s t w.x 0
  (tab.va + j * tab.rowStride, tab.rowBytes) ::
    (if fmtScaled f then [(((nodeTensor s t w.x 0).map tensorScaleVa).getD 0 + j * n, n)] else [])

/-- Work on a table's rows goes on while the entry in force grants the tile the windows it needs (R185). -/
def tableRows (slot : Nat) (reads writes : Bool) (s : State) (t : Nat) (w : VWork) (body : VDone) : VDone :=
  let tab := w.r.slot slot
  let js := (w.rows.map (indexVal s t w)).filter (fun j => decide (j < tab.rows))
  let ps := js.flatMap (fun j => match rowAccess s w.x.ctx (tableRow s t w tab (w.r.fmt slot) j) (if writes then needWrite else needRead) with
    | .ok ps => ps
    | .bad _ _ => [])
  if transferGranted s t (if reads then ps else []) (if writes then ps else []) then body else .waits

/-- GATHER (R183): row i of OUT := row Y[i] of the table. -/
def gatherRow (t u : Nat) (w : VWork) (s : State) (i : Nat) : VDone :=
  let r := w.r
  let tab := r.slot 0
  let f := r.fmt 0
  let c := w.counts.headD 1
  let j := indexVal s t w i
  let scaled := fmtScaled f
  let l := operandBlock s t w.x 0
  let sl := r.slot 3
  let raw := fun (s : State) (row scales : List Byte) =>
    let s1 := writeTile s t (elemBit sl (fmtBits f) w.counts (i * c) / 8) row
    if sl.reg then s else writeTile s1 t (sl.scaleBase + i * (c / l)) scales
  if j ≥ tab.rows then
    .ok (if scaled then raw s (List.replicate (c * fmtBits f / 8) 0) (List.replicate (c / l) 0x7F)
         else putOut s t u w 3 (((upFrom (i * c) c).filter w.keep).map (fun e => (e, vzero false))))
  else
    match rowAccess s w.x.ctx (tableRow s t w tab f j) needRead with
    | .bad st a => .fault s st a
    | .ok ps =>
      match badPiece s ps with
      | some a => .burst s a
      | none =>
        let bs := readPieces s ps
        if scaled then .ok (raw s (bs.take tab.rowBytes) (bs.drop tab.rowBytes))
        else
          let vs := (unpackRow (fmtBits f) bs c).map (fun v => rnd r.wide (decodeElem f v))
          .ok (putOut s t u w 3 (((upFrom (i * c) c).zip vs).filter (fun x => w.keep x.1)))

/-- GATHER (R183, R185). -/
def execGather (t u : Nat) (s : State) : Out :=
  vecRow 0x40 (fun s t u w => tableRows 0 true false s t w (overRows (gatherRow t u w) s w.rows)) t u s

/-- A row of a SCATTER or SCATTER_ADD (R183); `add`: the table's elements are added to. Elements that the record's mask
drops keep their content (R188). -/
def scatterRow (add : Bool) (t : Nat) (w : VWork) (s : State) (i : Nat) : VDone :=
  let r := w.r
  let tab := r.slot 3
  let f := r.fmt 3
  let c := w.counts.headD 1
  let j := indexVal s t w i
  let es := upFrom (i * c) c
  let whole := !add && es.all w.keep
  if j ≥ tab.rows then .ok s
  else
    match rowAccess s w.x.ctx [(tab.va + j * tab.rowStride, tab.rowBytes)] (if add then needRead + needWrite else needWrite) with
    | .bad st a => .fault s st a
    | .ok ps =>
      match (if whole then badPartial s ps else badPiece s ps) with
      | some a => .burst s a
      | none =>
        let l := operandBlock s t w.x 0
        let elem := fun (x : Nat × Nat) =>
          let new := slotVal s t w 0 l x.2
          if !w.keep x.2 then x.1
          else encodeElem f (if add then rnd r.wide (vadd (rnd r.wide (decodeElem f x.1)) new) else new)
        let old := if whole then List.replicate c 0 else unpackRow (fmtBits f) (readPieces s ps) c
        .ok (writePieces s ps ((old.zip es).flatMap (fun x => leBytes (fmtBits f / 8) (elem x))))

/-- SCATTER (R183, R185): row Y[i] of the table := row i of X, in ascending i. -/
def execScatter (t u : Nat) (s : State) : Out :=
  vecRow 0x41 (fun s t _ w => tableRows 3 false true s t w (overRows (scatterRow false t w) s w.rows)) t u s
/-- SCATTER_ADD (R183, R185). -/
def execScatterAdd (t u : Nat) (s : State) : Out :=
  vecRow 0x42 (fun s t _ w => tableRows 3 true true s t w (overRows (scatterRow true t w) s w.rows)) t u s

/-! ### Weight updates (R147–R150, R186) -/

/-- mix() of R148. -/
def srMix (z0 : W64) : W64 :=
  let z1 := (z0 ^^^ (z0 >>> 31)) * 0x8E3A5B19D7C46F21
  let z2 := (z1 ^^^ (z1 >>> 29)) * 0xB5A73C6D41E928F7
  z2 ^^^ (z2 >>> 32)

/-- srbits() of R148. -/
def srBits (seed key index : W64) : Nat :=
  let z := srMix (seed ^^^ (key * 0xF1D39A0B6C57E24D))
  bits (srMix (z ^^^ index)) 63 32

/-- Steps q and F of R149 for m × 2 ^ sh: the units, moved up when the discarded fraction and the random bits carry. -/
def srUnits (m : Nat) (sh : Int) (sr : Nat) : Nat :=
  if sh ≥ 0 then m * 2 ^ sh.toNat
  else
    let d := 2 ^ (-sh).toNat
    let q := m / d
    if m % d * 2 ^ 32 / d + sr ≥ 2 ^ 32 then q + 1 else q

/-- Stochastic rounding to an element (R149). -/
def srElem (fmt sr : Nat) (v : Val) : Nat :=
  match v with
  | .fin n m e =>
    match fmtOf fmt with
    | some f =>
      if m = 0 then encodeElem fmt v
      else
        let u := (Nat.log2 m : Int) - f.mbits
        if u ≤ 0 then encodeElem fmt v
        else encodeF f (roundNoFlush f (fmtScaled fmt) (flush f (.fin n (srUnits m (-u) sr) (e + u))))
    | none =>
      let frac : Int := if fmt = 9 then 6 else if fmt = 10 then 2 else 0
      encodeElem fmt (.fin n (srUnits m (e + frac) sr) (-frac))
  | v => encodeElem fmt v

/-- The slot at index 1 of the outer dimension of an optimiser state: its stride and the scale rows of index 0 further on,
blocks of `l` elements; a register's neighbour holds it (R186). -/
def outerSlot (w : VWork) (i l : Nat) : VSlot :=
  let sl := w.r.slot i
  let rows := (w.counts.drop 1).foldl (· * ·) 1
  { sl with
    num := sl.num + (if w.r.wide then 2 else 1)
    base := ((sl.base : Int) + sl.strides.getD (w.counts.length - 1) 0).toNat
    scaleBase := sl.scaleBase + rows * (w.counts.headD 1 / l) }

/-- The record with slot `i` replaced. -/
def withSlot (w : VWork) (i : Nat) (sl : VSlot) : VWork := { w with r := { w.r with slots := lset w.r.slots i sl } }

/-- Where PARAMS of a weight update lie (R186): at the tensor's address, or, of an INTERNAL one, where the plan placed it (R101). -/
def paramsAt (s : State) (t : Nat) (w : VWork) : Access :=
  match nodeOperand s t w.x 5 with
  | some (sc, n) =>
    let ts := sc.tensors.getD n []
    if bits (wordAt ts 0) 49 48 = 1 then rowAccess s w.x.ctx [(tensorVa ts, 32)] needRead else .ok (placePieces (placeOf sc n) 0 32)
  | none => .ok []

/-- The eight elements of PARAMS. -/
def paramsRead (s : State) (ps : List (Nat × Nat)) : List Nat :=
  let bs := ps.flatMap (fun p => (pieceBytes s [] (0, p)).map (fun b => b.getD 0))
  (upFrom 0 8).map (fun i => leNat ((bs.drop (4 * i)).take 4))

/-- Weight and state of one element: SGD_MOMENTUM gives one state value, ADAMW two (R186). -/
def sgdElem (wide : Bool) (p : List Val) (x g b : Val) : Val × Val :=
  let fma := fun a b c => rnd wide (vfma a b c)
  let g1 := fma (p.getD 2 .nan) x g
  let b1 := fma (p.getD 1 .nan) b g1
  (fma (vneg (p.getD 0 .nan)) b1 x, b1)

def adamElem (wide : Bool) (p : List Val) (x g m v : Val) : Val × Val × Val :=
  let fma := fun a b c => rnd wide (vfma a b c)
  let pp := rnd wide (vmul (p.getD 2 .nan) g)
  let m1 := fma (p.getD 1 .nan) m pp
  let sq := rnd wide (vmul g g)
  let q := rnd wide (vmul (p.getD 4 .nan) sq)
  let v1 := fma (p.getD 3 .nan) v q
  let d := rnd wide (vadd (rnd wide (vsqrt v1)) (p.getD 5 .nan))
  let r := rnd wide (vdiv m1 d)
  let u := fma (p.getD 6 .nan) x r
  (fma (vneg (p.getD 0 .nan)) u x, m1, v1)

/-- Linear index in OUT of an element of a weight record, as the plan cut the node; a record that the plan says nothing of covers
its tensor in linear order (R79, R148, log 31). -/
def linearIndex (s : State) (t : Nat) (w : VWork) (e : Nat) : Nat :=
  match (unitScript s t w.x).bind (fun y => y.1.linear.find? (fun m => m.tile == t && m.desc == y.2.desc && m.record == w.x.recNo)) with
  | some m => m.base + (((levelIndex w.counts e).zip m.mult).map (fun x => x.1 * x.2)).sum
  | none => e

/-- The weights of a strip go to OUT with stochastic rounding (R147, R149, R186). -/
def putWeights (s : State) (t u : Nat) (w : VWork) (es : List (Nat × Val)) : State :=
  let l := blockLen w.r.kind
  let sl := w.r.slot 3
  let f := w.r.fmt 3
  let key := ((nodeTensor s t w.x 3).map (fun ts => bits (wordAt ts 0) 31 0)).getD 0
  let sr := fun (e : Nat) =>
    srBits w.x.seed (BitVec.ofNat 64 key) (BitVec.ofNat 64 (linearIndex s t w e))
  let enc := fun (e : Nat) (v : Val) => if f ≤ 1 && (f == 0) == w.r.wide then encodeElem f v else srElem f (sr e) v
  putElems s t u w 3 0 enc (elemBit sl (fmtBits f) w.counts) (elemScale sl l w.counts) es

/-- The optimiser state of a strip goes to OUT2 by the OPTIMIZER_STATE recipe (R186). -/
def putState (s : State) (t u : Nat) (w : VWork) (es : List (Nat × Val)) : State :=
  let l := blockLen w.r.kind2
  let sl := w.r.slot 4
  let f := w.r.fmt 4
  putElems s t u w 4 3 (fun _ => encodeElem f) (elemBit sl (fmtBits f) w.counts) (elemScale sl l w.counts) es

/-- A weight update on its strip. -/
def vecWeight (adam : Bool) (s : State) (t u : Nat) (w : VWork) : VDone :=
  match paramsAt s t w with
  | .bad st a => .fault s st a
  | .ok ps =>
    match badPiece s (ps.filter (fun p => cacheable p.1)) with
    | some a => .burst s a
    | none =>
      let wide := w.r.wide
      let p := (paramsRead s ps).map (fun v => immVal wide v)
      let get := fun (i e : Nat) => slotVal s t w i (operandBlock s t w.x i) e
      if adam then
        let wz := withSlot w 2 (outerSlot w 2 (operandBlock s t w.x 2))
        let vOf := fun (e : Nat) => slotVal s t wz 2 (operandBlock s t w.x 2) e
        let rs := (w.elems.filter w.keep).map (fun e => (e, adamElem wide p (get 0 e) (get 1 e) (get 2 e) (vOf e)))
        let s1 := putState s t u w (rs.map (fun x => (x.1, x.2.2.1)))
        let s2 := putState s1 t u (withSlot w 4 (outerSlot w 4 (blockLen w.r.kind2))) (rs.map (fun x => (x.1, x.2.2.2)))
        .ok (putWeights s2 t u w (rs.map (fun x => (x.1, x.2.1))))
      else
        let rs := (w.elems.filter w.keep).map (fun e => (e, sgdElem wide p (get 0 e) (get 1 e) (get 2 e)))
        .ok (putWeights (putState s t u w (rs.map (fun x => (x.1, x.2.2)))) t u w (rs.map (fun x => (x.1, x.2.1))))

/-- SGD_MOMENTUM (R186). -/
def execSgdMomentum (t u : Nat) (s : State) : Out := vecRow 0x50 (vecWeight false) t u s
/-- ADAMW (R186). -/
def execAdamw (t u : Nat) (s : State) : Out := vecRow 0x51 (vecWeight true) t u s

end Sys2Proof.Machine
end

