-- ==== Sys2Proof/Machine/XiCtl.lean ====
section
/-! DEFINITION. Xichai control, special registers, collectives and traps (R200, R207–R212, R240–R242, R245–R250). -/

namespace Sys2Proof.Machine

/-! ### Control transfers (R240) -/

/-- A transfer's target on a group processor is in order (R240). -/
def goodTarget (s : State) (t g : Nat) (x : Int) : Bool := decide (0 ≤ x) && x % 8 == 0 && decide (x < (gpOf s t g).blk.codeBytes)

/-- A transfer of control on a group processor: `to` gives the target of a thread, `link` what else it writes. A target out
of order traps and no thread moves; threads whose guard is off go on at the next word (R232, R240). -/
def gpJump (dest : W64 → Nat → Lane → Int) (link : W64 → Nat → Lane → Lane) (s : State) (t g : Nat) (i : Issue) : State :=
  let act := active s t g i
  match act.find? (fun n => !goodTarget s t g (dest i.word i.pc (laneOf s t g n))) with
  | some n => gpTrap s t g stTrap 0x03 (BitVec.ofInt 64 (dest i.word i.pc (laneOf s t g n))) i.pc
  | none =>
    if act.length < i.threads.length && fallsOut s t g i.pc then gpTrap s t g stTrap 0x03 (BitVec.ofNat 64 (i.pc + 8)) i.pc
    else i.threads.foldl (fun s n => modThread s t g n (fun x =>
      let l0 : Lane := { g := x.g, p := x.p }
      if guardOk i.word x.p then
        let l := link i.word i.pc l0
        { x with g := l.g, p := l.p, pc := (dest i.word i.pc l0).toNat }
      else { x with pc := x.pc + 8 })) s

/-- A control transfer at an issuer; a core's target is a virtual address. -/
def jumpRow (op : Nat) (dest : W64 → Nat → Lane → Int) (link : W64 → Nat → Lane → Lane) (a : Agent) (s : State) : Out :=
  .next (match a with
    | .gp t g => gpRow 3 op (gpJump dest link) t g s
    | .core c => coreRow 3 op (fun s c w =>
        let x := coreOf s c
        let l0 : Lane := { g := x.g, p := x.p }
        let l := link w x.pc l0
        coreGoto (modCore s c (fun x => { x with g := l.g, p := l.p })) c (dest w x.pc l0 % 2 ^ 55).toNat) c s)

def toDisp (w : W64) (pc : Nat) (_ : Lane) : Int := pc + xImmS w

/-- BRA (R240). -/
def execBra (a : Agent) (s : State) : Out := jumpRow 0x001 toDisp (fun _ _ l => l) a s
/-- BRX (R240): PC := RS1. -/
def execBrx (a : Agent) (s : State) : Out := jumpRow 0x002 (fun w _ l => (l.get (xRd w)).toNat) (fun _ _ l => l) a s
/-- CALL (R240): RD := PC + 8. -/
def execCall (a : Agent) (s : State) : Out := jumpRow 0x003 toDisp (fun w pc l => l.put (xRs1 w) (BitVec.ofNat 64 (pc + 8))) a s

/-- A row of a group processor only; a core never runs it (R242). -/
def gpOnly (f op : Nat) (body : State → Nat → Nat → Issue → State) (a : Agent) (s : State) : Out :=
  .next (match a with
    | .gp t g => gpRow f op body t g s
    | .core _ => s)

/-- EXIT (R240): the threads end. -/
def execExitThread (a : Agent) (s : State) : Out :=
  gpOnly 3 0x005 (fun s t g i => settleGp (i.threads.foldl (fun s n => modThread s t g n (fun x => { x with st := .exited })) s) t g) a s

/-- Threads stop at a barrier, which may be released at once (R211). -/
def stopAtBarrier (at_ : ThreadSt) (s : State) (t g : Nat) (i : Issue) : State :=
  if fallsOut s t g i.pc then gpTrap s t g stTrap 0x03 (BitVec.ofNat 64 (i.pc + 8)) i.pc
  else settleGp (i.threads.foldl (fun s n => modThread s t g n (fun x => { x with st := at_ })) s) t g

/-- BAR.BLOCK (R211, R240). -/
def execBarBlock (a : Agent) (s : State) : Out := gpOnly 3 0x006 (stopAtBarrier .barBlock) a s
/-- BAR.CLUSTER (R211, R240). -/
def execBarCluster (a : Agent) (s : State) : Out := gpOnly 3 0x007 (stopAtBarrier .barCluster) a s

/-- TRAP (R240, R245): cause 0x07 with the code. -/
def execTrap (a : Agent) (s : State) : Out :=
  .next (match a with
    | .gp t g => gpRow 3 0x008 (fun s t g i =>
        if (active s t g i).isEmpty then gpLanes (fun _ l => l) s t g i
        else gpTrap s t g stTrap 0x07 (BitVec.ofNat 64 (bits i.word 15 0)) i.pc) t g s
    | .core c => coreRow 3 0x008 (fun s c w => coreTrap s c 0x07 (BitVec.ofNat 64 (bits w 15 0)) (coreOf s c).pc) c s)

/-- A row of a core only. -/
def coreOnly (f op : Nat) (body : State → Nat → W64 → State) (a : Agent) (s : State) : Out :=
  .next (match a with
    | .gp _ _ => s
    | .core c => coreRow f op body c s)

/-- A supervisor instruction: PRIVILEGED in user mode (R242, R245). -/
def privileged (body : State → Nat → W64 → State) (s : State) (c : Nat) (w : W64) : State :=
  if bit (coreOf s c).mode modeSup then body s c w else coreTrap s c 0x02 0 (coreOf s c).pc

/-- ERET (R249): SUP := PSUP, IEN := PIEN, INTRAP := 0, PC := TPC. -/
def execEret (a : Agent) (s : State) : Out :=
  coreOnly 3 0x020 (privileged (fun s c _ =>
    let x := coreOf s c
    coreGoto (modCore s c (fun x => { x with
      mode := modeWord (bit x.mode modePsup) (bit x.mode modePien) false (bit x.mode modePsup) (bit x.mode modePien) })) c x.tpc)) a s

/-- WFI (R240). -/
def execWfi (a : Agent) (s : State) : Out :=
  coreOnly 3 0x021 (privileged (fun s c _ => modCore (coreNext s c) c (fun x => { x with wfi := !interruptReady x }))) a s

/-- INTERRUPT (R245, R248): an enabled pending interrupt traps between instructions; TPC is the next instruction. -/
def execInterrupt (c : Nat) (s : State) : Out :=
  let x := coreOf s c
  .next (if coreRuns s c && interruptDue x then coreTrap s c 0x40 0 x.pc else s)

/-- ILLEGAL_WORD (R226, R245): the core's next word is no instruction, or none that is legal on a core. -/
def execIllegalWord (c : Nat) (s : State) : Out :=
  .next (coreWhen (fun w => !legalOnCore w) (fun s c _ => coreTrap s c 0x01 0 (coreOf s c).pc) c s)

/-! ### Special registers (R200, R250) -/

/-- Special register of a thread (R200). -/
def gpSpecial (b : Block) (tid n : Nat) : Nat :=
  match n with
  | 0 => tid
  | 1 => tid % 32
  | 2 => tid / 32
  | 3 => b.threads
  | 4 => b.block
  | 5 => b.blocks
  | 6 => b.rank
  | _ => b.cluster

/-- Special register of a core (R250); none: no such register. -/
def coreSpecial (s : State) (c n : Nat) : Option W64 :=
  let x := coreOf s c
  match n with
  | 0x100 => some (BitVec.ofNat 64 c)
  | 0x101 => some (x.mode.zeroExtend 64)
  | 0x102 => some (BitVec.ofNat 64 x.ctx)
  | 0x103 => some (BitVec.ofNat 64 x.tvec)
  | 0x104 => some (BitVec.ofNat 64 x.tpc)
  | 0x105 => some (BitVec.ofNat 64 x.tcause)
  | 0x106 => some x.taddr
  | 0x107 => some x.tsave
  | 0x108 => some (BitVec.ofNat 64 s.clk.cue)
  | 0x109 => some (x.ipend.zeroExtend 64)
  | _ => none

/-- Registers that user mode may read (R250). -/
def userSpecial (n : Nat) : Bool := n == 0x100 || n == 0x108

/-- SREAD (R242, R250): RD := special register IMM. -/
def execSread (a : Agent) (s : State) : Out :=
  .next (match a with
    | .gp t g => gpRow 1 0x010 (fun s t g i =>
        let b := (gpOf s t g).blk
        gpLanes (fun n l => l.put (xRd i.word) (BitVec.ofNat 64 (gpSpecial b n (xImm i.word)))) s t g i) t g s
    | .core c => coreRow 1 0x010 (fun s c w =>
        match coreSpecial s c (xImm w) with
        | none => coreTrap s c 0x01 0 (coreOf s c).pc
        | some v =>
          if !userSpecial (xImm w) && !bit (coreOf s c).mode modeSup then coreTrap s c 0x02 0 (coreOf s c).pc
          else modCore (coreNext s c) c (fun x => { x with g := tput 0 x.g (xRd w) v })) c s)

/-- A core special register written (R250): a read-only register keeps its value, CTX ignores 0, IPEND bits are cleared by 1. -/
def writeSpecial (x : Core) (n : Nat) (v : W64) : Core :=
  match n with
  | 0x101 => { x with mode := v.truncate 5 }
  | 0x102 => if bits v 11 0 = 0 then x else { x with ctx := bits v 11 0 }
  | 0x103 => { x with tvec := bits v 54 3 * 8 }
  | 0x104 => { x with tpc := bits v 54 0 }
  | 0x107 => { x with tsave := v }
  | 0x109 => { x with ipend := x.ipend &&& ~~~ (v.truncate 16) }
  | _ => x

/-- SWRITE (R242, R250): special register IMM := RS1. -/
def execSwrite (a : Agent) (s : State) : Out :=
  coreOnly 1 0x011 (fun s c w =>
    if (coreSpecial s c (xImm w)).isNone then coreTrap s c 0x01 0 (coreOf s c).pc
    else privileged (fun s c w => modCore (coreNext s c) c (fun x => writeSpecial x (xImm w) (tget 0 x.g (xRs1 w)))) s c w) a s

/-! ### Collectives (R207–R210, R241) -/

/-- The member mask of a thread's collective (R231). -/
def memberMask (w : W64) (l : Lane) : Nat :=
  if xOp w = 0x020 || bit w 22 then 0xFFFFFFFF else bits (l.get (xRs3 w)) 31 0

/-- The mask is in order: the own lane, not empty, whole for GMMA and BAR.GROUP (R208). -/
def maskOk (w : W64) (lane m : Nat) : Bool :=
  m.testBit lane && (m == 0xFFFFFFFF || (xOp w != 0x020 && xOp w != 0x010))

/-- A collective's result: the registers of a member lane, given those of every lane of its group and the mask. -/
abbrev Collective := W64 → Bool → (Nat → Lane) → Nat → Nat → Lane

/-- The members of a mask have all arrived (R207): they execute together. -/
def runCollective (f : Collective) (w : W64) (pc m : Nat) (s : State) (t g k : Nat) : State :=
  let gp := gpOf s t g
  let lanes := bitList m 32
  let ready := lanes.all (fun l => decide (32 * k + l < gp.blk.threads) && (threadAt gp (32 * k + l)).st == .collective pc m)
  if !ready then s
  else
    let old := fun (l : Nat) => laneOf s t g (32 * k + l)
    let legacy := (unitOf s t (8 + g)).legacy
    lanes.foldl (fun s l => modThread s t g (32 * k + l) (fun x =>
      let n := f w legacy old m l
      { x with g := n.g, p := n.p, st := .ready, pc := pc + 8 })) s

/-- Threads stop at a collective; a mismatch that this shows traps before any of them goes on, and it runs when its members
are all there (R207, R208). -/
def collRow (op : Nat) (f : Collective) (a : Agent) (s : State) : Out :=
  gpOnly 4 op (fun s t g i =>
    let bad := i.threads.find? (fun n => !maskOk i.word (n % 32) (memberMask i.word (laneOf s t g n)))
    match bad with
    | some _ => gpTrap s t g stCollective 0x22 (BitVec.ofNat 64 i.pc) i.pc
    | none =>
      if fallsOut s t g i.pc then gpTrap s t g stTrap 0x03 (BitVec.ofNat 64 (i.pc + 8)) i.pc
      else
        let masks := (i.threads.map (fun n => memberMask i.word (laneOf s t g n))).eraseDups
        let s1 := i.threads.foldl (fun u n =>
          modThread u t g n (fun x => { x with st := .collective i.pc (memberMask i.word (laneOf s t g n)) })) s
        let k := i.threads.headD 0 / 32
        if (mismatchAt (gpOf s1 t g) k).isSome then settleGp s1 t g
        else settleGp (masks.foldl (fun s m => runCollective f i.word i.pc m s t g k) s1) t g) a s

/-- Lane or distance of a shuffle (R241). -/
def shflArg (w : W64) (l : Lane) : Nat := if bit w 16 then bits w 21 17 else bits (l.get (xRs2 w)) 4 0

/-- A shuffle: RS1 of the source lane, the own value where it is outside 0–31 or no member (R209). -/
def shuffle (src : Nat → Nat → Int) : Collective := fun w _ old m l =>
  let i := src l (shflArg w (old l))
  let from_ := if 0 ≤ i && i < 32 && m.testBit i.toNat then i.toNat else l
  (old l).put (xRd w) ((old from_).get (xRs1 w))

/-- SHFL.IDX (R209, R241). -/
def execShflIdx (a : Agent) (s : State) : Out := collRow 0x000 (shuffle (fun _ i => i)) a s
/-- SHFL.UP (R209, R241). -/
def execShflUp (a : Agent) (s : State) : Out := collRow 0x001 (shuffle (fun l d => (l : Int) - d)) a s
/-- SHFL.DOWN (R209, R241). -/
def execShflDown (a : Agent) (s : State) : Out := collRow 0x002 (shuffle (fun l d => l + d)) a s
/-- SHFL.XOR (R209, R241). -/
def execShflXor (a : Agent) (s : State) : Out := collRow 0x003 (shuffle (fun l d => (l ^^^ d : Nat))) a s

/-- Predicate voted on, of a lane. -/
def voteOf (w : W64) (l : Lane) : Bool := bit l.p (bits w 15 13)

/-- VOTE.ALL (R209). -/
def execVoteAll (a : Agent) (s : State) : Out :=
  collRow 0x008 (fun w _ old m l => (old l).setP (bits w 12 10) ((bitList m 32).all (fun j => voteOf w (old j)))) a s
/-- VOTE.ANY (R209). -/
def execVoteAny (a : Agent) (s : State) : Out :=
  collRow 0x009 (fun w _ old m l => (old l).setP (bits w 12 10) ((bitList m 32).any (fun j => voteOf w (old j)))) a s
/-- VOTE.BALLOT (R209). -/
def execVoteBallot (a : Agent) (s : State) : Out :=
  collRow 0x00A (fun w _ old m l =>
    (old l).put (xRd w) (BitVec.ofNat 64 (maskOf ((bitList m 32).filter (fun j => voteOf w (old j)))))) a s
/-- BAR.GROUP (R212, R241): no data. -/
def execBarGroup (a : Agent) (s : State) : Out := collRow 0x010 (fun _ _ old _ l => old l) a s

/-! ### GMMA (R210, R241) -/

/-- Consecutive registers as one number, the lowest first (R225). -/
def regString (l : Lane) (r n : Nat) : Nat := leNat (wordBytes ((upFrom r n).map l.get))

/-- The 16 values along K of row or column `i` of an operand (R210). -/
def gmmaRow (old : Nat → Lane) (fmt r scaleReg i : Nat) : List Val :=
  let scale := bits ((old (2 * i)).get scaleReg) 7 0
  let half := fun (l : Nat) =>
    let v := regString (old l) r (gmmaRegs fmt)
    (upFrom 0 8).map (fun k => decodeScaled fmt (v / 2 ^ (fmtBits fmt * k) % 2 ^ fmtBits fmt) scale)
  half (2 * i) ++ half (2 * i + 1)

/-- D := C + A × B for one lane: row l / 2, eight columns (R210). -/
def gmmaLane : Collective := fun w legacy old _ l =>
  let cls := gmmaClass w
  let eb := if cls = 64 then 64 else 32
  let n := if cls = 64 then 8 else 4
  let a := gmmaRow old (gmmaA w) (xRs1 w) (gmmaScale w) (l / 2)
  let c := regString (old l) (xRs3 w) n
  let d := (upFrom 0 8).map (fun k =>
    let b := gmmaRow old (gmmaB w) (xRs2 w) (gmmaScale w + 1) (8 * (l % 2) + k)
    let cv := decodeElem (if cls = 64 then 0 else 1) (c / 2 ^ (eb * k) % 2 ^ eb)
    (refDot legacy cls (a.zip b) (some cv)).toNat)
  let v := (d.zip (upFrom 0 8)).foldl (fun v x => v + x.1 % 2 ^ eb * 2 ^ (eb * x.2)) 0
  (upFrom 0 n).foldl (fun ln i => ln.put (xRd w + i) (BitVec.ofNat 64 (v / 2 ^ (64 * i)))) (old l)

/-- GMMA (R210, R241). -/
def execGmma (a : Agent) (s : State) : Out := collRow 0x020 gmmaLane a s

end Sys2Proof.Machine
end

