-- ==== Sys2Proof/Machine/XiMem.lean ====
section
/-! DEFINITION. Xichai memory instructions (R202, R213–R217, R238, R239, R243, R244) on local memory, through the L1 and the
coherent caches, and to host and remote windows; and GRANT, with which an access that waited for lines is completed (R265). -/

namespace Sys2Proof.Machine

/-! ### Fields and values -/

/-! ### Places -/

/-- The L1 in front of an L2: that of a GP, a core's data cache, or none for an access performed in the L2 itself. -/
inductive L1 where
  | gp (k : Nat)
  | core (c : Nat)
  | none

/-- Where an access is performed: local memory of a GP of the tile, or a byte of a line in an L2, behind an L1 or not. -/
inductive Place where
  | inLocal (t g off : Nat)
  | line (x : Nat) (l1 : L1) (pa : Nat)

def l1Of (s : State) (k : Nat) : List (Nat × BitVec 1024) := tget [] s.coh.l1 k
def setL1 (s : State) (k : Nat) (ls : List (Nat × BitVec 1024)) : State := { s with coh := { s.coh with l1 := tput [] s.coh.l1 k ls } }

/-- A line placed first in an L1 of 128 sets and 4 ways (R215). -/
def l1Place (s : State) (k line : Nat) (d : BitVec 1024) : State :=
  let rest := (l1Of s k).filter (fun y => y.1 != line)
  let out := ((rest.filter (fun y => y.1 % 128 == line % 128)).drop 3).map (fun y => y.1)
  setL1 s k ((line, d) :: rest.filter (fun y => !out.contains y.1))

def l1Find (s : State) (k line : Nat) : Option (BitVec 1024) := ((l1Of s k).find? (fun y => y.1 == line)).map (fun y => y.2)

def l1Drop (s : State) (k line : Nat) : State := setL1 s k ((l1Of s k).filter (fun y => y.1 != line))

/-- A core's L1 data cache uses a line: it becomes the most recently used, or enters from the L2 (R251, R252); `dirty`: the
access writes it. -/
def l1dUse (s : State) (c line : Nat) (dirty : Bool) : State :=
  let hit := (tget [] s.coh.l1d c).any (fun y => y.1 == line)
  l1dPlace (if hit then s else touchLine s (72 + c) line) c line dirty

/-- Data of a line in an L2. -/
def l2Data (s : State) (x line : Nat) : BitVec 1024 := ((l2Find s x line).map (fun l => l.data)).getD 0

/-- Bytes read for a load: from the L1, where a miss allocates the line of the L2 (R215). -/
def placeLoad (s : State) (p : Place) (n : Nat) : State × List Byte :=
  match p with
  | .inLocal t g off => (s, tgetN 0 (gpOf s t g).mem off n)
  | .line x l1 pa =>
    let line := pa / 128
    let out := fun (d : BitVec 1024) => (upFrom (pa % 128) n).map (lineByte d)
    match l1 with
    | .none => (touchLine s x line, out (l2Data s x line))
    | .core c => (l1dUse s c line false, out (l2Data s x line))
    | .gp k => match l1Find s k line with
      | some d => (l1Place s k line d, out d)
      | none => let d := l2Data s x line; (l1Place (touchLine s x line) k line d, out d)

/-- Bytes as the level that performs atomics holds them. -/
def placeRead (s : State) (p : Place) (n : Nat) : List Byte :=
  match p with
  | .inLocal t g off => tgetN 0 (gpOf s t g).mem off n
  | .line x _ pa => (upFrom (pa % 128) n).map (lineByte (l2Data s x (pa / 128)))

/-- Bytes stored: in local memory, or in the L2, an L1 copy being updated (R215). -/
def placeStore (s : State) (p : Place) (bs : List Byte) : State :=
  match p with
  | .inLocal t g off => modGp s t g (fun x => { x with mem := tputN 0 x.mem off bs })
  | .line x l1 pa =>
    let line := pa / 128
    let f := fun (d : BitVec 1024) => storeBytes d (pa % 128) bs
    let s1 := changeLine s x line f
    match l1 with
    | .none => touchLine s1 x line
    | .core c => l1dUse s1 c line true
    | .gp k => match l1Find s1 k line with
      | some d => l1Place (touchLine s1 x line) k line (f d)
      | none => touchLine s1 x line

/-- One thread's access performed at its place (R213, R215, R238). -/
def perform (w : W64) (s : State) (p : Place) (l : Lane) : State × Lane :=
  if isLoad w then let r := placeLoad s p (memLen w); (r.1, loadTo w r.2 l)
  else if isStore w then (placeStore s p (storeFrom w l), l)
  else if isZline w then
    match p with
    | .line x l1 pa =>
      (match l1 with
       | .gp k => l1Place (placeStore s (.line x .none (pa / 128 * 128)) (List.replicate 128 0)) k (pa / 128) 0
       | v => placeStore s (.line x v (pa / 128 * 128)) (List.replicate 128 0), l)
    | .inLocal _ _ _ => (s, l)
  else
    -- an atomic is performed in the L2, or in local memory (R213, R215, R269)
    let s1 := match p with
      | .line _ (.gp k) pa => l1Drop s k (pa / 128)
      | _ => s
    let p := match p with
      | .line x _ pa => .line x .none pa
      | p => p
    let old := leNat (placeRead s1 p (memLen w))
    let shown := if xOp w = 0x011 then BitVec.ofNat 64 old else intTo (atomCode w) (intOf (atomCode w) (BitVec.ofNat 64 old))
    (placeStore s1 p (leBytes (memLen w) (atomNew w old l)), l.put (xRd w) shown)

/-! ### Faults of an access (R202, R238, R239, R245, R313) -/

/-- Target of a virtual address before permissions are weighed. -/
def leafTarget (s : State) (c va : Nat) : Option Nat :=
  if c = 0 then translate s 0 va needRead else (walk s (ctxOf s c).root va).map (fun leaf => leafAddr leaf va)

/-- Status, cause and address of the fault of a GLOBAL access. -/
def globalFault (s : State) (c : Nat) (w : W64) (va : Nat) : Option (Nat × Nat × Nat) :=
  if va % memLen w ≠ 0 then some (stTrap, 0x04, va)
  else if xAtomic w && (leafTarget s c va).any foreign then some (stTrap, 0x06, va)
  else match resolve s c va (memLen w) (memNeed w) with
    | .bad st a =>
      if st = stTranslation then some (st, 0x20, va) else if st = stOwner then some (st, 0x21, va) else some (st, 0, a)
    | .ok _ => none

/-- Local memory that a LOCAL or CLUSTER address names, if it is in range (R202). -/
def localPlace (s : State) (t g : Nat) (w : W64) (a : Nat) : Option Place :=
  let b := (gpOf s t g).blk
  let ok := fun (off : Nat) => decide (off + memLen w ≤ b.localBytes)
  if xSpace w = 1 then (if ok a then some (.inLocal t g a) else none)
  else if a / 2 ^ 18 < b.cluster && ok (a % 2 ^ 18) then some (.inLocal t (rankGp b (a / 2 ^ 18)) (a % 2 ^ 18))
  else none

/-- Fault of one thread's access on a group processor. -/
def threadFault (s : State) (t g : Nat) (w : W64) (l : Lane) : Option (Nat × Nat × Nat) :=
  let a := memAddr w l
  if xSpace w = 0 then globalFault s (unitOf s t (8 + g)).ctx w a
  else if a % memLen w ≠ 0 then some (stTrap, 0x04, a)
  else if (localPlace s t g w a).isNone then some (stTrap, 0x05, a)
  else none

/-- Physical address of a GLOBAL access that has no fault. -/
def globalAddr (s : State) (c va : Nat) (w : W64) : Nat := (translate s c va (memNeed w)).getD 0

/-! ### Waiting -/

/-- What an access needs of its line. -/
def lineUse (w : W64) : LineUse := if isLoad w then .read else if isZline w then .zero else .write

/-- An access can be performed at once on a line: the L2 holds it in a state that allows it, or a load hits the GP's L1. -/
def canUse (s : State) (x : Nat) (l1 : L1) (w : W64) (line : Nat) : Bool :=
  lineReady s x line (lineUse w) || (isLoad w && (match l1 with
    | .gp k => (l1Find s k line).isSome
    | _ => false))

/-- Lines without which an access cannot be performed. -/
def missing (s : State) (x : Nat) (l1 : L1) (w : W64) (lines : List Nat) : List Nat :=
  (lines.filter (fun n => !canUse s x l1 w n)).eraseDups

/-- Lines that a GP waits for: its L1 misses in flight. -/
def missesOf (s : State) (t g : Nat) : List Nat :=
  ((s.coh.waiters.filter (fun v => v.who == .gp t g)).flatMap (fun v => v.lines)).eraseDups

/-- A GP may have these further misses in flight: 64 of its own and 2,048 memory requests of its tile (R194). -/
def missRoom (s : State) (t g : Nat) (lines : List Nat) : Bool :=
  let new := (lines.filter (fun n => !(missesOf s t g).contains n)).length
  decide ((missesOf s t g).length + new ≤ 64) &&
    decide (((upFrom 0 16).map (fun v => (missesOf s t v).length)).sum + new ≤ 2048)

/-- An access waits for lines: each is asked for once (R265). -/
def awaitLines (s : State) (who : Agent) (w : W64) (threads lines : List Nat) : State :=
  let s1 := lines.foldl (fun s n => askLine s (l2Number who) n (lineUse w)) s
  { s1 with coh := { s1.coh with waiters := s1.coh.waiters ++ [{ who, threads, lines }] } }

/-- The next-line fetch of a load that missed the L1 (R216): within the 64 KiB page, and never faulting. -/
def nextLine (s : State) (t g c : Nat) (va : Nat) : State :=
  let k := 16 * t + g
  let va' := (va / 128 + 1) * 128
  if va' / 65536 ≠ va / 65536 then s
  else match resolve s c va' 128 needRead with
    | .bad _ _ => s
    | .ok pas => match pas.head? with
      | none => s
      | some (pa, _) =>
        if !cacheable pa || (l1Find s k (pa / 128)).isSome || !missRoom s t g [pa / 128] then s
        else if lineReady s t (pa / 128) .read then l1Place s k (pa / 128) (l2Data s t (pa / 128))
        else
          let s1 := askLine s t (pa / 128) .read
          { s1 with coh := { s1.coh with waiters := s1.coh.waiters ++ [{ who := .gp t g, threads := [], lines := [pa / 128] }] } }

/-- A release at system scope waits until the ports have delivered what they hold, and until the agent's earlier stores to
other devices are acknowledged (R217, R243, R367, R422). -/
def releaseWaits (s : State) (w : W64) (agent c : Nat) : Bool :=
  releases w && xScope w == 6 &&
    (s.net.xfers.any (fun kv => kv.2.kind == 4 && kv.2.owner.1 == agent) || (match (ctxOf s c).binding with
      | 0 => !(portOf s 0).held.isEmpty
      | 1 => !(portOf s 1).held.isEmpty
      | _ => false))

/-! ### Group processors -/

/-- Threads of an instruction wait for the lines that they miss; with no room for so many misses the issue waits instead. -/
def gpWait (w : W64) (s : State) (t g : Nat) (threads lines : List Nat) : State :=
  awaitLines (threads.foldl (fun s n => modThread s t g n (fun x => { x with st := .memory })) s) (.gp t g) w threads lines

/-- GLOBAL accesses of some threads of one instruction to cacheable lines: performed in ascending lane order once every line
is held (R213, R220). A load whose L1 line leaves in favour of an earlier lane's waits for the line in its turn (R215). -/
def gpLines (w : W64) (pc : Nat) (s : State) (t g : Nat) (threads : List Nat) : State :=
  let c := (unitOf s t (8 + g)).ctx
  let l1 := L1.gp (16 * t + g)
  let va := fun (s : State) (n : Nat) => memAddr w (laneOf s t g n)
  let pas := threads.map (fun n => globalAddr s c (va s n) w)
  let miss := missing s t l1 w (pas.map (fun pa => pa / 128))
  if threads.isEmpty then s
  else if !miss.isEmpty then (if missRoom s t g miss then gpWait w s t g threads miss else s)
  else
    let missed := if isLoad w then
        (threads.zip pas).filter (fun x => (l1Find s (16 * t + g) (x.2 / 128)).isNone) else []
    let vas := missed.map (fun x => va s x.1)
    let done := (threads.zip pas).foldl (fun (r : State × List (Nat × Nat)) x =>
      if canUse r.1 t l1 w (x.2 / 128) then
        let p := perform w r.1 (.line t l1 x.2) (laneOf r.1 t g x.1)
        (threadOn p.1 t g x.1 pc p.2, r.2)
      else (r.1, r.2 ++ [x])) (s, [])
    let s1 := if done.2.isEmpty then done.1
      else gpWait w done.1 t g (done.2.map (fun x => x.1)) ((done.2.map (fun x => x.2 / 128)).eraseDups)
    acquireL1 (vas.foldl (fun s a => nextLine s t g c a) s1) w t g

/-- One thread's access to a host or to another device (R239). -/
def gpForeign (w : W64) (pc : Nat) (s : State) (t g n pa : Nat) : State :=
  let c := (unitOf s t (8 + g)).ctx
  let l := laneOf s t g n
  if isLoad w then
    let s1 := modThread s t g n (fun x => { x with st := .memory })
    match hostOf pa with
    | some (p, bus) => askHost s1 p bus (memLen w) c (fun _ => .gp t g n)
    | none => askRemote s1 c pa (memLen w) (16 * t + g, n) 3
  else
    let bs := if isZline w then List.replicate 128 0 else storeFrom w l
    let at_ := if isZline w then pa / 128 * 128 else pa
    match storeForeign s (28 * t + 8 + g) c at_ bs (!releases w) with
    | some s1 => threadOn s1 t g n pc l
    | none => s

/-- The executing threads of a memory instruction whose faults have been excluded. -/
def gpAccess (w : W64) (pc : Nat) (s : State) (t g : Nat) (threads : List Nat) : State :=
  let c := (unitOf s t (8 + g)).ctx
  if releaseWaits s w (28 * t + 8 + g) c then s
  else if xSpace w ≠ 0 then
    acquireL1 (threads.foldl (fun s n =>
      let l := laneOf s t g n
      match localPlace s t g w (memAddr w l) with
      | some p => let r := perform w s p l; threadOn r.1 t g n pc r.2
      | none => s) s) w t g
  else
    let pa := fun (s : State) (n : Nat) => globalAddr s c (memAddr w (laneOf s t g n)) w
    let far := threads.filter (fun n => foreign (pa s n))
    let near := threads.filter (fun n => !foreign (pa s n))
    gpLines w pc (far.foldl (fun s n => gpForeign w pc s t g n (pa s n)) s) t g near

/-- A prefetch of one address into an L2 (R238, R239, R244): dropped where a load would fault. -/
def prefetchLine (s : State) (c x va : Nat) : State :=
  match resolve s c va 1 needRead with
  | .bad _ _ => s
  | .ok pas => match pas.head? with
    | some (pa, _) => if cacheable pa then askLine s x (pa / 128) .read else s
    | none => s

/-- A memory instruction of a group processor. -/
def gpMem (s : State) (t g : Nat) (i : Issue) : State :=
  let w := i.word
  let act := active s t g i
  let c := (unitOf s t (8 + g)).ctx
  if fallsOut s t g i.pc then gpTrap s t g stTrap 0x03 (BitVec.ofNat 64 (i.pc + 8)) i.pc
  else if act.isEmpty then gpLanes (fun _ l => l) s t g i
  else if isPrefetch w then
    gpLanes (fun _ l => l) (act.foldl (fun s n => prefetchLine s c t (memAddr w (laneOf s t g n))) s) t g i
  else if isMemFence w then
    if releaseWaits s w (28 * t + 8 + g) c then s else gpLanes (fun _ l => l) (acquireL1 s w t g) t g i
  else match act.findSome? (fun n => threadFault s t g w (laneOf s t g n)) with
    | some (st, cause, a) => gpTrap s t g st cause (BitVec.ofNat 64 a) i.pc
    | none =>
      if releaseWaits s w (28 * t + 8 + g) c then s
      else
        let off := i.threads.filter (fun n => !act.contains n)
        gpAccess w i.pc (off.foldl (fun s n => modThread s t g n (fun x => { x with pc := x.pc + 8 })) s) t g act

/-! ### Cores -/

def coreLane (x : Core) : Lane := { g := x.g, p := x.p }

/-- A core's access has been performed. -/
def coreDone (s : State) (c : Nat) (l : Lane) : State := coreNext (modCore s c (fun x => { x with g := l.g, p := l.p })) c

/-- A core waits for its access. -/
def coreWait (s : State) (c : Nat) : State := modCore s c (fun x => { x with waiting := true })

/-- A core's GLOBAL access that has no fault. -/
def coreAccess (w : W64) (s : State) (c : Nat) : State :=
  let x := coreOf s c
  let l := coreLane x
  let pa := globalAddr s x.ctx (memAddr w l) w
  if releaseWaits s w (2016 + c) x.ctx then s
  else if foreign pa then
    if isLoad w then
      match x.arrived with
      | some bs => coreDone s c (loadTo w bs l)
      | none => match hostOf pa with
        | some (p, bus) => askHost (coreWait s c) p bus (memLen w) x.ctx (fun _ => .core c)
        | none => askRemote (coreWait s c) x.ctx pa (memLen w) (c, 0) 2
    else
      let bs := if isZline w then List.replicate 128 0 else storeFrom w l
      match storeForeign s (2016 + c) x.ctx (if isZline w then pa / 128 * 128 else pa) bs (!releases w) with
      | some s1 => coreDone s1 c l
      | none => s
  else
    let miss := missing s (72 + c) (.core c) w [pa / 128]
    if !miss.isEmpty then awaitLines (coreWait s c) (.core c) w [] miss
    else
      let r := perform w s (.line (72 + c) (.core c) pa) l
      coreDone r.1 c r.2

/-- A memory instruction of a core (R238, R243, R245). -/
def coreMem (s : State) (c : Nat) (w : W64) : State :=
  let x := coreOf s c
  let va := memAddr w (coreLane x)
  if isMemFence w then (if releaseWaits s w (2016 + c) x.ctx then s else coreNext s c)
  else if isPrefetch w then coreNext (if ctxLive s x.ctx then prefetchLine s x.ctx (72 + c) va else s) c
  else if !ctxLive s x.ctx then coreTrap s c 0x08 (BitVec.ofNat 64 va) x.pc
  else match globalFault s x.ctx w va with
    | some (_, cause, a) => if cause = 0 then coreGone s c a else coreTrap s c cause (BitVec.ofNat 64 a) x.pc
    | none => coreAccess w s c

/-! ### Rows -/

/-- A memory instruction at an issuer. -/
def memRow (op : Nat) (a : Agent) (s : State) : Out :=
  .next (match a with
    | .gp t g => gpRow 2 op gpMem t g s
    | .core c => coreRow 2 op coreMem c s)

/-- LD (R238). -/
def execLoad (a : Agent) (s : State) : Out := memRow 0x000 a s
/-- ST (R238). -/
def execStore (a : Agent) (s : State) : Out := memRow 0x001 a s
/-- ZLINE (R215, R238). -/
def execZline (a : Agent) (s : State) : Out := memRow 0x002 a s
/-- PREFETCH (R238, R239). -/
def execPrefetch (a : Agent) (s : State) : Out := memRow 0x003 a s
/-- FENCE (R243). -/
def execMemFence (a : Agent) (s : State) : Out := memRow 0x004 a s
/-- AADD (R238). -/
def execAadd (a : Agent) (s : State) : Out := memRow 0x010 a s
/-- AFADD (R213, R238). -/
def execAfadd (a : Agent) (s : State) : Out := memRow 0x011 a s
/-- AMIN (R238). -/
def execAmin (a : Agent) (s : State) : Out := memRow 0x012 a s
/-- AMAX (R238). -/
def execAmax (a : Agent) (s : State) : Out := memRow 0x013 a s
/-- AAND (R238). -/
def execAand (a : Agent) (s : State) : Out := memRow 0x014 a s
/-- AOR (R238). -/
def execAor (a : Agent) (s : State) : Out := memRow 0x015 a s
/-- AXOR (R238). -/
def execAxor (a : Agent) (s : State) : Out := memRow 0x016 a s
/-- ASWAP (R238). -/
def execAswap (a : Agent) (s : State) : Out := memRow 0x017 a s
/-- ACAS (R238). -/
def execAcas (a : Agent) (s : State) : Out := memRow 0x018 a s

/-- An access whose last line has come is taken up again, also one of a block that a trap has stopped since (R218, R265); a
next-line fetch allocates in its L1 (R216), and a fetch of a core goes on with its row. -/
def resume (s : State) (line : Nat) (v : Waiter) : State :=
  match v.who with
  | .core c =>
    let s1 := modCore s c (fun x => { x with waiting := false })
    if !(coreOf s c).waiting then s
    else if v.fetch then s1
    else coreHas (fun w => xFmt w == 2 && legalOnCore w)
      (fun s c w => if guardOk w (coreOf s c).p then coreMem s c w else coreNext s c) c s1
  | .gp t g =>
    let gp := gpOf s t g
    let still := v.threads.filter (fun n => (threadAt gp n).st == .memory)
    match v.threads, still with
    | [], _ => if (l2Find s t line).isSome then l1Place s (16 * t + g) line (l2Data s t line) else s
    | _, [] => s
    | _, n :: _ =>
      let pc := (threadAt gp n).pc
      let w := codeWord s t gp.blk pc
      if gp.stopped then
        still.foldl (fun s n => modThread s t g n (fun x => { x with st := if x.st = .ready then .exited else x.st })) (gpAccess w pc s t g still)
      else if !gp.running then s
      else
        match still.findSome? (fun n => threadFault s t g w (laneOf s t g n)) with
        | some (st, cause, a) => gpTrap s t g st cause (BitVec.ofNat 64 a) pc
        | none => gpAccess w pc s t g still

/-- GRANT (R265): the cache takes the line; the accesses that waited for it alone are completed. -/
def execGrant (x line : Nat) (s : State) : Out :=
  if !((dirOf s line).granted.any (fun g => g.1 == x)) then .next s
  else
    let s1 := takeGrant s x line
    let hit := fun (v : Waiter) => l2Number v.who == x && v.lines.contains line
    let due := s1.coh.waiters.filter (fun v => hit v && (v.lines.filter (fun n => n != line)).isEmpty)
    let rest := (s1.coh.waiters.filter (fun v => !(hit v && (v.lines.filter (fun n => n != line)).isEmpty))).map (fun v =>
      if hit v then { v with lines := v.lines.filter (fun n => n != line) } else v)
    .next (due.foldl (fun s v => resume s line v) { s1 with coh := { s1.coh with waiters := rest } })

end Sys2Proof.Machine
end

