-- ==== Sys2Proof/Machine/GpDebug.lean ====
section
/-! DEFINITION. The debugger of group processors: the selected group, the actions of GP_DEBUG_CTL, the breakpoint and the
status register (R221–R223). A debug row is the write of GP_DEBUG_CTL with its ACTION by a path. -/

namespace Sys2Proof.Machine

/-- The context, tile, GP and group slot of GP_DEBUG_SEL. -/
def dbgCtx (s : State) : Nat := bits s.eng.dbgSel 51 40
def dbgTile (s : State) : Nat := bits s.eng.dbgSel 39 32
def dbgGp (s : State) : Nat := bits s.eng.dbgSel 31 28
def dbgGroup (s : State) : Nat := bits s.eng.dbgSel 27 25

/-- An access by this path takes effect: a host port reaches the debug registers only for a context bound to it (R221). -/
def dbgSeen (s : State) (path : Path) : Bool :=
  match path with
  | .port p => (ctxOf s (dbgCtx s)).binding == p && (ctxOf s (dbgCtx s)).st != .free
  | .eth => true

/-- The path reaches the selected context, and the context has the debug attribute (R221). -/
def dbgReaches (s : State) (path : Path) : Bool :=
  dbgSeen s path && (ctxOf s (dbgCtx s)).debug && (ctxOf s (dbgCtx s)).st != .free

/-- Lanes of the selected group whose threads have not exited. -/
def dbgLive (s : State) : List Nat :=
  let t := dbgTile s
  let g := gpOf s t (dbgGp s)
  if tileRuns s t && g.running && (unitOf s t (8 + dbgGp s)).ctx = dbgCtx s && 32 * dbgGroup s < g.blk.threads then
    (upFrom 0 32).filter (fun l => (threadAt g (32 * dbgGroup s + l)).st != .exited)
  else []

/-- The selected group is halted; while it has a step to make it is not (R222). -/
def dbgHalted (s : State) : Bool :=
  let g := gpOf s (dbgTile s) (dbgGp s)
  g.halted.testBit (dbgGroup s) && !g.stepping.testBit (dbgGroup s)

/-- The group's next issue waits on a barrier, a collective or memory: it has live threads and none is ready. -/
def dbgWaiting (s : State) : Bool :=
  let g := gpOf s (dbgTile s) (dbgGp s)
  !(dbgLive s).isEmpty && (dbgLive s).all (fun l => (threadAt g (32 * dbgGroup s + l)).st != .ready)

/-- GP_DEBUG_STATUS (R221). -/
def dbgStatus (s : State) : W64 :=
  let live := dbgLive s
  flag s.eng.dbgBusy.isSome 63 ||| fld s.eng.dbgResult 3 60 ||| flag (!live.isEmpty && dbgHalted s) 59 ||| flag (dbgWaiting s) 58 |||
    fld (maskOf live) 32 0

/-- The item of GP_DEBUG_ADDR in a thread (R221): none where the number is out of its range. -/
def dbgRead (s : State) : Option W64 :=
  let t := dbgTile s
  let g := gpOf s t (dbgGp s)
  let i := bits s.eng.dbgAddr 31 0
  let n := 32 * dbgGroup s + bits s.eng.dbgAddr 36 32
  let x := threadAt g n
  match bits s.eng.dbgAddr 63 60 with
  | 0 => if i < 64 then some (tget 0 x.g i) else none
  | 1 => some (x.p.zeroExtend 64)
  | 2 => some (BitVec.ofNat 64 x.pc)
  | 3 => if i % 8 = 0 && i + 8 ≤ g.blk.localBytes then some (BitVec.ofNat 64 (leNat (tgetN 0 g.mem i 8))) else none
  | 4 => if i < 8 then some (BitVec.ofNat 64 (gpSpecial g.blk n i)) else none
  | _ => none

/-- The item set from GP_DEBUG_DATA; a special register cannot be set. -/
def dbgWrite (s : State) : Option State :=
  let t := dbgTile s
  let g := dbgGp s
  let v := s.eng.dbgData
  let i := bits s.eng.dbgAddr 31 0
  let n := 32 * dbgGroup s + bits s.eng.dbgAddr 36 32
  match bits s.eng.dbgAddr 63 60 with
  | 0 => if i < 64 then some (modThread s t g n (fun x => { x with g := tput 0 x.g i v })) else none
  | 1 => some (modThread s t g n (fun x => { x with p := v.truncate 8 }))
  | 2 => some (modThread s t g n (fun x => { x with pc := v.toNat, st := if x.st == .exited then .exited else .ready, arrived := none }))
  | 3 => if i % 8 = 0 && i + 8 ≤ (gpOf s t g).blk.localBytes
      then some (modGp s t g (fun x => { x with mem := tputN 0 x.mem i (leBytes 8 v.toNat) })) else none
  | _ => none

/-- Halt and step bits of the selected group. -/
def dbgBits (s : State) (halt step : Bool) : State :=
  let k := dbgGroup s
  let put := fun (m : Nat) (b : Bool) => if m.testBit k == b then m else m ^^^ 2 ^ k
  modGp s (dbgTile s) (dbgGp s) (fun g => { g with halted := put g.halted halt, stepping := put g.stepping step })

/-- An action's result and effect (R222): 0 done, 1 refused, 2 no such live group, 3 not halted. -/
def dbgOutcome (s : State) (path : Path) (action : Nat) : Nat × State :=
  if action = 0 || action > 5 || !dbgReaches s path then (1, s)
  else if (dbgLive s).isEmpty then (2, s)
  else if action = 1 then (0, dbgBits s true false)
  else if !dbgHalted s then (3, s)
  else match action with
    | 2 => (0, dbgBits s false false)
    | 3 => (0, dbgBits s true true)
    | 4 => match dbgRead s with
      | some v => (0, { s with eng := { s.eng with dbgData := v } })
      | none => (1, s)
    | _ => match dbgWrite s with
      | some s1 => (0, s1)
      | none => (1, s)

/-- A write of GP_DEBUG_CTL: without effect from a host port to which the selected context is not bound (R221), and while an
action is in progress; otherwise the action begins, its result to come (R222). -/
def dbgAct (s : State) (path : Path) (action : Nat) : State :=
  if s.eng.dbgBusy.isSome || !dbgSeen s path then s
  else
    let r := dbgOutcome s path action
    { r.2 with eng := { r.2.eng with dbgBusy := some r.1 } }

/-- A write of GP_DEBUG_BREAK arms the breakpoint for the selected context, or disarms it (R221, R223). -/
def dbgSetBreak (s : State) (path : Path) (v : W64) : State :=
  { s with eng := { s.eng with
    dbgBreak := v
    dbgArmed := if bit v 63 && dbgReaches s path then some (dbgCtx s) else none } }

/-- GP_DEBUG_HALT (R222). -/
def execGpDebugHalt (path : Path) (s : State) : Out := .next (dbgAct s path 1)
/-- GP_DEBUG_RESUME (R222). -/
def execGpDebugResume (path : Path) (s : State) : Out := .next (dbgAct s path 2)
/-- GP_DEBUG_STEP (R222). -/
def execGpDebugStep (path : Path) (s : State) : Out := .next (dbgAct s path 3)
/-- GP_DEBUG_READ (R222). -/
def execGpDebugRead (path : Path) (s : State) : Out := .next (dbgAct s path 4)
/-- GP_DEBUG_WRITE (R222). -/
def execGpDebugWrite (path : Path) (s : State) : Out := .next (dbgAct s path 5)

/-- GP_DEBUG_ACTION_END (R222): BUSY clears and RESULT holds the outcome. -/
def execGpDebugActionEnd (s : State) : Out :=
  match s.eng.dbgBusy with
  | some r => .next { s with eng := { s.eng with dbgBusy := none, dbgResult := r } }
  | none => .next s

end Sys2Proof.Machine
end

