-- ==== Sys2Proof/Machine/Play.lean ====
section
/-! DEFINITION. The play format and its validation, steps 1 to 7 of R90 (R64–R92, R175, R176, R179, R183, R186). A play is
its bytes; a rejection is REASON, SECTION and RECORD (R91). -/

namespace Sys2Proof.Machine

/-- REASON, SECTION and RECORD of R91. -/
abbrev Reject := Nat × Nat × Nat

/-- Result word of a rejection (R91). -/
def rejectWord (r : Reject) : Nat := r.1 % 2 ^ 16 * 2 ^ 48 + r.2.1 % 256 * 2 ^ 40 + r.2.2 % 2 ^ 32

/-- A condition that rejects when it does not hold. -/
def demand (ok : Bool) (r : Reject) : Option Reject := if ok then none else some r

/-- The first rejection of a list of checks. -/
def firstReject (l : List (Option Reject)) : Option Reject := l.findSome? id

/-! ### Sections and records (R64, R66) -/

/-- The 64-bit word at a byte offset of a play. -/
def playWord (b : List Byte) (off : Nat) : W64 := BitVec.ofNat 64 (leNat ((b.drop off).take 8))

/-- Header words of the sections: 2 tensors, 3 nodes, 4 kernels, 5 constraints, 6 pool (R66). -/
def secOff (b : List Byte) (k : Nat) : Nat := bits (playWord b (8 * k)) 63 32
def secCount (b : List Byte) (k : Nat) : Nat := bits (playWord b (8 * k)) 31 0

/-- Record size and count limit of a section (R64); the pool counts bytes and has no limit of its own. -/
def secSize (k : Nat) : Nat := match k with
  | 2 => 128
  | 3 => 64
  | 4 => 16
  | 5 => 32
  | _ => 1
def secLimit (k : Nat) : Nat := match k with
  | 2 => 16384
  | 3 => 262144
  | 4 => 4096
  | 5 => 4096
  | _ => 2 ^ 32

/-- The records of a section as words. -/
def records (b : List Byte) (k : Nat) : List (List W64) :=
  (upFrom 0 (secCount b k)).map (fun i => leWords (secSize k / 8) (b.drop (secOff b k + secSize k * i)))

def playTensors (b : List Byte) : List (List W64) := records b 2
def playNodes (b : List Byte) : List (List W64) := records b 3
def playKernels (b : List Byte) : List (List W64) := records b 4
def playConstraints (b : List Byte) : List (List W64) := records b 5

/-- TAG (R66). -/
def playTag (b : List Byte) : Nat := bits (playWord b 56) 31 0
/-- CRC-32C of the play with CHECK taken as 0 (R66). -/
def playCrc (b : List Byte) : Nat := crcOf 0 (b.take 60 ++ List.replicate 4 0 ++ b.drop 64)

/-- A pool reference: a multiple of 8, with its full length inside the pool (R66); nothing of length 0 is referred to. -/
def poolRef (b : List Byte) (off n : Nat) : Option Reject :=
  demand (n = 0 || (off % 8 = 0 && off + n ≤ secCount b 6)) (0x000F, 5, off)

/-- Bytes of the pool. -/
def poolBytes (b : List Byte) (off n : Nat) : List Byte := (b.drop (secOff b 6 + off)).take n

/-- Step 1 of R90 for a play at `va` whose PLAY_LOAD gives `len` bytes. A length of 0 with TOTAL_BYTES 0 passes, though the header
lies beyond it (DESIGN CHOICE, log 119: the spec does not say). -/
def checkHeader (b : List Byte) (va len : Nat) : Option Reject :=
  let w0 := playWord b 0
  let w1 := playWord b 8
  let total := bits w1 63 32
  firstReject [
    demand (bits w0 63 32 = 0x59414C50 && bits w0 31 16 = 1 && bits w0 15 0 = 64) (0x0001, 0, 0),
    demand (total % 64 = 0 && total ≤ 2 ^ 28 && total = len && va % 64 = 0) (0x0002, 0, 1),
    if bit w1 0 && bits (playWord b 56) 63 32 ≠ playCrc b then some (0x0003, 0, 7) else none]

/-- Byte range of a section; none with no records. -/
def secRange (b : List Byte) (k : Nat) : Nat × Nat := (secOff b k, secCount b k * secSize k)

/-- Step 2 of R90: alignment, limits, the header left free and no two sections in one place (R64). RECORD is the section's header
word, of two that meet the later one (DESIGN CHOICE, log 120). -/
def checkSections (b : List Byte) : Option Reject :=
  firstReject ((upFrom 2 5).map (fun k =>
    let r := secRange b k
    let apart := (upFrom 2 (k - 2)).all (fun j => secCount b j = 0 || !rangesMeet r.1 r.2 (secRange b j).1 (secRange b j).2)
    demand (secCount b k = 0 || (r.1 % 64 = 0 && 64 ≤ r.1 && r.1 + r.2 ≤ b.length && secCount b k ≤ secLimit k && apart)) (0x0004, 0, k)))

/-! ### Tensors (R67–R72) -/

def tFormat (ts : List W64) : Nat := bits (wordAt ts 0) 63 60
def tKind (ts : List W64) : Nat := bits (wordAt ts 0) 59 56
def tScaleDim (ts : List W64) : Nat := bits (wordAt ts 0) 52 50
def tRole (ts : List W64) : Nat := bits (wordAt ts 0) 49 48
def tExternal (ts : List W64) : Bool := tRole ts == 1
def tShape (ts : List W64) : List Nat := (upFrom 0 (tensorRank ts)).map (tensorExtent ts)
def tScaled (ts : List W64) : Bool := fmtScaled (tFormat ts)

/-- Extents, strides and packing of R68, and the footprint's limit. -/
def tensorShapeOk (ts : List W64) : Bool :=
  let r := tensorRank ts
  decide (r ≤ 6) &&
    (upFrom 0 6).all (fun d => if d < r then tensorExtent ts d ≠ 0 else tensorExtent ts d = 0) &&
    (upFrom 1 5).all (fun d => decide (d < r) || tensorStride ts d = 0) &&
    (r = 0 || tensorExtent ts 0 * tensorBits ts % 8 = 0) && decide (tensorSpan ts ≤ 2 ^ 38)

/-- VA and SCALE_VA (R67). -/
def tensorVaOk (ts : List W64) : Bool :=
  if tRole ts = 0 then tensorVa ts = 0 && tensorScaleVa ts = 0
  else tRole ts = 1 && tensorVa ts % 32 = 0 && (if tScaled ts then tensorScaleVa ts % 32 = 0 else tensorScaleVa ts = 0)

/-- Step 3 of R90 for one tensor. Of several faults of one record the first in this order is reported: format, kind, shape, addresses,
scale dimension, scale footprint (DESIGN CHOICE, log 121: the spec gives no order). -/
def checkTensor (ts : List W64) (t : Nat) : Option Reject :=
  let f := tFormat ts
  let k := tKind ts
  firstReject [
    demand (f ≤ 0xB) (0x0005, 1, t),
    demand (k ≤ 6 && (k ≠ 5 || f = 1) && (k ≠ 6 || f = 0xB)) (0x0006, 1, t),
    demand (tensorShapeOk ts) (0x0007, 1, t),
    demand (tensorVaOk ts) (0x0008, 1, t),
    demand (!tScaled ts || (tScaleDim ts < tensorRank ts && tensorExtent ts (tScaleDim ts) % blockLen k = 0)) (0x0009, 1, t),
    demand (tensorScales ts ≤ 2 ^ 38) (0x0007, 1, t)]

/-! ### Kernels (R84) -/

/-- Step 4 of R90 for one kernel record. -/
def checkKernel (b : List Byte) (ws : List W64) (k : Nat) : Option Reject :=
  let at_ := bits (wordAt ws 0) 63 32
  let n := bits (wordAt ws 0) 31 0
  let entry := bits (wordAt ws 1) 63 32
  firstReject [
    demand (8 ≤ n && n ≤ 2 ^ 20 && n % 8 = 0 && entry % 8 = 0 && entry < n) (0x000D, 3, k),
    poolRef b at_ n,
    demand ((leWords (n / 8) (poolBytes b at_ n)).all legalOnGp) (0x000D, 3, k)]

/-! ### Nodes (R75–R87) -/

/-- A tensor field that an operation requires, may leave at 0xFFFF, or does not use. -/
inductive Want where
  | must
  | may
  | none
deriving DecidableEq, Repr

/-- A tensor field holds what its operation wants (R79, R92 reason 0x000B). -/
def fieldOk (tensors : Nat) (w : Want) (v : Nat) : Bool :=
  match w with
  | .must => decide (v < tensors)
  | .may => v == 0xFFFF || decide (v < tensors)
  | .none => v == 0xFFFF

/-- Two binary32 bounds: neither a NaN, the first not above the second (R78, R177). -/
def boundsOk (lo hi : Nat) : Bool := cmpHolds 3 (decodeElem 1 lo) (decodeElem 1 hi)

/-- MATMUL (R77, R78). -/
def matmulOk (ts : List (List W64)) (ws : List W64) : Bool :=
  let n := ts.length
  let t := fun (i : Nat) => ts.getD i []
  let ai := bits (wordAt ws 1) 63 48
  let bi := bits (wordAt ws 1) 47 32
  let ci := bits (wordAt ws 1) 31 16
  let di := bits (wordAt ws 1) 15 0
  let si := bits (wordAt ws 2) 63 48
  let vi := bits (wordAt ws 2) 47 32
  let a := t ai
  let b := t bi
  let d := t di
  let ta := bit (wordAt ws 0) 32
  let tb := bit (wordAt ws 0) 33
  let m := tensorExtent a (if ta then 0 else 1)
  let k := tensorExtent a (if ta then 1 else 0)
  let nn := tensorExtent b (if tb then 1 else 0)
  let kb := tensorExtent b (if tb then 0 else 1)
  let r := tensorRank d
  let acc := if tFormat a = 0 || tFormat b = 0 then 64 else 32
  let column := fun (i : Nat) => i = 0xFFFF || (tFormat (t i) = 1 && tShape (t i) = [nn])
  fieldOk n .must ai && fieldOk n .must bi && fieldOk n .may ci && fieldOk n .must di && fieldOk n .may si && fieldOk n .may vi &&
    (r == 2 || r == 3) && tensorRank a == r && tensorRank b == r && kb == k && tensorExtent d 0 == nn && tensorExtent d 1 == m &&
    (r == 2 || (tensorExtent a 2 == tensorExtent d 2 && tensorExtent b 2 == tensorExtent d 2)) &&
    (ci = 0xFFFF || (tShape (t ci) = tShape d && (fmtOf (tFormat (t ci))).isSome && fmtBits (tFormat (t ci)) ≤ acc)) &&
    column si && column vi && !([ai, bi, si, vi].contains di) && boundsOk (bits (wordAt ws 3) 63 32) (bits (wordAt ws 3) 31 0)

/-- How a VECTOR operation takes its shapes (R176). -/
inductive VShape where
  | elem
  | reduce
  | expSum
  | rms
  | meanVar
  | gather
  | scatter
  | sgd
  | adam
deriving DecidableEq, Repr

/-- Fields of a VECTOR operation (R175, R179): what Y, Z and OUT2 hold, what MASK_SRC is, how many immediates, its shapes. -/
structure VSpec where
  y : Want := .none
  z : Want := .none
  out2 : Want := .none
  mask : Want := .may
  imms : Nat := 0
  shape : VShape := .elem

/-- The operations of R175. -/
def vectorSpec (op : Nat) : Option VSpec :=
  if [0x01, 0x02, 0x03, 0x05, 0x06, 0x07].contains op then some { y := .must }
  else if op = 0x04 then some { y := .must, z := .must }
  else if [0x08, 0x09, 0x0D].contains op || (0x10 ≤ op && op ≤ 0x17) then some {}
  else if op = 0x0A || op = 0x0B then some { imms := 2 }
  else if op = 0x0C then some { y := .must, mask := .must }
  else if op = 0x20 then some { y := .must, imms := 1 }
  else if 0x30 ≤ op && op ≤ 0x34 then some { shape := .reduce }
  else if op = 0x38 then some { y := .must, out2 := .must, shape := .expSum }
  else if op = 0x39 then some { y := .must, imms := 1, shape := .rms }
  else if op = 0x3A then some { out2 := .must, shape := .meanVar }
  else if op = 0x40 then some { y := .must, mask := .none, shape := .gather }
  else if op = 0x41 || op = 0x42 then some { y := .must, mask := .none, shape := .scatter }
  else if op = 0x50 then some { y := .must, z := .must, out2 := .must, mask := .must, shape := .sgd }
  else if op = 0x51 then some { y := .must, z := .must, out2 := .must, mask := .must, shape := .adam }
  else none

/-- An operation that reduces over AXES (R79: codes 0x0030–0x003A). -/
def reduces (sh : VShape) : Bool := sh == .reduce || sh == .expSum || sh == .rms || sh == .meanVar

/-- The shape of a reduction's output: extent 1 in each dimension of AXES (R176). -/
def reducedShape (x : List Nat) (axes : Nat) : List Nat := (x.zip (upFrom 0 x.length)).map (fun e => if axes.testBit e.2 then 1 else e.1)

/-- Y of EXP_SUB_SUM is constant over each reduced set (R176). -/
def constantOver (y o : List W64) (axes : Nat) : Bool :=
  tensorRank y == tensorRank o && (upFrom 0 (tensorRank o)).all (fun d =>
    if axes.testBit d then
      tensorExtent y d == 1 || (decide (0 < d) && tensorExtent y d == tensorExtent o d && tensorStride y d == 0)
    else tensorExtent y d == tensorExtent o d)

/-- The table and the rows of a gather or scatter (R183). -/
def tableOk (table rows y : List W64) (gather : Bool) : Bool :=
  let f := tFormat table
  tKind y == 5 && tensorRank y == 1 && tensorRank table == 2 && tensorRank rows == 2 && tExternal table &&
    (decide (f ≤ 3) || f == 0xB || (gather && tScaled table && tScaleDim table == 0)) &&
    tensorExtent rows 0 == tensorExtent table 0 && tensorExtent rows 1 == tensorExtent y 0 &&
    (!(gather && tScaled table) ||
      (tFormat rows == f && tScaleDim rows == 0 && blockLen (tKind rows) == blockLen (tKind table)))

/-- The shapes an operation accepts (R176, R183, R186). -/
def vectorShapes (sh : VShape) (x y z o o2 : List W64) (inputs : List (List W64)) (mask : Option (List W64)) (axes : Nat) : Bool :=
  let maskX := match mask with
    | some m => tShape m == tShape x
    | none => true
  match sh with
  | .elem => inputs.all (fun t => tShape t == tShape o)
  | .reduce => tShape o == reducedShape (tShape x) axes && maskX
  | .expSum => tShape o == tShape x && tShape o2 == reducedShape (tShape x) axes && constantOver y o axes && maskX
  | .rms => tShape o == tShape x && tensorRank y == tensorRank o && maskX &&
      (upFrom 0 (tensorRank o)).all (fun d => tensorExtent y d == 1 || tensorExtent y d == tensorExtent o d)
  | .meanVar => tShape o == reducedShape (tShape x) axes && tShape o2 == reducedShape (tShape x) axes && maskX
  | .gather => tableOk x o y true
  | .scatter => tableOk o x y false
  | .sgd => tShape y == tShape x && tShape z == tShape x && tShape o == tShape x && tShape o2 == tShape z &&
      (match mask with | some p => tFormat p == 1 && tShape p == [8] | none => false)
  | .adam => tShape y == tShape x && tShape z == tShape x ++ [2] && tShape o == tShape x && tShape o2 == tShape z &&
      (match mask with | some p => tFormat p == 1 && tShape p == [8] | none => false)

/-- VECTOR (R79, R175–R179, R183, R186), its code being known. -/
def vectorOk (ts : List (List W64)) (ws : List W64) (op : Nat) (v : VSpec) : Bool :=
  let n := ts.length
  let t := fun (i : Nat) => ts.getD i []
  let xi := bits (wordAt ws 1) 63 48
  let yi := bits (wordAt ws 1) 47 32
  let zi := bits (wordAt ws 1) 31 16
  let oi := bits (wordAt ws 1) 15 0
  let o2i := bits (wordAt ws 2) 63 48
  let mi := bits (wordAt ws 2) 47 32
  let imms := [bits (wordAt ws 2) 31 0, bits (wordAt ws 3) 63 32, bits (wordAt ws 3) 31 0]
  let axes := bits (wordAt ws 4) 5 0
  let red := reduces v.shape
  let update := v.shape == .sgd || v.shape == .adam
  let ins := ([(xi, Want.must), (yi, v.y), (zi, v.z), (mi, v.mask)].filter (fun f => f.2 != .none && f.1 != 0xFFFF)).map (fun f => f.1)
  let alias_ := fun (i o : Nat) => v.shape == .elem || (update && ((i == xi && o == oi && i != yi && i != mi) || (i == zi && o == o2i && i != yi && i != mi)))
  let outs := if v.out2 == .must then [oi, o2i] else [oi]
  let apart := ins.all (fun i => outs.all (fun o => i != o || alias_ i o))
  let mask := if mi = 0xFFFF then Option.none else some (t mi)
  fieldOk n .must xi && fieldOk n v.y yi && fieldOk n v.z zi && fieldOk n .must oi && fieldOk n v.out2 o2i && fieldOk n v.mask mi &&
    (imms.drop v.imms).all (fun i => i == 0) &&
    (if red then axes != 0 && decide (axes < 2 ^ tensorRank (t xi)) else axes == 0) &&
    (v.out2 != .must || oi != o2i) && apart &&
    !(mask.isSome && v.mask == .may && tScaled (t oi) && (v.shape == .elem || v.shape == .expSum || v.shape == .rms)) &&
    (op != 0x20 || (tFormat (t oi) == 0xB && decide (imms.getD 0 0 ≤ 6))) && (op != 0x33 || tKind (t oi) == 5) &&
    (op != 0x0B || boundsOk (imms.getD 0 0) (imms.getD 1 0)) &&
    vectorShapes v.shape (t xi) (t yi) (t zi) (t oi) (t o2i) (ins.map t) mask axes

/-- Entries of a KERNEL node's use list: ACCESS and TENSOR (R80). -/
def useList (b : List Byte) (ws : List W64) : List (Nat × Nat) :=
  let n := bits (wordAt ws 4) 31 16
  (upFrom 0 n).map (fun i =>
    let e := leNat (poolBytes b (bits (wordAt ws 4) 63 32 + 4 * i) 4)
    (e / 2 ^ 30 % 4, e % 2 ^ 16))

/-- KERNEL (R80, R81). -/
def checkLaunch (b : List Byte) (ts : List (List W64)) (ws : List W64) (i : Nat) : Option Reject :=
  let args := bits (wordAt ws 1) 47 32
  let blocks := bits (wordAt ws 2) 63 32
  let threads := bits (wordAt ws 2) 31 16
  let cluster := bits (wordAt ws 2) 15 0
  let budget := bits (wordAt ws 3) 63 32
  let lbytes := bits (wordAt ws 3) 31 0
  let uses := bits (wordAt ws 4) 31 16
  let geometry := bits (wordAt ws 1) 63 48 < secCount b 4 && args ≤ 4096 && args % 8 = 0 && blocks ≠ 0 &&
    1 ≤ cluster && cluster ≤ 16 && blocks % cluster = 0 && 32 ≤ threads && threads ≤ 256 && threads % 32 = 0 &&
    1 ≤ budget && budget ≤ 262144 && args ≤ lbytes && lbytes ≤ 196608 && lbytes % 256 = 0 && uses ≤ 64
  firstReject ([
    demand geometry (0x000D, 2, i),
    poolRef b (bits (wordAt ws 1) 31 0) args,
    poolRef b (bits (wordAt ws 4) 63 32) (4 * uses)] ++
    (if geometry then (useList b ws).map (fun u => firstReject [
      demand (u.2 < ts.length) (0x000B, 2, i),
      demand (u.1 ≠ 0 && tExternal (ts.getD u.2 [])) (0x000D, 2, i)]) else []))

/-- COPY (R85). -/
def copyOk (ts : List (List W64)) (ws : List W64) : Bool :=
  let n := ts.length
  let si := bits (wordAt ws 1) 63 48
  let di := bits (wordAt ws 1) 47 32
  let ci := bits (wordAt ws 1) 31 16
  let x := ts.getD si []
  let d := ts.getD di []
  let c := ts.getD ci []
  let check := bits (wordAt ws 0) 33 32
  fieldOk n .must si && fieldOk n .must di && decide (check ≤ 1) && fieldOk n (if check = 1 then .must else .none) ci &&
    tFormat x == tFormat d && tShape x == tShape d &&
    (!tScaled x || (blockLen (tKind x) == blockLen (tKind d) && tScaleDim x == tScaleDim d)) &&
    (check = 0 || (tKind c == 6 && tShape c == [crcBytes (bits (wordAt ws 0) 35 34)]))

/-- WINDOW_PUT and WINDOW_GET (R73, R86). -/
def windowNodeOk (ts : List (List W64)) (ws : List W64) (put : Bool) : Bool :=
  let ti := bits (wordAt ws 1) 63 48
  let t := ts.getD ti []
  let sig := bit (wordAt ws 3) 63
  fieldOk ts.length .must ti && tExternal t && decide (tensorPacked t ≤ 2 ^ 30) &&
    (!sig || (put && bits (wordAt ws 3) 39 0 % 8 == 0))

/-- Step 5 of R90 for one node. -/
def checkNode (b : List Byte) (ts : List (List W64)) (ws : List W64) (i : Nat) : Option Reject :=
  let op := bits (wordAt ws 0) 55 40
  let field := fun (ok : Bool) => demand ok (0x000B, 2, i)
  let plain := fun (r : Option Reject) => if op = 0 then r else some (0x000A, 2, i)
  match nodeKind ws with
  | 1 => plain (field (matmulOk ts ws))
  | 2 => match vectorSpec op with
    | some v => field (vectorOk ts ws op v)
    | none => some (0x000A, 2, i)
  | 3 => plain (checkLaunch b ts ws i)
  | 4 => plain (field (copyOk ts ws))
  | 5 => plain (field (windowNodeOk ts ws true))
  | 6 => plain (field (windowNodeOk ts ws false))
  | 7 => plain (field (bits (wordAt ws 1) 54 0 % 8 == 0))
  | _ => some (0x000A, 2, i)

/-! ### Constraints (R89) -/

def cType (c : List W64) : Nat := bits (wordAt c 0) 63 56
def cTarget (c : List W64) : Nat := bits (wordAt c 0) 31 0
/-- Tiles of a PIN_TILES as a mask of 72 bits. -/
def cTiles (c : List W64) : Nat := (wordAt c 1).toNat + bits (wordAt c 2) 7 0 * 2 ^ 64
/-- Stacks of a PIN_STACKS. -/
def cStacks (c : List W64) : Nat := bits (wordAt c 1) 15 0

/-- TYPE, TARGET and values of a constraint. A PIN_STACKS with a mask of 0 is accepted: R89 states a rejection for PIN_TILES only
(DESIGN CHOICE, log 122). -/
def constraintOk (ts nodes : List (List W64)) (c : List W64) : Bool :=
  let t := cTarget c
  let v := (wordAt c 1).toNat
  match cType c with
  | 1 => decide (t < nodes.length) && [1, 2, 3, 4].contains (nodeKind (nodes.getD t [])) && cTiles c != 0
  | 2 => decide (t < ts.length)
  | 3 => decide (t < ts.length)
  | 4 => t == 0 && decide (v ≤ 7)
  | 5 => decide (t < ts.length) && tExternal (ts.getD t [])
  | 6 => t == 0 && decide (1 ≤ v) && decide (v < 2 ^ 32)
  | _ => false

/-- Step 6 of R90: each record by itself, and against those before it. -/
def checkConstraint (ts nodes cs : List (List W64)) (c : List W64) (i : Nat) : Option Reject :=
  let clash := (cs.take i).any (fun d => cTarget d == cTarget c &&
    (cType d == cType c || (cType d == 2 && cType c == 3) || (cType d == 3 && cType c == 2)))
  demand (constraintOk ts nodes c && !clash) (0x000E, 4, i)

/-! ### Step 7 (R70, R74) -/

/-- Tensors a node reads, and those it writes (R70, R82, R88). -/
def nodeReads (b : List Byte) (ws : List W64) : List Nat :=
  let f := fun (i : Nat) => [bits (wordAt ws i) 63 48, bits (wordAt ws i) 47 32, bits (wordAt ws i) 31 16, bits (wordAt ws i) 15 0]
  let all : List Nat := match nodeKind ws with
    | 1 => (f 1).take 3 ++ (f 2).take 2
    | 2 => (f 1).take 3 ++ [bits (wordAt ws 2) 47 32] ++ (if bits (wordAt ws 0) 55 40 = 0x42 then [bits (wordAt ws 1) 15 0] else [])
    | 3 => ((useList b ws).filter (fun (u : Nat × Nat) => u.1 % 2 == 1)).map (fun (u : Nat × Nat) => u.2)
    | 4 => (f 1).take 1
    | 5 => (f 1).take 1
    | _ => []
  all.filter (fun t => t != 0xFFFF)
def nodeWrites (b : List Byte) (ws : List W64) : List Nat :=
  let all : List Nat := match nodeKind ws with
    | 1 => [bits (wordAt ws 1) 15 0]
    | 2 => [bits (wordAt ws 1) 15 0, bits (wordAt ws 2) 63 48]
    | 3 => ((useList b ws).filter (fun (u : Nat × Nat) => decide (2 ≤ u.1))).map (fun (u : Nat × Nat) => u.2)
    | 4 => [bits (wordAt ws 1) 47 32, bits (wordAt ws 1) 31 16]
    | 6 => [bits (wordAt ws 1) 63 48]
    | _ => []
  all.filter (fun t => t != 0xFFFF)

/-- The scale array's footprint of a tensor. -/
def scaleFoot (ts : List W64) : Nat × Nat := (tensorScaleVa ts, tensorScales ts)

/-- Layout of a written tensor (R70). -/
def writtenLayoutOk (ts : List W64) : Bool :=
  let r := tensorRank ts
  (decide (r < 2) || decide (tensorRow ts ≤ tensorStride ts 1)) &&
    (upFrom 2 (r - 2)).all (fun d => decide (tensorStride ts (d - 1) * tensorExtent ts (d - 1) ≤ tensorStride ts d)) &&
    !(tExternal ts && tensorScales ts != 0 && rangesMeet (tensorVa ts) (tensorSpan ts) (tensorScaleVa ts) (tensorScales ts))

/-- Footprints of an EXTERNAL tensor, its scale array included (R68, R74). -/
def footprints (ts : List W64) : List (Nat × Nat) :=
  if !tExternal ts then [] else (tensorVa ts, tensorSpan ts) :: (if tensorScales ts = 0 then [] else [scaleFoot ts])

/-- Footprints of two tensors intersect. -/
def footprintsMeet (a b : List W64) : Bool :=
  (footprints a).any (fun x => (footprints b).any (fun y => rangesMeet x.1 x.2 y.1 y.2))

/-- Step 7 of R90. Of two tensors that meet, RECORD is the higher number (DESIGN CHOICE, log 123). -/
def checkLayout (b : List Byte) (ts nodes : List (List W64)) : Option Reject :=
  let written := nodes.flatMap (nodeWrites b)
  let num := upFrom 0 ts.length
  firstReject (num.map (fun t => demand (!written.contains t || writtenLayoutOk (ts.getD t [])) (0x0007, 1, t)) ++
    num.map (fun h => demand ((upFrom 0 h).all (fun l =>
      !(written.contains h || written.contains l) || !footprintsMeet (ts.getD h []) (ts.getD l []))) (0x000C, 1, h)))

/-! ### The whole validation -/

/-- Records of a section checked one after another. -/
def checkAll (rs : List (List W64)) (f : List W64 → Nat → Option Reject) : Option Reject :=
  firstReject ((rs.zip (upFrom 0 rs.length)).map (fun x => f x.1 x.2))

/-- Steps 3 to 7 of R90. -/
def checkRecords (b : List Byte) : Option Reject :=
  let ts := playTensors b
  let ns := playNodes b
  let cs := playConstraints b
  (checkAll ts checkTensor).orElse (fun _ => (checkAll (playKernels b) (checkKernel b)).orElse (fun _ =>
    (checkAll ns (checkNode b ts)).orElse (fun _ => (checkAll cs (checkConstraint ts ns cs)).orElse (fun _ => checkLayout b ts ns))))

/-- Steps 1 to 7 of R90: the first rejection. -/
def validatePlay (b : List Byte) (va len : Nat) : Option Reject :=
  (checkHeader b va len).orElse (fun _ => (checkSections b).orElse (fun _ => checkRecords b))

end Sys2Proof.Machine
end

