-- ==== Sys2Proof/Machine/Plan.lean ====
section
/-! DEFINITION. What the steps and work lists of a plan obey (R93, R101–R107, R181, R199): claims and slot-run records, the lists
that a step starts and how their records stand to the nodes, the order of nodes, the time of a list. Where a record's operands are
staged in the tile stores is the prompter's own affair (log 61). -/

namespace Sys2Proof.Machine

/-! ### The work lists of a plan (R52) -/

/-- A work list that a step starts: step, tile, unit, node, cues allotted, place, header words 0 and 1, records. -/
structure PlanList where
  step : Nat
  tile : Nat
  unit : Nat
  node : Nat
  span : Nat
  desc : Nat
  head : W64
  second : W64
  records : List (List W64)

/-- Bytes of a plan's image in a tile store; later pieces stand over earlier ones. -/
def planBytes (plan : Plan) (t off n : Nat) : List Byte :=
  (upFrom off n).map (fun o => ((plan.image.reverse.findSome? (fun i =>
    if i.1 = t && decide (i.2.1 ≤ o) then i.2.2[o - i.2.1]? else none)).getD 0))

/-- Words of a record of a unit's list (R155, R187, R197, R334). -/
def listWords (u : Nat) : Nat := if u < 4 then 8 else if u < 8 then 24 else if u < 24 then 8 else 16

/-- Records of a list at most (R155, R187, R197, R334). -/
def listMost (u : Nat) : Nat := if u < 4 then 64 else if u < 8 then 128 else if u < 24 then 16 else 64

def readList (plan : Plan) (k : Nat) (e : TileEntry) (u : Nat) : PlanList :=
  let d := e.desc.getD u 0
  let w := leWords 2 (planBytes plan e.tile d 16)
  let n := listWords u
  { step := k, tile := e.tile, unit := u, node := e.nodes.getD u 0, span := max 1 (e.span.getD u 1), desc := d
    head := wordAt w 0, second := wordAt w 1
    records := (upFrom 0 (bits (wordAt w 0) 47 40)).map (fun i => leWords n (planBytes plan e.tile (d + 64 + 8 * n * i) (8 * n))) }

/-- Steps with their numbers. -/
def stepsNumbered (steps : List PlanStep) : List (Nat × PlanStep) := (upFrom 0 steps.length).zip steps

def planLists (plan : Plan) : List PlanList :=
  (stepsNumbered plan.steps).flatMap (fun x => x.2.entries.flatMap (fun e => (bitList e.start 28).map (readList plan x.1 e)))

/-- The header is that of the context's work (R155, R187, R197, R334): CONTEXT, COUNT, LEGACY, DEBUG, SEED. A mover's list that only
reaches INTERNAL tensors may run for the house, context 0. -/
def headOk (x : Context) (c : Nat) (l : PlanList) : Bool :=
  let n := bits l.head 47 40
  let head := fun (c : Nat) => fld c 12 48 ||| fld n 8 40 |||
    (if l.unit < 24 then flag x.legacy 39 else 0) ||| (if 8 ≤ l.unit && l.unit < 24 then flag x.debug 38 else 0)
  decide (1 ≤ n) && decide (n ≤ listMost l.unit) && (l.head == head c || (decide (24 ≤ l.unit) && l.head == head 0)) &&
    l.second == (if 4 ≤ l.unit && l.unit < 8 then x.seed else 0)

/-! ### Trees of chunks (R104, R141, R181) -/

/-- The largest power of two below `n`, for n > 1. -/
def halfOf (n : Nat) : Nat := 2 ^ Nat.log2 (n - 1)

/-- Chunks `a` to `a + k − 1` form one complete subtree of the tree over chunks `lo` to `lo + n − 1` (R104, R141). -/
def subtree (a k : Nat) : Nat → Nat → Nat → Bool
  | 0, _, _ => false
  | fuel + 1, lo, n =>
    if a = lo && k = n then true
    else if n ≤ 1 then false
    else if a + k ≤ lo + halfOf n then subtree a k fuel lo (halfOf n)
    else decide (lo + halfOf n ≤ a) && subtree a k fuel (lo + halfOf n) (n - halfOf n)

/-- Elements of a chunk (R104); a class-64 or LEGACY sum has one. -/
def chunkOf (legacy : Bool) (cls k : Nat) : Nat := if legacy || cls = 64 then max 1 k else if cls = 32 then 256 else 2048

/-- The piece that the plan gives a record. -/
def pieceOf (plan : Plan) (l : PlanList) (i : Nat) : Option Piece :=
  plan.pieces.find? (fun p => p.tile == l.tile && p.desc == l.desc && p.record == i)

/-- Two pieces belong to one block or one output. -/
def sameBlock (p q : Piece) : Bool := p.m == q.m && p.n == q.n && p.b == q.b

/-- The two subtrees that an addition joins are there (R104, R141). -/
def joined (all : List Piece) (p : Piece) : Bool :=
  decide (2 ≤ p.len) && [(p.lo, halfOf p.len), (p.lo + halfOf p.len, p.len - halfOf p.len)].all (fun c =>
    all.any (fun q => sameBlock p q && q.lo == c.1 && q.len == c.2))

/-! ### MATMUL (R77, R78, R104, R156) -/

/-- K position of the FRESH pass that a pass continues from, by the passes of its MXE before it, latest first; none where K has a
gap (R157). -/
def freshStart : List PassRec → PassRec → Option Nat
  | rev, r =>
    if r.accIn = 0 then some r.kStart
    else match rev with
      | [] => none
      | p :: ps =>
        if p.op = 1 && (if r.accIn = 1 then p.accOut == 0 && p.bank == r.bank else p.accOut == 1 && p.accAt == r.accAt) then
          (if p.kStart + p.kLen = r.kStart then freshStart ps p else none)
        else freshStart ps r

/-- A record of a MATMUL's list against its node (R77, R78, R156, R166): formats, scale blocks, and, where the sum is completed
into D, the pipeline. -/
def passFields (ts : List (List W64)) (ws : List W64) (legacy : Bool) (r : PassRec) : Bool :=
  let t := fun (i : Nat) => ts.getD i []
  let a := t (bits (wordAt ws 1) 63 48)
  let b := t (bits (wordAt ws 1) 47 32)
  let ci := bits (wordAt ws 1) 31 16
  let d := t (bits (wordAt ws 1) 15 0)
  let ta := bit (wordAt ws 0) 32
  let tb := bit (wordAt ws 0) 33
  let scales := fun (x : List W64) (l : Nat) (on : Bool) (k m : Nat) =>
    !tScaled x || (l == blockLen (tKind x) && (if on then tScaleDim x != k else tScaleDim x != m))
  let cOk := if ci = 0xFFFF then r.cFmt == 15 else r.cFmt == tFormat (t ci) && scales (t ci) r.cL r.cM 0 1
  let fresh := r.op = 1 && r.accIn = 0 && (legacy || r.wide)
  r.aFmt == tFormat a && r.bFmt == tFormat b && scales a r.aL r.aM (if ta then 1 else 0) (if ta then 0 else 1) &&
    scales b r.bL r.bN (if tb then 1 else 0) (if tb then 0 else 1) && (!(fresh || r.accOut == 2) || cOk) &&
    (r.accOut != 2 ||
      (r.dFmt == tFormat d && (!tScaled d || (r.dKind == tKind d && (if r.dM then tScaleDim d != 0 else tScaleDim d != 1))) &&
        ((r.colAt == 0xFFFFFFFF) == (bits (wordAt ws 2) 63 48 == 0xFFFF)) && ((r.biasAt == 0xFFFFFFFF) == (bits (wordAt ws 2) 47 32 == 0xFFFF)) &&
        r.lo == bits (wordAt ws 3) 63 32 && r.hi == bits (wordAt ws 3) 31 0))

/-- The records of a MATMUL: with each, its piece, and the passes of its MXE before it. -/
structure MatRec where
  r : PassRec
  piece : Option Piece
  before : List PassRec

/-- Records of the lists of one MXE in order, with the passes before each, latest first. -/
def matRecords (plan : Plan) (ls : List PlanList) (l : PlanList) : List MatRec :=
  let older := ((ls.filter (fun x => x.tile == l.tile && x.unit == l.unit && decide (x.step < l.step))).flatMap (fun x => x.records)).map passRec
  let mine := l.records.map passRec
  (upFrom 0 mine.length).map (fun i =>
    { r := mine.getD i (passRec []), piece := pieceOf plan l i, before := (older ++ mine.take i).reverse })

/-- The chunks a record's sum is said to cover are those it covers: a pass streams them, a COMBINE joins two subtrees (R104, R162,
R165). -/
def chunksOk (legacy : Bool) (k : Nat) (all : List Piece) (x : MatRec) (p : Piece) : Bool :=
  let c := chunkOf legacy x.r.cls k
  let n := ceilDiv k c
  subtree p.lo p.len 64 0 n && (x.r.accOut == 3 || (p.lo == 0 && p.len == n)) && !(x.r.accOut == 3 && (legacy || x.r.wide)) &&
    (if x.r.op = 2 then joined all p
     else freshStart x.before x.r == some (p.lo * c) && x.r.kStart + x.r.kLen == min ((p.lo + p.len) * c) k)

/-- Blocks of D that two records finish do not meet. -/
def blocksApart (x y : PassRec × Piece) : Bool :=
  x.2.b != y.2.b || !rangesMeet x.2.m x.1.rows y.2.m y.1.rows || !rangesMeet x.2.n x.1.cols y.2.n y.1.cols

/-- Pairs of a list, each with a later one. -/
def eachPair {α : Type} (f : α → α → Bool) : List α → Bool
  | [] => true
  | x :: xs => xs.all (f x) && eachPair f xs

/-- The lists of a MATMUL: its records agree with it, its finished blocks make up D, and K is cut only as R104 cuts it (R77, R104). -/
def matmulPlanned (plan : Plan) (legacy : Bool) (ts : List (List W64)) (ws : List W64) (ls all : List PlanList) : Bool :=
  let recs := ls.flatMap (matRecords plan all)
  let d := ts.getD (bits (wordAt ws 1) 15 0) []
  let k := tensorExtent (ts.getD (bits (wordAt ws 1) 63 48) []) (if bit (wordAt ws 0) 32 then 1 else 0)
  let m := tensorExtent d 1
  let n := tensorExtent d 0
  let batch := if tensorRank d = 3 then tensorExtent d 2 else 1
  let done := recs.filter (fun x => x.r.accOut ≥ 2)
  let pieces := done.filterMap (fun x => x.piece)
  let fins := (done.filter (fun x => x.r.accOut == 2)).filterMap (fun x => x.piece.map (fun p => (x.r, p)))
  recs.all (fun x => passFields ts ws legacy x.r && decide (x.r.kStart + x.r.kLen ≤ k || x.r.op = 2)) &&
    done.all (fun x => match x.piece with
      | some p => decide (p.m + x.r.rowsGiven ≤ m) && decide (p.n + x.r.colsGiven ≤ n) && decide (p.b < batch) && chunksOk legacy k pieces x p
      | none => false) &&
    eachPair blocksApart fins && (fins.map (fun x => x.1.rows * x.1.cols)).sum == m * n * batch

/-! ### VECTOR (R79, R104, R181, R188) -/

/-- Operations that the lists of a node may hold beside its own: MASK_LOAD, and what combines the parts of a reduction; MEAN_VAR,
RMS_SCALE and ARGMAX may take several (R181, R190). -/
def vecAllowed (op : Nat) : List Nat :=
  [op, opMaskLoad] ++
    (if [0x30, 0x34].contains op then [0x01] else if op = 0x31 then [0x07] else if op = 0x32 then [0x06]
     else if [0x33, 0x39, 0x3A].contains op then vecOps else [])

/-- Records of a list with the counts and reduced levels of their sequences (R189). -/
def vecSequences : List Nat → Nat → List (List W64) → List (VRec × List Nat × Nat)
  | _, _, [] => []
  | counts, k, w :: ws =>
    let r := vecRec w
    let c := if counts.isEmpty then r.counts.take (max 1 (min 5 r.levels)) else counts
    let n := if counts.isEmpty then axesLevels r.axes else k
    (r, c, n) :: (if r.chain then vecSequences c n ws else vecSequences [] 0 ws)

/-- A record of the node's own operation against its node (R79, R175, R188): formats of the operands in the tile store, kind of the
output, immediates, mask. -/
def vecFields (ts : List (List W64)) (ws : List W64) (op : Nat) (r : VRec) : Bool :=
  let operand := fun (i : Nat) => bits (wordAt ws (1 + i / 4)) (63 - 16 * (i % 4)) (48 - 16 * (i % 4))
  let t := fun (i : Nat) => ts.getD (operand i) []
  let plain := !vecWeightOps.contains op && op != 0x0C
  r.op != op ||
    (r.used.all (fun i => (r.slot i).reg || r.fmt i == tFormat (t i)) &&
      ((r.slot 3).reg || r.toMask || !tScaled (t 3) || r.kind == tKind (t 3)) &&
      (!r.used.contains 4 || (r.slot 4).reg || !tScaled (t 4) || r.kind2 == tKind (t 4)) &&
      r.imm0 == bits (wordAt ws 2) 31 0 && r.imm1 == bits (wordAt ws 3) 63 32 &&
      (!plain || r.maskEn == (operand 5 != 0xFFFF)))

/-- Elements of a tensor. -/
def tensorCount (ts : List W64) : Nat := (tShape ts).foldl (· * ·) 1

/-- Terms of one reduced set of a node (R79, R180). -/
def termsOf (ts : List (List W64)) (ws : List W64) : Nat :=
  let x := ts.getD (bits (wordAt ws 1) 63 48) []
  (upFrom 0 (tensorRank x)).foldl (fun n d => if (bits (wordAt ws 4) 5 0).testBit d then n * tensorExtent x d else n) 1

/-- A sum is whole in its sequence, or a set of whole chunks forming a subtree, joined by the additions of the tree (R104, R181). -/
def sumCut (legacy masked : Bool) (cls n : Nat) (all : List Piece) (op : Nat) (r : VRec) (terms : Nat) (p : Option Piece) : Bool :=
  match p with
  | none => r.op != op || terms == n
  | some p =>
    let c := chunkOf legacy cls n
    let chunks := ceilDiv n c
    !masked && subtree p.lo p.len 64 0 chunks && chunks != 1 &&
      (if r.op = op then terms == min ((p.lo + p.len) * c) n - p.lo * c else joined all p)

/-- Weight records name every element of OUT once (R79, R186). -/
def linearOk (plan : Plan) (ls : List PlanList) (op total : Nat) : Bool :=
  let one := fun (l : PlanList) => ((upFrom 0 l.records.length).zip (vecSequences [] 0 l.records)).flatMap (fun x =>
    if x.2.1.op ≠ op then []
    else
      let n := x.2.2.1.foldl (· * ·) 1
      match plan.linear.find? (fun m => m.tile == l.tile && m.desc == l.desc && m.record == x.1) with
      | some m => (upFrom 0 n).map (fun e => m.base + (((levelIndex x.2.2.1 e).zip m.mult).map (fun y => y.1 * y.2)).sum)
      | none => upFrom 0 n)
  let all := ls.flatMap one
  all.all (fun i => decide (i < total)) && decide all.Nodup && all.length == total

/-- The lists of a VECTOR node (R79, R181, R186). -/
def vectorPlanned (plan : Plan) (legacy : Bool) (ts : List (List W64)) (ws : List W64) (ls : List PlanList) : Bool :=
  let op := bits (wordAt ws 0) 55 40
  let recs := ls.flatMap (fun l => ((upFrom 0 l.records.length).zip (vecSequences [] 0 l.records)).map (fun x => (pieceOf plan l x.1, x.2)))
  let x := ts.getD (bits (wordAt ws 1) 63 48) []
  let o := ts.getD (bits (wordAt ws 1) 15 0) []
  let count := tensorCount (if op = 0x40 then o else x)
  let masked := bits (wordAt ws 2) 47 32 != 0xFFFF
  let pieces := recs.filterMap (fun y => y.1)
  let several := [0x39, 0x3A].contains op
  recs.all (fun y => (vecAllowed op).contains y.2.1.op && vecFields ts ws op y.2.1) &&
    (several || ((recs.filter (fun y => y.2.1.op == op)).map (fun y => y.2.2.1.foldl (· * ·) 1)).sum == count) &&
    (!([0x30, 0x34, 0x38] : List Nat).contains op || (recs.all (fun y => sumCut legacy masked (fmtClass (tFormat x)) (termsOf ts ws) pieces op y.2.1
        ((y.2.2.1.take y.2.2.2).foldl (· * ·) 1) y.1) &&
      (pieces.isEmpty || pieces.any (fun p => p.lo == 0 && p.len == ceilDiv (termsOf ts ws) (chunkOf legacy (fmtClass (tFormat x)) (termsOf ts ws)))))) &&
    (!vecWeightOps.contains op || linearOk plan ls op (tensorCount o))

/-! ### KERNEL (R80, R81, R103, R198, R199) -/

/-- Cues of a block by its budget (R103). -/
def blockCues (budget : Nat) : Nat := if budget ≤ 3968 then 1 else ceilDiv (budget - 3968) 4096 + 1

/-- A block record against its node (R80, R81, R84, R198): code, geometry, arguments as the pool holds them. -/
def blockFields (plan : Plan) (b : List Byte) (ws : List W64) (node t : Nat) (r : List W64) : Bool :=
  let k := (playKernels b).getD (bits (wordAt ws 1) 63 48) []
  let n := bits (wordAt k 0) 31 0
  let args := bits (wordAt ws 1) 47 32
  let x := blockOf r
  x.codeBytes == n && planBytes plan t x.codeAt n == poolBytes b (bits (wordAt k 0) 63 32) n && bits (wordAt r 1) 63 32 == bits (wordAt k 1) 63 32 &&
    x.threads == bits (wordAt ws 2) 31 16 && x.cluster == bits (wordAt ws 2) 15 0 && x.blocks == bits (wordAt ws 2) 63 32 &&
    decide (x.rank < x.cluster) && bits (wordAt r 3) 31 16 == args &&
    planBytes plan t (bits (wordAt r 3) 63 32) args == poolBytes b (bits (wordAt ws 1) 31 0) args &&
    x.localBytes == bits (wordAt ws 3) 31 0 && bits (wordAt r 4) 31 0 == bits (wordAt ws 3) 63 32 && x.node == node

/-- The other blocks of a cluster have lists on the GPs that RANK_GP names, on the tile and in the step (R103, R199). -/
def clusterOk (all : List PlanList) (l : PlanList) (x : Block) : Bool :=
  x.cluster == 1 || (l.records.length == 1 && (upFrom 0 x.cluster).all (fun r => all.any (fun y =>
    y.step == l.step && y.tile == l.tile && y.unit == 8 + rankGp x r && y.records.any (fun w =>
      let z := blockOf w
      z.node == x.node && z.rank == r && z.block + x.rank == x.block + r && z.rankGp == x.rankGp))))

/-- The lists of a KERNEL node: each block once, in the cues its budget gives it, or up to four more (R80, R83, R103, R122, R199). -/
def kernelPlanned (plan : Plan) (b : List Byte) (ws : List W64) (node : Nat) (ls all : List PlanList) : Bool :=
  let budget := bits (wordAt ws 3) 63 32
  let blocks : List Nat := ls.flatMap (fun l => l.records.map (fun r => (blockOf r).block))
  ls.all (fun l => l.records.all (fun r => blockFields plan b ws node l.tile r && clusterOk all l (blockOf r)) &&
    (if l.records.length = 1 then decide (blockCues budget ≤ l.span) && decide (l.span ≤ blockCues budget + 4)
     else decide (l.records.length * budget ≤ 3968) && decide (l.span ≤ 5))) &&
    blocks.length == bits (wordAt ws 2) 63 32 && decide blocks.Nodup && blocks.all (fun i => decide (i < bits (wordAt ws 2) 63 32))

/-! ### COPY (R85) -/

/-- Source and destination address of every byte that a record moves. -/
def recordMoves (t : Transfer) : List (Nat × Nat) :=
  let bytes := fun (runs : List (Nat × Nat)) => runs.flatMap (fun r => upFrom r.1 r.2)
  (bytes (streamRuns t.src t.counts t.srcStride (streamLen t) 0 (streamLen t))).zip
    (bytes (streamRuns t.dst t.counts t.dstStride (streamLen t) 0 (streamLen t)))

/-- The bytes that a COPY moves: elements, then scales, each from its place in SRC to its place in DST (R85). -/
def copyMoves (x d : List W64) : List (Nat × Nat) :=
  let bytes := fun (ts : List W64) => (tensorRuns ts 0 (tensorPacked ts + tensorScales ts)).flatMap (fun r => upFrom r.1 r.2)
  (bytes x).zip (bytes d)

/-- The records of a COPY between EXTERNAL tensors that move from memory to memory move bytes of SRC to their places in DST; when all
do, they move every byte (R85). Records through the tile stores are staging (log 61). -/
def copyPlanned (s : State) (c : Nat) (ts : List (List W64)) (ws : List W64) (ls : List PlanList) : Bool :=
  let x := ts.getD (bits (wordAt ws 1) 63 48) []
  let d := ts.getD (bits (wordAt ws 1) 47 32) []
  let recs := ls.flatMap (fun l => l.records.map (recordTransfer s l.tile c))
  let direct := recs.filter (fun t => t.srcKind == 0 && t.dstKind == 0)
  let moves := direct.flatMap recordMoves
  !(tExternal x && tExternal d) || bits (wordAt ws 0) 33 32 != 0 ||
    (moves.all (copyMoves x d).contains && (direct.length != recs.length || (copyMoves x d).all moves.contains))

/-! ### Time of a list (R102, R153, R167, R190, R199, R340) -/

/-- Stream cycles for 32 elements of K (R153). -/
def streamRate (cls : Nat) : Nat := match cls with
  | 4 => 16
  | 8 => 32
  | 16 => 64
  | 32 => 256
  | _ => 1024

/-- Where an MXE list stands: first cycle the next stream may take, first cycle each bank and the result port are free, and the
last cycle that any action has taken so far (R167). -/
structure MxeTime where
  cursor : Nat := 24
  free0 : Nat := 0
  free1 : Nat := 0
  port : Nat := 0
  last : Nat := 23

/-- Bytes of a C row and of a D row: 128 elements (R161, R167). -/
def rowBytes (fmt : Nat) : Nat := 16 * fmtBits fmt

/-- One record of an MXE list (R167). -/
def mxeStep (m : MxeTime) (r : PassRec) : MxeTime :=
  let cRow := if r.cFmt = 15 then 0 else rowBytes r.cFmt
  let dRow := rowBytes r.dFmt
  if r.op = 2 then
    let n := 20 + 128 * ceilDiv (1024 + cRow + (if r.accOut = 2 then dRow else 512)) 512
    { m with port := m.port + n, last := max m.last (m.port + n - 1) }
  else
    let free := if r.bank then m.free1 else m.free0
    let start := max m.cursor (if r.accIn = 1 then 0 else free)
    let go := if r.accIn = 2 then max start m.port + 1153 else start
    let stop := go + ceilDiv r.kLen 32 * streamRate r.cls
    let full := stop - 1 + 254
    let n := if r.accOut = 0 then 0 else if r.accOut = 1 then 1153 else if r.accOut = 3 then 144
      else 20 + 128 * ceilDiv (cRow + dRow) 512 + (if r.dM && fmtScaled r.dFmt then 32 else 0)
    let fin := if n = 0 then full else max (full + 1) m.port + n - 1
    { cursor := stop
      free0 := if r.bank then m.free0 else fin + 1
      free1 := if r.bank then fin + 1 else m.free1
      port := if n = 0 then (if r.accIn = 2 then go else m.port) else fin + 1
      last := max m.last fin }

/-- Cycles of a VXE record on a strip of `n` elements (R190). -/
def vecCycles (l : Nat → Nat) (r : VRec) (n : Nat) : Nat :=
  let w := r.wide
  let bytes := fun (is : List Nat) => ((is.filter (fun i => !(r.slot i).reg && !(vecTableOps.contains r.op && (i == 0 || i == 3)))).map (fun i =>
    ceilDiv (n * fmtBits (r.fmt i)) 8 + (if fmtScaled (r.fmt i) then ceilDiv n (l i) else 0))).sum
  let ins := r.used.filter (fun i => decide (i < 3))
  let outs := r.used.filter (fun i => decide (3 ≤ i))
  let fast := [0x01, 0x02, 0x03, 0x04, 0x06, 0x07].contains r.op && !r.maskEn && (r.fmt 3 == 2 || r.fmt 3 == 3) &&
    r.used.all (fun i => r.fmt i == r.fmt 3)
  let c := if [0x05, 0x10, 0x11, 0x12].contains r.op then (if w then 128 else 32)
    else if [0x13, 0x14, 0x15, 0x16, 0x17].contains r.op then (if w then 192 else 48)
    else if r.op = 0x38 then (if w then 208 else 56)
    else if r.op = 0x50 then (if w then 48 else 24)
    else if r.op = 0x51 then (if w then 384 else 96)
    else if w then 16 else if fast then 4 else 8
  max c (max (ceilDiv (bytes ins) 1024) (ceilDiv (bytes outs) 512))

/-- Cycles of a VXE list; a gather's or scatter's rows come on top (R190). -/
def vecListCycles (l : Nat → Nat) (recs : List (VRec × List Nat × Nat)) : Nat :=
  (recs.map (fun x =>
    let total := x.2.1.foldl (· * ·) 1
    let set := max 1 ((x.2.1.take x.2.2).foldl (· * ·) 1)
    let strips := (upFrom 0 (ceilDiv total 2048)).map (fun i => (2048 * i, min total (2048 * (i + 1))))
    (strips.map (fun s => vecCycles l x.1 (s.2 - s.1) +
      (if vecReduceOps.contains x.1.op && decide (s.1 / set < s.2 / set) then 16 else 0))).sum + (if x.1.chain then 0 else 16))).sum

/-- Cycles of a list from cycle 0 of its cue, GP lists apart (R167, R190, R340). -/
def listCycles (s : State) (ts : List (List W64)) (ws : List W64) (c : Nat) (l : PlanList) : Nat :=
  if l.unit < 4 then ((l.records.map passRec).foldl mxeStep {}).last
  else if l.unit < 8 then
    vecListCycles (fun i => blockLen (tKind (ts.getD (bits (wordAt ws (1 + i / 4)) (63 - 16 * (i % 4)) (48 - 16 * (i % 4))) [])))
      (vecSequences [] 0 l.records)
  else (l.records.map (fun r => 16 + ceilDiv (streamLen (recordTransfer s l.tile c r)) 256)).sum

/-- The list ends by the call point of its last cue (R102, R103). -/
def listInTime (s : State) (ts ns : List (List W64)) (c : Nat) (l : PlanList) : Bool :=
  (8 ≤ l.unit && l.unit < 24) || decide (listCycles s ts (ns.getD l.node []) c l ≤ 3968 + 4096 * (l.span - 1))

/-! ### The lists of a plan against its nodes (R75, R93) -/

/-- Unit kinds that work for a node kind: MXEs for MATMUL, VXEs for VECTOR, GPs for KERNEL, movers for any (R77, R79, R80, R85). -/
def unitKindOk (u kind : Nat) : Bool :=
  if u < 4 then kind == 1 else if u < 8 then kind == 2 else if u < 24 then kind == 3 else decide (kind ≤ 4)

/-- A mover's list of the house reaches only the places of INTERNAL tensors (R73, R101). -/
def houseListOk (s : State) (plan : Plan) (l : PlanList) : Bool :=
  decide (l.unit < 24) || bits l.head 59 48 != 0 || l.records.all (fun r =>
    let t := recordTransfer s l.tile 0 r
    let inside := fun (base : Nat) (strides : List Int) =>
      let sp := spanOf t.counts strides
      plan.places.any (fun x => x.2.any (fun p => decide ((p.1 : Int) ≤ (base : Int) + sp.1) && decide ((base : Int) + sp.2 < p.1 + p.2)))
    (t.srcKind != 0 || inside t.src t.srcStride) && (t.dstKind != 0 || inside t.dst t.dstStride))

/-- Every list is one that its node and its context call for. -/
def listsOk (s : State) (c : Nat) (b : List Byte) (plan : Plan) : Bool :=
  let x := ctxOf s c
  let ts := playTensors b
  let ns := playNodes b
  let all := planLists plan
  all.all (fun l => headOk x c l && unitKindOk l.unit (nodeKind (ns.getD l.node [])) && houseListOk s plan l && listInTime s ts ns c l) &&
    ((upFrom 0 ns.length).zip ns).all (fun n =>
      let ls := all.filter (fun l => l.node == n.1)
      ls.isEmpty || (match nodeKind n.2 with
        | 1 => matmulPlanned plan x.legacy ts n.2 (ls.filter (fun l => decide (l.unit < 4))) all
        | 2 => vectorPlanned plan x.legacy ts n.2 (ls.filter (fun l => decide (4 ≤ l.unit) && decide (l.unit < 8)))
        | 3 => kernelPlanned plan b n.2 n.1 (ls.filter (fun l => decide (8 ≤ l.unit) && decide (l.unit < 24))) all
        | _ => copyPlanned s c ts n.2 ls))

/-! ### Order of nodes (R75, R105) -/

/-- Two nodes conflict: one writes a tensor that the other reads or writes (R105). -/
def nodesConflict (x y : List Nat × List Nat) : Bool :=
  x.2.any (fun t => y.1.contains t || y.2.contains t) || y.2.any x.1.contains

/-- First step in which a node's work starts, and the last that it is allotted. -/
def nodeSpan (ls : List PlanList) (n : Nat) : Option (Nat × Nat) :=
  match ls.filter (fun l => l.node == n) with
  | [] => none
  | l :: rest => some (rest.foldl (fun a x => min a x.step) l.step, rest.foldl (fun a x => max a (x.step + x.span - 1)) (l.step + l.span - 1))

/-- The work of a node that conflicts with an earlier one starts after it has ended (R105). -/
def ordered (uses : List (List Nat × List Nat)) (ls : List PlanList) : Bool :=
  let num := (upFrom 0 uses.length).zip uses
  num.all (fun y => num.all (fun x => !(decide (x.1 < y.1) && nodesConflict x.2 y.2) ||
    (match nodeSpan ls x.1, nodeSpan ls y.1 with
      | some a, some b => decide (a.2 < b.1)
      | _, _ => true)))

/-! ### Steps, claims and slot-run records (R53, R103, R106, R107) -/

/-- Ridges between two bays of a partition (R106) that have not failed (R26). -/
def partRidges (s : State) (p : Nat) : List Nat :=
  (partBays s p).filter (fun r => (partBays s p).contains ((r + 1) % 8) && !(trussOf s (88 + r)).failed)

/-- Stacks that a load plans with: a failed one counts as outside the partition (R304). -/
def planStacks (s : State) (p : Nat) : List Nat := (partStacks s p).filter (fun k => (stackOf s k).state ≠ 2)

/-- A mask names only members of a list. -/
def maskWithin (m n : Nat) (l : List Nat) : Bool := decide (m < 2 ^ n) && (bitList m n).all l.contains

/-- Work of a tile that started in an earlier step continues in step `k` (R103, R107). -/
def continues (steps : List PlanStep) (k t : Nat) : Bool :=
  ((stepsNumbered steps).take k).any (fun x => x.2.entries.any (fun e => e.tile == t &&
    (bitList e.start 28).any (fun u => decide (k - x.1 < max 1 (e.span.getD u 1)))))

/-- The links that a record uses: that it transmits on, and that it forwards from (R53). -/
def runLinks (r : W64) : List Nat := if runRes r = 0 then [runLink r] else if runRes r = 2 then [runLink r, runChannel r / 16] else []

/-- Every record of a step, by tile or hub entry. -/
def stepRuns (st : PlanStep) : List W64 := st.entries.flatMap (fun e => e.runs) ++ st.hubs.flatMap (fun h => h.runs)

/-- Scheduled units that lie in windows 104–110, from unit 91 on (R46, R50). -/
def usesDark (r : W64) : Bool := runRes r == 1 && decide (91 < (runSpan (fun _ => false) r).2) && decide ((runSpan (fun _ => false) r).1 < (runSpan (fun _ => false) r).2)

/-- The claim names exactly what the step uses (R106). -/
def claimExact (s : State) (steps : List PlanStep) (k : Nat) (st : PlanStep) : Bool :=
  let runs := stepRuns st
  let braces := runs.flatMap runLinks
  (upFrom 0 72).all (fun t => st.claim.tiles.testBit t ==
    (st.entries.any (fun e => e.tile == t && decide (e.start % 2 ^ 28 ≠ 0)) || continues steps k t || (tilePos s t).any braces.contains)) &&
    (upFrom 0 16).all (fun m => st.claim.mstacks.testBit m == runs.any (fun r => runRes r == 1 && runChannel r / 256 == m)) &&
    (upFrom 0 8).all (fun r => st.claim.ridges.testBit r == braces.contains (88 + r)) &&
    (upFrom 0 8).all (fun d => st.claim.dark.testBit d == runs.any (fun r => usesDark r && runChannel r % 8 == d))

/-- A tile's record: on its own brace or on a joist to another tile of the step, on channels of the partition, never forwarding
(R53, R106). -/
def tileRunOk (s : State) (p : Nat) (st : PlanStep) (t : Nat) (r : W64) : Bool :=
  match tilePos s t, runRes r with
  | some n, 0 =>
    let other := if runLink r = 96 + n then (n + 1) % 80 else (n + 79) % 80
    !(trussOf s (runLink r)).failed && (runLink r == n ||
      ((runLink r == 96 + n || runLink r == 96 + (n + 79) % 80) && (posTile s other).any (fun u => st.claim.tiles.testBit u)))
  | some _, 1 => (planStacks s p).contains (runChannel r / 256) && runPosition r == 0
  | _, 2 => false
  | _, _ => true

/-- A hub's record: on links of the hub, on its channels for a tile of the step (R53, R106). -/
def hubRunOk (s : State) (p : Nat) (st : PlanStep) (h : Nat) (r : W64) : Bool :=
  let mine := fun (l : Nat) => !(trussOf s l).failed &&
    ((posTile s l).any (fun t => decide (l < 80) && l / 10 == h && st.claim.tiles.testBit t) ||
      (l == 88 + h && (partRidges s p).contains h) || (l == 88 + (h + 7) % 8 && (partRidges s p).contains ((h + 7) % 8)))
  match runRes r with
  | 0 => mine (runLink r)
  | 1 => runChannel r / 512 == h && (planStacks s p).contains (runChannel r / 256) &&
      (posTile s (runPosition r)).any (fun t => st.claim.tiles.testBit t)
  | 2 => mine (runLink r) && mine (runChannel r / 16)
  | _ => true

/-- A step's claim lies in its partition, leaves a dark phase free, and is what the step uses (R49, R106). -/
def stepOk (s : State) (p : Nat) (steps : List PlanStep) (k : Nat) (st : PlanStep) : Bool :=
  maskWithin st.claim.tiles 72 (servingTiles s p) && maskWithin st.claim.mstacks 16 (planStacks s p) &&
    maskWithin st.claim.ridges 8 (partRidges s p) && maskWithin st.claim.llm 8 (partBays s p) && decide (st.claim.dark < 255) &&
    claimExact s steps k st &&
    st.entries.all (fun e => decide (e.tile < 72) && st.claim.tiles.testBit e.tile && decide (e.start < 2 ^ 28) && e.runs.all (tileRunOk s p st e.tile)) &&
    st.hubs.all (fun h => (partBays s p).contains h.hub && h.runs.all (hubRunOk s p st h.hub)) &&
    decide ((st.entries.map (fun e => e.tile)).Nodup) && decide ((st.hubs.map (fun h => h.hub)).Nodup)

/-- A step continues a chain exactly when work runs on into it; a chain is at most 65 steps long (R107). -/
def chainsOk (steps : List PlanStep) : Bool :=
  (stepsNumbered steps).all (fun x => x.2.chain == (upFrom 0 72).any (continues steps x.1) && decide (chainLen steps x.1 ≤ 65))

/-! ### Hold history (R96, R122) -/

/-- The steps of a plan, the places of work lists in the tile stores apart: they depend on what else is resident (log 114). -/
def skeleton (plan : Plan) : List PlanStep :=
  plan.steps.map (fun st => { st with entries := st.entries.map (fun e => { e with desc := [] }) })

/-- The starts of a plan: step, tile, unit, node, cues allotted. -/
def startsOf (steps : List PlanStep) : List (Nat × Nat × Nat × Nat × Nat) :=
  (stepsNumbered steps).flatMap (fun x => x.2.entries.flatMap (fun e =>
    (bitList e.start 28).map (fun u => (x.1, e.tile, u, e.nodes.getD u 0, max 1 (e.span.getD u 1)))))

/-- Steps of a history with at least RUNS / 4 attributed holds (R122). -/
def lateSteps (h : History) : List Nat := (h.holds.filter (fun x => decide (4 * x.2 ≥ h.runs))).map (fun x => x.1)

/-- The plan widens the one before it where the history says so (R122): the same starts, each with the cues it had, or in a late step
one more, four more in all at most; a late step in which none could be widened is left as RUN_LIMIT or R107 demands. -/
def widened (h : History) (base prior now : List PlanStep) (limit : Nat) : Bool :=
  let b := startsOf base
  let a := startsOf prior
  let n := startsOf now
  let rows := (upFrom 0 a.length).map (fun i => (a.getD i (0, 0, 0, 0, 0), n.getD i (0, 0, 0, 0, 0), (b.getD i (0, 0, 0, 0, 0)).2.2.2.2))
  let late := lateSteps h
  let may := fun (x : (Nat × Nat × Nat × Nat × Nat) × (Nat × Nat × Nat × Nat × Nat) × Nat) => decide (x.1.2.2.2.2 < x.2.2 + 4)
  let grown := fun (x : (Nat × Nat × Nat × Nat × Nat) × (Nat × Nat × Nat × Nat × Nat) × Nat) => x.2.1.2.2.2.2 == x.1.2.2.2.2 + 1
  a.length == n.length && a.length == b.length &&
    rows.all (fun x => x.1.2.1 == x.2.1.2.1 && x.1.2.2.1 == x.2.1.2.2.1 && x.1.2.2.2.1 == x.2.1.2.2.2.1 &&
      (x.1.2.2.2.2 == x.2.1.2.2.2.2 || (late.contains x.1.1 && grown x && may x))) &&
    late.all (fun k => let here := rows.filter (fun x => x.1.1 == k)
      here.any grown || !here.any may || decide (limit < now.length + 1) ||
      here.any (fun x => decide (64 < chainLen now x.2.1.1)))

/-- Two plans were made from the same inputs, the hold history apart. -/
def sameInputs (a b : PlanKey) : Bool := { a with history := none } == { b with history := none }

/-- The history that a load uses has its effect: where its first plan and its last were made from the same inputs, the new one widens
the last (R122). -/
def historyMet (s : State) (key : PlanKey) (plan : Plan) (limit : Nat) : Bool :=
  match key.history with
  | none => true
  | some h => match s.mgmt.plans[h.base]?, s.mgmt.plans[h.prior]? with
    | some b, some a => !(sameInputs b.key key && sameInputs a.key key) || widened h b.steps a.steps (skeleton plan) limit
    | _, _ => true

/-- The plan is the one made before from the same inputs, if there was one (R96). -/
def planKnown (s : State) (key : PlanKey) (plan : Plan) : Bool :=
  match s.mgmt.plans.find? (fun m => m.key == key) with
  | some m => m.steps == skeleton plan
  | none => true

/-- The plan takes its number among those made. -/
def rememberPlan (s : State) (key : PlanKey) (plan : Plan) : State × Nat :=
  match s.mgmt.plans.findIdx? (fun m => m.key == key) with
  | some i => (s, i)
  | none => ({ s with mgmt := { s.mgmt with plans := s.mgmt.plans ++ [{ key, steps := skeleton plan }] } }, s.mgmt.plans.length)

end Sys2Proof.Machine
end

