-- ==== Sys2Proof/Machine/Load.lean ====
section
/-! DEFINITION. Loading of plays: PLAY_LOAD (R65, R94–R101, R116, R121–R123). What the prompter decides for itself (R93) is the row's
operand; what it must obey is checked here and in Plan.lean. -/

namespace Sys2Proof.Machine

/-- A load completes with an outcome of class 0x02 (R90, R91). -/
def failLoad (s : State) (q : Nat) (cm : Cmd) (p status : Nat) (r : Reject) : State :=
  answerNext (leaveLoads s p (q, cm.idx)) q cm status (BitVec.ofNat 64 (rejectWord r))

/-! ### Bytes of a play or of a staged chunk (R65, R308, R474, R489) -/

/-- Bytes that have arrived for a command, in order. -/
def gotBytes (cm : Cmd) : List Byte := cm.got.flatMap (fun kv => kv.2)

/-- The bytes of a range of a context are asked for: local ones are read at once, those of a host or of another device
arrive later. -/
def askBytes (s : State) (q idx c : Nat) (pas : List (Nat × Nat)) : State :=
  (withOffsets 0 pas).foldl (fun s x =>
    match hostOf x.2.1 with
    | some (p, bus) => askHost s p bus x.2.2 c (fun o => .cmd q (x.1 + o))
    | none =>
      if inRemote x.2.1 then askRemote s c x.2.1 x.2.2 (q, x.1) 6
      else modCmd s q idx (fun cm => { cm with got := tput [] cm.got x.1 (readBytes s x.2.1 x.2.2) }))
    (modCmd s q idx (fun cm => { cm with asked := true }))

/-! ### Planning (R76, R88, R89, R98, R123) -/

/-- A constraint of a type for a target. -/
def pinOf (cs : List (List W64)) (ty t : Nat) : Option (List W64) := cs.find? (fun c => cType c == ty && cTarget c == t)

/-- The context has a command in progress on a queue, this load apart (R98). -/
def ctxBusy (s : State) (c q idx : Nat) : Bool :=
  (ctxQueues s c).any (fun n => (queueOf s n).cmds.any (fun cm => cm.started.isSome && (n, cm.idx) != (q, idx)))

/-- Physical page of a virtual page of a context that is a 64 KiB page. -/
def smallPage (s : State) (c va : Nat) : Option Nat :=
  match walk s (ctxOf s c).root va with
  | some (w, false) => some (entryPa w)
  | _ => none

/-- A resident script, of any context, has a tensor whose footprint covers a physical page (R98). -/
def scriptCovers (s : State) (pa : Nat) : Bool :=
  (upFrom 0 8).any (fun p => (partOf s p).scripts.any (fun kv => kv.2.used && kv.2.tensors.any (fun ts =>
    tExternal ts && (tensorPages ts).any (fun va => translate s kv.2.ctx va 0 == some pa))))

/-- The conditions of R98 on a page itself: NO_MIGRATE, ownership, other scripts, windows and apertures, page size. -/
def pageMovable (s : State) (c va : Nat) (keep : Bool) : Bool :=
  match smallPage s c va with
  | none => false
  | some pa =>
    !keep && cacheable pa && bits (ownerEntry s pa) 14 13 == 1 && !bit (ownerEntry s pa) 12 && bits (ownerEntry s pa) 11 0 == c &&
      !scriptCovers s pa && !pinnedRange s c va 65536

/-- The page lies where a tensor's pins want it: on its stacks, in the scratchpad. -/
def pageObeys (cs : List (List W64)) (t pa : Nat) : Bool :=
  (match pinOf cs 2 t with
    | some c => inStack pa && (cStacks c).testBit (pa / stackBytes)
    | none => true) &&
  ((pinOf cs 3 t).isNone || inScratch pa)

/-- External tensors with their numbers. -/
def externals (ts : List (List W64)) : List (Nat × List W64) :=
  ((upFrom 0 ts.length).zip ts).filter (fun x => tExternal x.2)

/-- Constraints with their numbers. -/
def numbered (cs : List (List W64)) : List (Nat × List W64) := (upFrom 0 cs.length).zip cs

/-- 0x0101: a page of an EXTERNAL tensor is unmapped. -/
def planUnmapped (s : State) (c : Nat) (ts : List (List W64)) : Option Reject :=
  ((externals ts).find? (fun x => (tensorPages x.2).any (fun va => (translate s c va 0).isNone))).map (fun x => (0x0101, 1, x.1))

/-- 0x0102: a tensor of MATMUL, VECTOR or KERNEL outside the device's memory; an INTERNAL tensor named by a COPY to a host or a window
(R73, DESIGN CHOICE of the code and record, log 117); a pinned COPY that leaves the partition. -/
def planOutside (s : State) (c : Nat) (b : List Byte) (ts ns cs : List (List W64)) : Option Reject :=
  let used := (ns.filter (fun n => nodeKind n ≤ 3)).flatMap (fun n => nodeReads b n ++ nodeWrites b n)
  let gone := fun (t : Nat) => leaves s c (ts.getD t [])
  match (externals ts).find? (fun x => used.contains x.1 && gone x.1) with
  | some x => some (0x0102, 1, x.1)
  | none =>
    let away := (ns.filter (fun n => nodeKind n == 4 && gone (bits (wordAt n 1) 47 32))).flatMap (fun n => nodeReads b n ++ nodeWrites b n)
    match away.find? (fun t => !tExternal (ts.getD t [])) with
    | some t => some (0x0102, 1, t)
    | none => ((numbered cs).find? (fun x => cType x.2 == 1 &&
      (let n := ns.getD (cTarget x.2) []
       nodeKind n == 4 && (gone (bits (wordAt n 1) 63 48) || gone (bits (wordAt n 1) 47 32))))).map (fun x => (0x0102, 4, x.1))

/-- A node is a transfer that leaves the partition (R85, R88). -/
def leavesPartition (s : State) (c : Nat) (ts : List (List W64)) (n : List W64) : Bool :=
  nodeKind n == 5 || nodeKind n == 6 ||
    (nodeKind n == 4 && (leaves s c (ts.getD (bits (wordAt n 1) 63 48) []) || leaves s c (ts.getD (bits (wordAt n 1) 47 32) [])))

/-- 0x0103: a later node touches the destination of such a transfer, or writes its source. -/
def planConflict (s : State) (c : Nat) (b : List Byte) (ts ns : List (List W64)) : Option Reject :=
  let num := (upFrom 0 ns.length).zip ns
  let out := num.filter (fun x => leavesPartition s c ts x.2)
  let bad := fun (j : Nat × List W64) => out.any (fun i => decide (i.1 < j.1) &&
    ((nodeWrites b i.2).any (fun t => (nodeReads b j.2).contains t || (nodeWrites b j.2).contains t) ||
      (nodeReads b i.2).any (fun t => (nodeWrites b j.2).contains t)))
  (num.find? bad).map (fun j => (0x0103, 2, j.1))

/-- 0x0104: pins that cannot be met. -/
def planPins (s : State) (p c : Nat) (busy : Bool) (ts cs : List (List W64)) : Option Reject :=
  let stuck := fun (t : Nat) => tExternal (ts.getD t []) && (tensorPages (ts.getD t [])).any (fun va =>
    match translate s c va 0 with
    | some pa => !pageObeys cs t pa && (busy || !pageMovable s c va (pinOf cs 5 t).isSome)
    | none => false)
  let bad := fun (x : Nat × List W64) => match cType x.2 with
    | 1 => (bitList (cTiles x.2) 72).any (fun t => !((partTiles s p).contains t && tileServes s t))
    | 2 => (bitList (cStacks x.2) 16).any (fun k => !(planStacks s p).contains k) || stuck (cTarget x.2)
    | 3 => stuck (cTarget x.2)
    | _ => false
  ((numbered cs).find? bad).map (fun x => (0x0104, 4, x.1))

/-- Script-store bytes of steps: 128 for each tile entry and hub entry, 8 for each slot-run record (R123). -/
def scriptBytes (steps : List PlanStep) : Nat :=
  (steps.map (fun st => 128 * (st.entries.length + st.hubs.length) + 8 * (stepRuns st).length)).sum

/-- Bytes of tile-store regions on a tile. -/
def regionBytes (regions : List (Nat × Nat × Nat)) (t : Nat) : Nat := ((regions.filter (fun r => r.1 == t)).map (fun r => r.2.2)).sum

/-- Regions of the resident scripts of a partition. -/
def heldRegions (s : State) (p : Nat) : List (Nat × Nat × Nat) :=
  ((partOf s p).scripts.filter (fun kv => kv.2.used)).flatMap (fun kv => kv.2.regions)

/-- Free bytes of a partition: its free granules of some kind, and of granules that the context owns the free pages (R98, R99). -/
def freeBytes (s : State) (p c : Nat) (f : Nat → Bool) : Nat :=
  (((partBays s p).flatMap (fun h => upFrom (h * 49152) 49152 ++ upFrom (0x80000 + 48 * h) 48)).filter (fun g => granuleFree s p g && f (g * 0x200000))).length *
      0x200000 +
    (s.mem.pages.filter (fun kv => kv.2 == c && f (kv.1 * 65536))).length * 65536

/-- Bytes that a tensor still needs: an INTERNAL one its elements and scales, an EXTERNAL one its pages that are off a pin. -/
def tensorNeed (s : State) (c : Nat) (cs : List (List W64)) (t : Nat) (ts : List W64) : Nat :=
  if !tExternal ts then tensorPacked ts + tensorScales ts
  else 65536 * ((tensorPages ts).filter (fun va => (translate s c va 0).any (fun pa => !pageObeys cs t pa))).length

/-- Tensors of a kind in order, with what they and those before them need (R123). -/
def runningNeed (need : Nat × List W64 → Nat) : Nat → List (Nat × List W64) → List (Nat × Nat)
  | _, [] => []
  | n, x :: xs => (x.1, n + need x) :: runningNeed need (n + need x) xs

/-- 0x0105, memory: IN_LLM tensors exceed the free scratchpad; PIN_STACKS tensors the free memory of their stacks; INTERNAL tensors
without a pin all that is free (R123). -/
def planMemory (s : State) (p c : Nat) (ts cs : List (List W64)) : Option Reject :=
  let num := (upFrom 0 ts.length).zip ts
  let need := fun (x : Nat × List W64) => tensorNeed s c cs x.1 x.2
  let beyond := fun (l : List (Nat × Nat)) (room : Nat → Bool) => l.find? (fun x => x.2 != 0 && decide (freeBytes s p c room < x.2))
  let llm := num.filter (fun x => (pinOf cs 3 x.1).isSome)
  let pinned := num.filter (fun x => (pinOf cs 2 x.1).isSome)
  let loose := num.filter (fun x => !tExternal x.2 && (pinOf cs 3 x.1).isNone)
  let tiles := ((servingTiles s p).map (fun t => 23 * 2 ^ 20 - regionBytes (heldRegions s p) t)).sum
  ((beyond (runningNeed need 0 llm) inScratch).orElse (fun _ =>
    (pinned.findSome? (fun x => beyond [(x.1, need x)] (fun pa => inStack pa && (match pinOf cs 2 x.1 with
      | some k => (cStacks k).testBit (pa / stackBytes)
      | none => true)))).orElse (fun _ =>
    beyond ((runningNeed need 0 loose).map (fun x => (x.1, x.2 - tiles))) (fun _ => true)))).map (fun x => (0x0105, 1, x.1))

/-- 0x0105: tile store, scratchpad, stack memory, script store, program memory, step count (R123). -/
def planRoom (s : State) (p c : Nat) (ts cs : List (List W64)) (plan : Plan) : Option Reject :=
  let held := (((partOf s p).scripts.filter (fun kv => kv.2.used)).map (fun kv => scriptBytes kv.2.steps)).sum
  let tiles := (plan.regions.map (fun r => r.1)).eraseDups
  (planMemory s p c ts cs).orElse (fun _ => demand
    (tiles.all (fun t => decide (regionBytes (heldRegions s p ++ plan.regions) t ≤ 23 * 2 ^ 20)) && decide (plan.steps.length < 2 ^ 24) &&
      decide (held + scriptBytes plan.steps ≤ 64 * 2 ^ 20 * (partBays s p).length) &&
      plan.steps.all (fun st => st.entries.all (fun e => decide (e.runs.length ≤ 1024)) && st.hubs.all (fun h => decide (h.runs.length ≤ 1024))))
    (0x0105, 0, 0))

/-- 0x0106: RUN_LIMIT. -/
def planLimit (plan : Plan) (cs : List (List W64)) : Option Reject :=
  ((numbered cs).find? (fun x => cType x.2 == 6 && decide ((wordAt x.2 1).toNat < plan.steps.length))).map (fun x => (0x0106, 4, x.1))

/-- 0x0107: 256 resident scripts. -/
def planSlots (s : State) (p : Nat) : Option Reject :=
  demand (decide (((partOf s p).scripts.filter (fun kv => kv.2.used)).length < 256)) (0x0107, 0, 0)

/-- Planning fails at the first limit that is broken (R123). -/
def planFails (s : State) (p c : Nat) (busy : Bool) (b : List Byte) (plan : Plan) : Option Reject :=
  let ts := playTensors b
  let ns := playNodes b
  let cs := playConstraints b
  (planUnmapped s c ts).orElse (fun _ => (planOutside s c b ts ns cs).orElse (fun _ => (planConflict s c b ts ns).orElse (fun _ =>
    (planPins s p c busy ts cs).orElse (fun _ => (planRoom s p c ts cs plan).orElse (fun _ => (planLimit plan cs).orElse (fun _ =>
      planSlots s p))))))

/-! ### What every plan obeys (R89, R98, R99, R101, R283) -/

/-- Every node that engines carry out is started somewhere, on the tiles its pin allows, and no unit works for anything
else (R75, R89). -/
def nodesPlanned (s : State) (c : Nat) (steps : List PlanStep) (ts ns cs : List (List W64)) : Bool :=
  let starts := steps.flatMap (fun st => st.entries.flatMap (fun e => (bitList e.start 28).map (fun u => (e.nodes.getD u 0, e.tile))))
  let byEngine := fun (n : List W64) => decide (nodeKind n ≤ 4) && !leavesPartition s c ts n
  starts.all (fun x => (ns[x.1]?).any byEngine &&
    (match pinOf cs 1 x.1 with
      | some k => (cTiles k).testBit x.2
      | none => true)) &&
  ((upFrom 0 ns.length).zip ns).all (fun x => !byEngine x.2 || starts.any (fun y => y.1 == x.1))

/-- Stacks of a tensor's target set (R283): those its PIN_STACKS names, else those the plan chose. -/
def targetSet (cs : List (List W64)) (plan : Plan) (t : Nat) : List Nat :=
  match pinOf cs 2 t with
  | some k => bitList (cStacks k) 16
  | none => ((plan.targets.find? (fun x => x.1 == t)).map (fun x => sortBy (fun a b => decide (a ≤ b)) x.2)).getD []

/-- Pages of a tensor in ascending virtual address (R283, log 118). -/
def pagesInOrder (ts : List W64) : List Nat := (sortBy (fun a b => decide (a ≤ b)) (tensorPages ts)).eraseDups

/-- A free page of a context is to be had on a stack (R98, R99). -/
def stackHasPage (s : State) (p c k : Nat) : Bool := (freePage s c [k]).isSome || anyFree s p [k]

/-- A page move obeys R98, R99 and R283: a page of an EXTERNAL tensor that is off its target set, to a free page of the partition: in
the scratchpad for IN_LLM, else on the stack of the set that its number gives, another of the set only if that one is full. -/
def moveOk (s : State) (p c : Nat) (ts cs : List (List W64)) (plan : Plan) (m : Nat × Nat) : Bool :=
  let va := 65536 * m.1
  let pa := 65536 * m.2
  let mine := (externals ts).filter (fun x => (tensorPages x.2).contains va)
  let off := fun (x : Nat × List W64) => match smallPage s c va with
    | some old => if (pinOf cs 3 x.1).isSome then !inScratch old else !inStack old || !(targetSet cs plan x.1).contains (old / stackBytes)
    | none => false
  let here := fun (x : Nat × List W64) =>
    if (pinOf cs 3 x.1).isSome then inScratch pa
    else
      let ks := targetSet cs plan x.1
      let k := ks.getD ((pagesInOrder x.2).idxOf va % ks.length) 0
      inStack pa && ks.contains (pa / stackBytes) && (pa / stackBytes == k || !stackHasPage s p c k)
  pageMovable s c va (mine.any (fun x => (pinOf cs 5 x.1).isSome)) && mine.any (fun x => off x && here x) &&
    mine.all (fun x => pageObeys cs x.1 pa) && (partBays s p).contains (homeHub pa) && cacheable pa &&
    (granuleFree s p (m.2 / 32) || tget 0 s.mem.pages m.2 == c)

/-- Pages off their pins are moved (R89, R98). -/
def movesCover (s : State) (c : Nat) (moves : List (Nat × Nat)) (ts cs : List (List W64)) : Bool :=
  (externals ts).all (fun x => (tensorPages x.2).all (fun va =>
    match translate s c va 0 with
    | some pa => pageObeys cs x.1 pa || moves.any (fun m => 65536 * m.1 == va)
    | none => true))

/-- A piece of an INTERNAL tensor lies in memory that the script takes: its regions of the tile stores, its house granules. -/
def pieceHeld (s : State) (plan : Plan) (x : Nat × Nat) : Bool :=
  if inTileStore x.1 then plan.regions.any (fun r => decide (tileBase s r.1 + r.2.1 ≤ x.1) && decide (x.1 + x.2 ≤ tileBase s r.1 + r.2.1 + r.2.2))
  else cacheable x.1 && (upFrom (x.1 / 0x200000) ((x.1 + x.2 + 0x1FFFFF) / 0x200000 - x.1 / 0x200000)).all plan.granules.contains

/-- Where an INTERNAL tensor may lie (R101, R283): in the scratchpad for IN_LLM, on its stacks for PIN_STACKS; else in the tile stores
of tiles that work for a node that names it, in the scratchpad, or, when the scratchpad has no room for it, in stack memory. In stack
memory its pages go round its target set. -/
def placeOk (s : State) (p c : Nat) (cs : List (List W64)) (plan : Plan) (uses : List (List Nat × List Nat)) (t : Nat) (ts : List W64) : Bool :=
  let ps := ((plan.places.find? (fun x => x.1 == t)).map (fun x => x.2)).getD []
  let size := tensorPacked ts + tensorScales ts
  let llm := ps.all (fun x => inScratch x.1)
  let ks := targetSet cs plan t
  let stack := !ks.isEmpty && (upFrom 0 (ceilDiv size 65536)).all (fun k => (placePieces ps (65536 * k) 65536).all (fun x =>
    inStack x.1 && x.1 / stackBytes == ks.getD (k % ks.length) 0))
  let users := (startsOf plan.steps).filter (fun x => let u := uses.getD x.2.2.2.1 ([], []); u.1.contains t || u.2.contains t)
  let near := ps.all (fun x => inTileStore x.1 && users.any (fun u =>
    decide (tileBase s u.2.1 ≤ x.1) && decide (x.1 + x.2 ≤ tileBase s u.2.1 + tileSize)))
  (ps.map (fun x => x.2)).sum == size && ps.all (pieceHeld s plan) &&
    (if (pinOf cs 3 t).isSome then llm else if (pinOf cs 2 t).isSome then stack
     else near || llm || (stack && decide (freeBytes s p c inScratch < size)))

/-- The memory of a script: house granules that are free, places of every INTERNAL tensor that do not meet, regions of the tile stores
that meet none of a resident script, and an image inside them (R94, R95, R101). -/
def memoryOk (s : State) (p c : Nat) (ts cs : List (List W64)) (uses : List (List Nat × List Nat)) (plan : Plan) : Bool :=
  let pieces := plan.places.flatMap (fun x => x.2)
  plan.granules.all (granuleFree s p) && decide plan.granules.Nodup && plan.moves.all (fun m => !plan.granules.contains (m.2 / 32)) &&
    decide ((plan.places.map (fun x => x.1)).Nodup) && eachPair (fun a b => !rangesMeet a.1 a.2 b.1 b.2) pieces &&
    ((upFrom 0 ts.length).zip ts).all (fun x => tExternal x.2 || placeOk s p c cs plan uses x.1 x.2) &&
    plan.regions.all (fun r => (servingTiles s p).contains r.1 && decide (r.2.1 + r.2.2 ≤ tileSize)) &&
    eachPair (fun a b => a.1 != b.1 || !rangesMeet a.2.1 a.2.2 b.2.1 b.2.2) (plan.regions ++ heldRegions s p) &&
    plan.image.all (fun i => plan.regions.any (fun r => r.1 == i.1 && decide (r.2.1 ≤ i.2.1) && decide (i.2.1 + i.2.2.length ≤ r.2.1 + r.2.2)))

/-- What a plan is made from (R96). -/
def planKey (s : State) (p c : Nat) (b : List Byte) : PlanKey :=
  { play := b, legacy := (ctxOf s c).legacy, shape := (partOf s p).shape, maps := (partBays s p).map (mapWord s), serving := servingTiles s p
    pages := (externals (playTensors b)).flatMap (fun x => (tensorPages x.2).map (fun va => (va, translate s c va 0)))
    history := (partOf s p).order.histories.find? (fun h => h.tag == playTag b && h.crc == playCrc b && h.bays == bayMask s p) }

/-- RUN_LIMIT of a play; as good as none when absent (R89). -/
def runLimit (cs : List (List W64)) : Nat := ((cs.find? (fun x => cType x == 6)).map (fun x => (wordAt x 1).toNat)).getD (2 ^ 32)

/-- Tensors that the nodes read and write (R82, R105). -/
def playUses (b : List Byte) : List (List Nat × List Nat) := (playNodes b).map (fun n => (nodeReads b n, nodeWrites b n))

/-- The plan is one that the prompter may make. -/
def planValid (s : State) (p c : Nat) (busy : Bool) (b : List Byte) (plan : Plan) : Bool :=
  let ts := playTensors b
  let ns := playNodes b
  let cs := playConstraints b
  let key := planKey s p c b
  !plan.steps.isEmpty && (stepsNumbered plan.steps).all (fun x => stepOk s p plan.steps x.1 x.2) && chainsOk plan.steps &&
    nodesPlanned s c plan.steps ts ns cs && listsOk s c b plan && ordered (playUses b) (planLists plan) &&
    (!busy || plan.moves.isEmpty) && plan.moves.all (moveOk s p c ts cs plan) &&
    decide ((plan.moves.map (fun m => m.1)).Nodup) && decide ((plan.moves.map (fun m => m.2)).Nodup) && movesCover s c plan.moves ts cs &&
    memoryOk s p c ts cs (playUses b) plan && planKnown s key plan && historyMet s key plan (runLimit cs)

/-! ### The effects of a load (R94 steps 4 to 6) -/

/-- The object that a moved page belongs to, if any, has it at its new place (R99). -/
def objectMoved (s : State) (old new : Nat) : State :=
  match objectOf s old with
  | none => s
  | some i => modObj s i (fun o => match objPageAt o (old / 65536) with
    | some k => { o with moved := (k, new) :: o.moved.filter (fun m => m.1 != k) }
    | none => o)

/-- A page moves to a new place (R99): copied with its uncorrectable bursts, its leaf rewritten, the old page freed. -/
def movePage (s : State) (c : Nat) (m : Nat × Nat) : State :=
  let va := 65536 * m.1
  let new := 65536 * m.2
  match smallPage s c va, nodeAt s (ctxOf s c).root va 1, walk s (ctxOf s c).root va with
  | some old, some at_, some (leaf, _) =>
    let g := m.2 / 32
    let s1 := if bits (ownerEntry s new) 14 13 = 0 then
        let s0 := giveGranule s g c false
        { s0 with mem := { s0.mem with pages := (upFrom (32 * g) 32).foldl (fun t n => tput 0 t n c) s0.mem.pages } }
      else s
    let s2 := { s1 with mem := { s1.mem with pages := terase s1.mem.pages m.2 } }
    let bursts := (upFrom 0 2048).filter (fun k => (badBurst s2 (old + 32 * k) 32).isSome)
    let s3 := writeBytes s2 new (readBytes s2 old 65536)
    let s4 := { s3 with mem := { s3.mem with
      bad := bursts.foldl (fun t k => tput false t (new / 32 + k) true) s3.mem.bad } }
    let s5 := bursts.foldl (fun s k => meetBad s (old / 32 + k) []) s4
    let s6 := putEntry s5 at_ (setBits leaf 47 16 m.2)
    returnPage (objectMoved (dropTlb s6 c) old m.2) c (old / 65536)
  | _, _, _ => s

/-- The slot that a script takes: one never used, the lowest, else the one freed longest ago (R116). -/
def nextSlot (x : Partition) : Nat :=
  match (upFrom 0 256).find? (fun k => !(tget {} x.scripts k).used && !x.freed.contains k) with
  | some k => k
  | none => x.freed.headD 0

/-- Handles that taken and uncompleted PLAY_RUN and PLAY_UNLOAD commands of a partition name (R116). -/
def namedHandles (s : State) (p : Nat) : List Nat :=
  s.queues.flatMap (fun kv =>
    if kv.2.used && (ctxOf s kv.2.ctx).part == p then
      (kv.2.cmds.filter (fun c => pktOp (wordAt c.words 0) == 0x21 || pktOp (wordAt c.words 0) == 0x22)).map (fun c => bits (wordAt c.words 1) 15 0)
    else [])

/-- GENERATION advanced past every value a command names for the slot (R116). -/
def freshGen (named : List Nat) (slot : Nat) : Nat → Nat → Nat
  | 0, g => g
  | fuel + 1, g => if named.contains (g * 256 + slot) then freshGen named slot fuel ((g + 1) % 256) else g

/-- Word 3 of a successful load (R97). -/
def loadWord (steps : Nat) (history skipped moved : Bool) (gen slot : Nat) : W64 :=
  fld steps 24 40 ||| flag history 34 ||| flag skipped 33 ||| flag moved 32 ||| fld gen 8 8 ||| fld slot 8 0

/-- PRIORITY of a play, 0 when absent (R89). -/
def playPriority (cs : List (List W64)) : Nat := ((cs.find? (fun c => cType c == 4)).map (fun c => (wordAt c 1).toNat)).getD 0

/-- INTERNAL tensors are zero at load (R73). -/
def zeroPlace (s : State) (x : Nat × Nat) : State :=
  if inTileStore x.1 then writeStore s x.1 (List.replicate x.2 0) else writeBytes s x.1 (List.replicate x.2 0)

/-- The script of a load (R94). -/
def newScript (b : List Byte) (plan : Plan) (c gen made : Nat) : Script :=
  { used := true, gen, reused := true, ctx := c, steps := plan.steps, prio := playPriority (playConstraints b), tag := playTag b
    crc := playCrc b, nodes := playNodes b, tensors := playTensors b, uses := playUses b, granules := plan.granules, places := plan.places
    regions := plan.regions, linear := plan.linear, made }

/-- The script is written and its record follows (R94, R97, R99, R101, R116, R121). A load whose page moves met an uncorrectable burst
completes with the loss of its context instead (R94, R99, R373). -/
def commitLoad (s : State) (q : Nat) (cm : Cmd) (p c : Nat) (busy : Bool) (b : List Byte) (plan : Plan) : State :=
  let slot := nextSlot (partOf s p)
  let old := scriptOf s p slot
  let gen := freshGen (namedHandles s p) slot 256 (if old.reused then (old.gen + 1) % 256 else old.gen)
  let key := planKey s p c b
  let made := rememberPlan s key plan
  let s1 := plan.granules.foldl (fun s g => giveGranule s g 0 false) made.1
  let s2 := (plan.places.flatMap (fun x => x.2)).foldl zeroPlace s1
  let s3 := plan.moves.foldl (fun s m => movePage s c m) (plan.image.foldl (fun s i => writeTile s i.1 i.2.1 i.2.2) s2)
  let sc := newScript b plan c gen made.2
  let s4 := modPart s3 p (fun x => { x with
    scripts := tput {} x.scripts slot sc, freed := x.freed.filter (fun k => k != slot) })
  let s5 := match key.history with
    | some h => modOrder s4 p (fun o => { o with histories := keepHistory o.histories h })
    | none => s4
  let s6 := leaveLoads s5 p (q, cm.idx)
  if s3.mem.badDue.length ≠ s2.mem.badDue.length then s6
  else answerNext s6 q cm 0 (loadWord plan.steps.length key.history.isSome busy (!plan.moves.isEmpty) gen slot)

/-- The bytes of the play are there: validation, planning and the load itself (R90, R94). -/
def carryOutLoad (s : State) (q : Nat) (cm : Cmd) (p c : Nat) (b : List Byte) (plan : Plan) : State :=
  let busy := ctxBusy s c q cm.idx
  match validatePlay b (bits (wordAt cm.words 1) 54 0) (bits (wordAt cm.words 2) 31 0) with
  | some r => failLoad s q cm p stBadFormat r
  | none => match planFails s p c busy b plan with
    | some r => failLoad s q cm p stPlanFailed r
    | none => if planValid s p c busy b plan then commitLoad s q cm p c busy b plan else s

/-- Bytes that the prompter reads: the play, or its header alone when the length cannot be that of a play. -/
def loadLen (len : Nat) : Nat := if len % 64 = 0 && 64 ≤ len && len ≤ 2 ^ 28 then len else 64

/-- A load at its turn: its bytes are asked for, and used once they are there (R65). -/
def workLoad (s : State) (q : Nat) (cm : Cmd) (plan : Plan) : State :=
  let c := (queueOf s q).ctx
  let p := (ctxOf s c).part
  let va := bits (wordAt cm.words 1) 54 0
  let n := loadLen (bits (wordAt cm.words 2) 31 0)
  let asked : State := if cm.asked then s
    else match resolve s c va n needRead with
      | .bad st a => faultCommand (leaveLoads s p (q, cm.idx)) q cm c st a
      | .ok pas => match badPiece s (pas.filter (fun x => cacheable x.1)) with
        | some a => burstCommand (leaveLoads s p (q, cm.idx)) q cm c a
        | none => askBytes s q cm.idx c pas
  match cmdOf asked q cm.idx with
  | some cm1 =>
    if cm1.stage = 1 && cm1.asked && (gotBytes cm1).length = n then carryOutLoad asked q cm1 p c (gotBytes cm1) plan else asked
  | none => asked

/-- PLAY_LOAD (R90, R94–R101, R116, R121, R123): the command joins the loads of its partition; at its turn the play is
read, validated, planned and loaded. -/
def execPlayLoad (q : Nat) (plan : Plan) (s : State) : Out :=
  let s1 := onCommand s q 0x20 (fun cm =>
    enterLoad (modCmd s q cm.idx (fun x => { x with stage := 1 })) (ctxOf s (queueOf s q).ctx).part (q, cm.idx))
  match loadTurn s1 q 0x20 with
  | some cm => .next (workLoad s1 q cm plan)
  | none => .next s1

end Sys2Proof.Machine
end

