-- ==== Sys2Proof/Machine/Shake.lean ====
section
/-! DEFINITION. SHAKE256 with 32 bytes of output, as FIPS 202 defines it (named by R457, R462, R466, R410). The permutation's
rotation counts, lane moves and round words are computed as FIPS 202 describes them, not written out. -/

namespace Sys2Proof.Machine

/-- A word of the permutation's array: its column x, its row y and what it holds. -/
structure Cell25 where
  x : Nat
  y : Nat
  val : W64
  deriving DecidableEq, Repr

/-- What the word of column x and row y holds. -/
def at25 (a : List Cell25) (x y : Nat) : W64 :=
  match a.find? (fun c => c.x == x % 5 && c.y == y % 5) with
  | some c => c.val
  | none => 0

/-- The XOR of a column's five words. -/
def columnXor (a : List Cell25) (x : Nat) : W64 :=
  ((a.filter (fun c => c.x == x)).map Cell25.val).foldl (· ^^^ ·) 0

/-- θ: each word takes the columns beside its own, the right one turned by one bit. -/
def thetaStep (a : List Cell25) : List Cell25 :=
  let side := (upFrom 0 5).map (columnXor a)
  a.map fun c => { c with val := c.val ^^^ side.getD ((c.x + 4) % 5) 0 ^^^ (side.getD ((c.x + 1) % 5) 0).rotateLeft 1 }

/-- ρ and π in one walk: from column 1, row 0, step t turns the word it stands on by (t + 1)(t + 2)/2 bits and puts it where the next
step stands, from (x, y) to (y, 2x + 3y); the word at (0, 0) stays. -/
def walkWords (a : List Cell25) : Nat → Nat → Nat → Nat → List Cell25
  | 0, _, _, _ => [⟨0, 0, at25 a 0 0⟩]
  | n + 1, t, x, y =>
    let y2 := (2 * x + 3 * y) % 5
    ⟨y, y2, (at25 a x y).rotateLeft ((t + 1) * (t + 2) / 2 % 64)⟩ :: walkWords a n (t + 1) y y2

/-- χ: each word takes its row's next word inverted with the one after it. -/
def chiStep (a : List Cell25) : List Cell25 :=
  a.map fun c => { c with val := c.val ^^^ (at25 a (c.x + 2) c.y &&& ~~~ at25 a (c.x + 1) c.y) }

/-- One step of the shift register x⁸ + x⁶ + x⁵ + x⁴ + 1 that gives the round words. -/
def shiftReg (r : Nat) : Nat := if r < 128 then 2 * r else (2 * r) ^^^ 0x171

/-- The seven bits of a round's word, at places 2^j − 1, and the register after them. -/
def roundWord (r : Nat) : W64 × Nat :=
  (upFrom 0 7).foldl (fun p j => (if p.2 % 2 = 1 then p.1 ||| (1 : W64) <<< (2 ^ j - 1) else p.1, shiftReg p.2)) (0, r)

/-- ι: the round's word into the word at (0, 0). -/
def iotaStep (a : List Cell25) (w : W64) : List Cell25 :=
  a.map fun c => if c.x = 0 ∧ c.y = 0 then { c with val := c.val ^^^ w } else c

/-- The permutation's rounds, from a register state. -/
def permute25 : Nat → Nat → List Cell25 → List Cell25
  | 0, _, a => a
  | n + 1, r, a =>
    let k := roundWord r
    permute25 n k.2 (iotaStep (chiStep (walkWords (thetaStep a) 24 0 1 0)) k.1)

/-- A message taken in by blocks of 17 words: word i of a block goes to column i mod 5, row i / 5. -/
def absorb : Nat → List Cell25 → List Byte → List Cell25
  | 0, a, _ => a
  | n + 1, a, m =>
    let block := leWords 17 (m.take 136)
    absorb n (permute25 24 1 (a.map fun c => { c with val := c.val ^^^ block.getD (c.x + 5 * c.y) 0 })) (m.drop 136)

/-- The padding of a message: the bits 1111 and 1, zeros and a last 1 bit up to a whole block of 136 bytes. -/
def shakePad (n : Nat) : List Byte :=
  let k := 135 - n % 136
  if k = 0 then [0x9F] else (0x1F : Byte) :: List.replicate (k - 1) 0 ++ [0x80]

/-- SHAKE256 of a message: 32 bytes. -/
def shake256 (m : List Byte) : List Byte :=
  let whole := m ++ shakePad m.length
  let empty := (upFrom 0 25).map (fun i => ({ x := i % 5, y := i / 5, val := 0 } : Cell25))
  let last := absorb (whole.length / 136) empty whole
  wordBytes ((upFrom 0 4).map (fun x => at25 last x 0))

end Sys2Proof.Machine
end

