-- ==== Sys2Proof/Machine/Sec.lean ====
section
/-! DEFINITION. Security: boot checks (R461–R464), measurements (R466, R467), signature indices (R470), owner images (R472,
R473), staging and committing (R474, R475): FW_STAGE, FW_COMMIT, ATTEST, OWNER_KEY, CONTEXT_CREATE. -/

namespace Sys2Proof.Machine

def modSec (s : State) (f : Sec → Sec) : State := { s with sec := f s.sec }

/-- The bytes of a fixed value, little-endian (R3). -/
def fixedBytes (n : Nat) {w : Nat} (v : BitVec w) : List Byte := leBytes n v.toNat

/-! ### Measurements -/

/-- Measurement register `i`, 32 bytes (R466). -/
def measureOf (s : State) (i : Nat) : List Byte :=
  let m := tget [] s.sec.measure i
  if m.isEmpty then List.replicate 32 0 else m

/-- M := SHAKE256(M ‖ d) (R466). -/
def extendMeasure (s : State) (i : Nat) (d : List Byte) : State :=
  modSec s (fun x => { x with measure := tput [] x.measure i (shake256 (measureOf s i ++ d)) })

/-- A security event extends register 7 with the hash of the first 64 bytes of its packet (R467). -/
def securityEvent (s : State) (ws : List W64) : State := extendMeasure s 7 (shake256 ((wordBytes ws).take 64))

/-! ### Flash (R459) -/

def flashAt (s : State) (off n : Nat) : List Byte := tgetN 0xFF s.sec.flash off n
def flashNat (s : State) (off n : Nat) : Nat := leNat (flashAt s off n)

/-- First byte and size of a copy: TARGET 0 bundle, 1 owner image. -/
def copyBase (target copy : Nat) : Nat := if target = 0 then copy * 2 ^ 26 else 2 ^ 27 + copy * 2 ^ 25
def copySize (target : Nat) : Nat := if target = 0 then 2 ^ 26 else 2 ^ 25

/-! ### The authenticated store (R460) -/

/-- A record's 64 bytes, its TAG under the store key included. -/
def storeRecordBytes (r : StoreRecord) : List Byte :=
  let head := leBytes 8 r.seq ++ leBytes 2 r.kind ++ leBytes 6 0 ++ leBytes 16 r.value
  head ++ fixedBytes 32 (Config.storeTag head)

/-- The highest valid SEQ. -/
def Sec.seq (x : Sec) : Nat := (x.journal.map (·.seq)).foldl max 0

/-- VALUE of the record of a kind that counts: the valid one of highest SEQ. -/
def Sec.latest (x : Sec) (kind : Nat) : Option Nat :=
  ((x.journal.filter (fun r => r.kind == kind)).foldl (fun (m : Option StoreRecord) r =>
    if m.any (fun y => decide (r.seq < y.seq)) then m else some r) none).map (·.value)

/-- SIG_NEXT: the next unreserved index. -/
def Sec.sigFlash (x : Sec) : Option Nat := (x.latest 1).map (· % 2 ^ 40)
/-- ACTIVE: bit 0 bundle copy, bit 1 owner image copy, bit 2 PENDING. -/
def Sec.active (x : Sec) : Option Nat := (x.latest 2).map (· % 8)
/-- OWNER_FLOOR; without a record 0 (log 12). -/
def Sec.ownerFloor (x : Sec) : Nat := ((x.latest 3).getD 0) % 2 ^ 32

/-- A record is appended to the store, and each FOH in service notes its SEQ (R460). -/
def appendRecord (s : State) (kind value : Nat) : State :=
  modSec s (fun x =>
    let n := x.seq + 1
    { x with journal := x.journal ++ [{ seq := n, kind, value }]
             seqCopy := [0, 1].foldl (fun t k => if fohIsUp s k then tput 0 t k n else t) x.seqCopy })

/-- The copy that ACTIVE names; without a valid record it counts as naming copies 0 (log 32). -/
def activeCopy (s : State) (target : Nat) : Nat := s.sec.active.getD 0 / 2 ^ target % 2

/-! ### Checks of a bundle (R462–R464) -/

def romVersion : Nat := 0x0100

/-- Offset, length and digest of image `k` (0 house, 1 hub, 2 prompter, 3 microcode) in the manifest. -/
def imageOffset (s : State) (base k : Nat) : Nat := flashNat s (base + 96 + 64 * k) 4
def imageLength (s : State) (base k : Nat) : Nat := flashNat s (base + 96 + 64 * k + 4) 4
def imageDigest (s : State) (base k : Nat) : List Byte := flashAt s (base + 96 + 64 * k + 32) 32

/-- VERSION of image `k`, and lowest and highest version of kind `j` in its compatibility vector (R463). -/
def imageVersion (s : State) (base k : Nat) : Nat := flashNat s (base + imageOffset s base k + 2) 2
def imageCompat (s : State) (base k j : Nat) : Nat × Nat :=
  let at_ := base + imageOffset s base k + 4 + 4 * j
  (flashNat s at_ 2, flashNat s (at_ + 2) 2)

/-- The combination of a bundle: the boot ROM's version, then those of its images (R464). -/
def combination (s : State) (base : Nat) : List Nat := romVersion :: (upFrom 0 4).map (imageVersion s base)

/-- R464. -/
def combinationOk (s : State) (base : Nat) : Bool :=
  let c := combination s base
  (upFrom 0 (min 64 (flashNat s (base + 12) 4))).any (fun j => (upFrom 0 5).map (fun i => flashNat s (base + 352 + 16 * j + 2 * i) 2) == c) &&
    (upFrom 0 4).all (fun k => (upFrom 0 5).all (fun j =>
      let v := imageCompat s base k j
      decide (v.1 ≤ c.getD j 0) && decide (c.getD j 0 ≤ v.2)))

/-- The checks 0x02 to 0x08 of R462 on a copy: the code of the first failure, 0 when all pass. -/
def checkBundle (s : State) (copy : Nat) : Nat :=
  let b := copyBase 0 copy
  let key := flashAt s (b + 16) 68
  let fits := (upFrom 0 4).all (fun k => imageOffset s b k % 4096 = 0 && decide (32 ≤ imageLength s b k) &&
    decide (imageOffset s b k + imageLength s b k ≤ copySize 0))
  if flashNat s b 4 ≠ 0x4D525754 || flashNat s (b + 4) 2 ≠ 1 || !fits then 0x02
  else if shake256 key ≠ fixedBytes 32 Config.rootHash then 0x03
  else if !Config.xmssVerify key (flashAt s b 1376) (flashAt s (b + 1376) 2820) then 0x04
  else if (upFrom 0 4).any (fun k => shake256 (flashAt s (b + imageOffset s b k) (imageLength s b k)) != imageDigest s b k) then 0x05
  else if flashNat s (b + 6) 2 < s.sec.floor then 0x06
  else if flashNat s (b + 8) 4 % 2 = 0 then 0x07
  else if !combinationOk s b then 0x08
  else 0

/-- Check 0x01 of R462: valid ACTIVE and SIG_NEXT records, and no rollback (R460). -/
def storeOk (s : State) : Bool :=
  s.sec.active.isSome && s.sec.sigFlash.isSome && [0, 1].all (fun f => decide (tget 0 s.sec.seqCopy f ≤ s.sec.seq))

/-! ### Owner images (R473) -/

def ownerLength (s : State) (copy : Nat) : Nat := flashNat s (copyBase 1 copy + 16) 4
def ownerSvn (s : State) (copy : Nat) : Nat := flashNat s (copyBase 1 copy + 4) 4
def ownerEntryVa (s : State) (copy : Nat) : Nat := flashNat s (copyBase 1 copy + 8) 8
def ownerImage (s : State) (copy : Nat) : List Byte := flashAt s (copyBase 1 copy) (ownerLength s copy)

/-- The condition of R473 that an owner image fails first: 1 header, 2 key, 3 signature, 4 SVN; 0 when it passes. -/
def checkOwner (s : State) (copy : Nat) : Nat :=
  let b := copyBase 1 copy
  let n := ownerLength s copy
  let key := flashAt s (b + 20) 68
  if flashNat s b 4 ≠ 0x4E574F54 || n < 96 || n + 2820 > copySize 1 then 1
  else if some (shake256 key) ≠ s.sec.ownerSlots.getLast? then 2
  else if !Config.xmssVerify key (ownerImage s copy) (flashAt s (b + n) 2820) then 3
  else if ownerSvn s copy < s.sec.ownerFloor then 4
  else 0

/-! ### Boot (R461) -/

/-- Steps 1 to 5 and 8 of R461: measurements, the checks of R462 in order, limp mode on the first failure, the versions in
force, and the owner image. A boot clears PENDING (R475). -/
def bootChecks (s : State) : State :=
  let s0 := extendMeasure (modSec s (fun x => { x with
    limp := false, reason := 0, ownerOk := false, svn := 0, versions := [], left := 0, next := 0, retryIndex := false
    stage := {}, measure := [], debugSeen := false })) 0 (fixedBytes 32 Config.romDigest)
  let copy := activeCopy s 0
  let code := if storeOk s then checkBundle s copy else 0x01
  if code ≠ 0 then modSec s0 (fun x => { x with limp := true, reason := code, copy, pend := (x.active.getD 0).testBit 2 })
  else
    let b := copyBase 0 copy
    let s1 := (upFrom 0 4).foldl (fun s k => extendMeasure s (k + 1) (imageDigest s b k)) s0
    let s2 := extendMeasure s1 5 (shake256 (flashAt s b 1376))
    let own := activeCopy s 1
    let pass := checkOwner s own == 0
    let s3 := extendMeasure s2 6 (if pass then shake256 (ownerImage s own) else List.replicate 32 0)
    let a := s.sec.active.getD 0
    let s4 := if a.testBit 2 then appendRecord s3 2 (a % 4) else s3
    modSec s4 (fun x => { x with
      copy, svn := flashNat s (b + 6) 2, versions := (upFrom 0 4).map (imageVersion s b), pend := false, ownerCopy := own, ownerOk := pass })

/-! ### Signature indices (R470) -/

/-- B of R470. -/
def nextBlock (s : State) : Nat :=
  ([s.sec.sigFlash, tget none s.sec.sigCopy 0, tget none s.sec.sigCopy 1].map (fun o => o.getD 0)).foldl max 0

/-- A block is reserved (R470): `stored`: its record was written and reads back with a valid TAG. After a failure it is tried
again at the next house-cycle boundary. -/
def reserveIndex (stored : Bool) (s : State) : State :=
  if !stored then modSec s (fun x => { x with retryIndex := true })
  else
    let b := nextBlock s
    modSec (appendRecord s 1 (b + 4096)) (fun x => { x with
      next := b, left := 4096
      sigCopy := [0, 1].foldl (fun t k => if fohIsUp s k then tput none t k (some (b + 4096)) else t) x.sigCopy })

/-- An index of the identity key is used (R470): the state, the index. -/
def useIndex (s : State) : State × Nat :=
  (modSec s (fun x => { x with left := x.left - 1, next := x.next + 1 }), s.sec.next)

/-- An identity-key signature over a message. -/
def sign (index : Nat) (message : List Byte) : List Byte := fixedBytes 9893 (Config.xmssmtSign index message)

/-- A random value of some bytes from the security engine's source (R407, R410). -/
def drawRandom (s : State) (n : Nat) : State × List Byte :=
  (modSec s (fun x => { x with draws := x.draws + 1 }), fixedBytes n (Config.random s.sec.draws))

/-! ### Certificates (R409, R458) -/

def identityBytes : List Byte := fixedBytes 68 Config.identityKey

/-- The factory certificate (R458). -/
def factoryCert : List Byte :=
  leBytes 4 2 ++ leBytes 4 0 ++ fixedBytes 4 Config.serial ++ leBytes 4 0 ++ identityBytes ++
    fixedBytes 32 Config.rootHash ++ List.replicate 12 0 ++ fixedBytes 2820 Config.factorySignature

/-! ### ATTEST (R468, R469) -/

/-- The quote body. -/
def quoteBody (s : State) (index : Nat) (nonce : List Byte) : List Byte :=
  leBytes 4 3 ++ leBytes 4 s.net.gid ++ leBytes 8 index ++ leBytes 8 s.clk.cue ++
    leBytes 8 (if s.net.locked then s.net.podTime.toNat else 0) ++ nonce ++
    (upFrom 0 8).flatMap (measureOf s) ++ (upFrom 0 4).flatMap (fun k => leBytes 2 (s.sec.versions.getD k 0)) ++
    leBytes 8 (romVersion + s.sec.svn % 256 * 2 ^ 16 + s.sec.floor % 256 * 2 ^ 24 + (if s.sec.ownerOk then 2 ^ 32 else 0) +
      (if s.sec.debugSeen then 2 ^ 33 else 0)) ++ List.replicate 112 0

/-- Some address ranges of a command's DST, resolved for writing: the pieces of each. -/
def resolveAll (s : State) (c : Nat) (rs : List (Nat × Nat)) (need : Need) : Access := resolveRuns s c rs need

/-- ATTEST (R468): with no index at hand it waits for a reservation (R476), or has NO_RESOURCE when the reservation failed. -/
def execAttest (q : Nat) (s : State) : Out :=
  .next (onCommand s q 0x92 (fun cm =>
    let w := wordAt cm.words
    let c := cmdCtx s q cm
    let dst := bits (w 5) 54 0
    let cert := bit (w 6) 0
    let rs := (dst, 448 + 9893) :: (if cert then [(dst + 10368, 2948)] else [])
    if dst % 64 ≠ 0 then reject s q cm stBadFormat 5
    else match resolveAll s c rs needWrite with
      | .bad st a => faultCommand s q cm c st a
      | .ok pas => match badPartial s (pas.filter (fun x => cacheable x.1)) with
        | some a => burstCommand s q cm c a
        | none =>
          if s.sec.left = 0 then (if s.sec.retryIndex then reject s q cm stNoResource 0 else s)
          else if !piecesTaken s pas then s
          else
            let (s1, i) := useIndex s
            let body := quoteBody s i (((wordBytes cm.words).drop 8).take 32)
            answerNext (putBytes s1 c pas (body ++ sign i body ++ (if cert then factoryCert else []))) q cm 0 0))

/-! ### OWNER_KEY (R472) -/

/-- OWNER_KEY: the hash of the key takes the lowest free of four slots; lower slots are revoked. -/
def execOwnerKey (q : Nat) (s : State) : Out :=
  .next (onCommand s q 0x93 (fun cm =>
    if q ≠ 1024 then reject s q cm stBadObject 0
    else if s.sec.ownerSlots.length ≥ 4 then reject s q cm stNoResource 0
    else
      let key := ((wordBytes cm.words).drop 8).take 68
      let s1 := modSec s (fun x => { x with ownerSlots := x.ownerSlots ++ [shake256 key] })
      answerNext (securityEvent s1 cm.words) q cm 0 0))

/-! ### FW_STAGE (R474) -/

/-- Bytes of flash replaced. -/
def writeFlash (s : State) (off : Nat) (bs : List Byte) : State :=
  modSec s (fun x => { x with flash := tputN 0xFF x.flash off bs })

/-- A session is opened: the copy that ACTIVE does not name is erased. The session's number is the device's own draw. -/
def beginStage (s : State) (target : Nat) : State :=
  let b := copyBase target (1 - activeCopy s target)
  let (s1, r) := drawRandom s 4
  modSec s1 (fun x => { x with
    flash := x.flash.filter (fun kv => !(decide (b ≤ kv.1) && decide (kv.1 < b + copySize target)))
    stage := { opened := true, target, check := x.stage.check, session := leNat r, blocks := [] } })

/-- The 64 KiB blocks of a chunk. -/
def chunkBlocks (off n : Nat) : List Nat := upFrom (off / 65536) ((off + n - 1) / 65536 + 1 - off / 65536)

/-- A chunk is written, or compared where its blocks have been written before. -/
def stageChunk (s : State) (q : Nat) (cm : Cmd) (off : Nat) (bs : List Byte) : State :=
  let x := s.sec.stage
  let b := copyBase x.target (1 - activeCopy s x.target)
  let blocks := chunkBlocks off bs.length
  let same := blocks.all (fun k => !tget false x.blocks k ||
    (let lo := k * 65536 - off
     let part := (bs.drop lo).take 65536
     part == flashAt s (b + k * 65536) part.length))
  if !same then reject s q cm stBadObject 0
  else
    let s1 := modSec (writeFlash s (b + off) bs) (fun y => { y with
      stage := { y.stage with blocks := blocks.foldl (fun t k => tput false t k true) y.stage.blocks } })
    answerNext s1 q cm 0 0

/-- The host range of a staged chunk: in the issuing port's window (R474). -/
def stageSource (s : State) (q : Nat) (cm : Cmd) : Access :=
  resolve s (cmdCtx s q cm) (bits (wordAt cm.words 3) 54 0) (bits (wordAt cm.words 2) 63 32) needRead

/-- The checks of FW_STAGE that its packet fails, with the word at fault. -/
def stageReject (s : State) (cm : Cmd) : Option (Nat × Nat) :=
  let w := wordAt cm.words
  let target := bits (w 1) 62 62
  let n := bits (w 2) 63 32
  let off := bits (w 2) 31 0
  if n = 0 || n > 2 ^ 20 || off % 65536 ≠ 0 || off + n > copySize target then some (stBadFormat, 2)
  else if bit (w 1) 63 then (if s.sec.pend then some (stBadObject, 0) else none)
  else if !s.sec.stage.opened || s.sec.stage.session ≠ bits (w 1) 31 0 || s.sec.stage.target ≠ target then some (stBadObject, 0)
  else none

/-- The chunk's bytes are there: the session is opened if asked, and the chunk is written. -/
def stageNow (s : State) (q : Nat) (cm : Cmd) (bs : List Byte) : State :=
  match stageReject s cm with
  | some (st, k) => reject s q cm st k
  | none =>
    let s1 := if bit (wordAt cm.words 1) 63 then beginStage s (bits (wordAt cm.words 1) 62 62) else s
    stageChunk s1 q cm (bits (wordAt cm.words 2) 31 0) bs

/-- A command whose bytes have been asked for and have all come. -/
def bytesThere (s : State) (q op n : Nat) : Option Cmd :=
  match headCmd (queueOf s q) with
  | some cm =>
    if pktOp (wordAt cm.words 0) = op && cm.stage = 1 && cm.fin.isNone && cm.asked && (gotBytes cm).length = n then some cm else none
  | none => none

/-- FW_STAGE (R474). -/
def execFwStage (q : Nat) (s : State) : Out :=
  let s1 := onCommand s q 0x90 (fun cm =>
    match stageReject s cm with
    | some (st, k) => reject s q cm st k
    | none =>
      if q = 1024 then (if (gotBytes cm).length < bits (wordAt cm.words 2) 63 32 then reject s q cm stBadFormat 3
        else stageNow s q cm ((gotBytes cm).take (bits (wordAt cm.words 2) 63 32)))
      else match stageSource s q cm with
        | .bad st a => faultCommand s q cm (cmdCtx s q cm) st a
        | .ok pas =>
          if pas.any (fun x => (hostOf x.1).map (fun h => h.1) != some q) then reject s q cm stBadFormat 3
          else askBytes (modCmd s q cm.idx (fun x => { x with stage := 1 })) q cm.idx (cmdCtx s q cm) pas)
  match headCmd (queueOf s1 q) with
  | none => .next s1
  | some h => match bytesThere s1 q 0x90 (bits (wordAt h.words 2) 63 32) with
    | some cm => .next (stageNow s1 q cm (gotBytes cm))
    | none => .next s1

/-! ### FW_COMMIT (R475) -/

/-- The check of a copy: 0, or the code that CHECK shows. -/
def checkCopy (s : State) (target copy : Nat) : Nat :=
  if target = 0 then checkBundle s copy
  else match checkOwner s copy with
    | 0 => 0
    | k => (Config.ownerCode k).toNat

/-- The copy passes. -/
def copyPasses (s : State) (target copy : Nat) : Bool :=
  if target = 0 then checkBundle s copy == 0 else checkOwner s copy == 0

/-- The ACTIVE record with one copy exchanged is appended; selecting the copy in force clears PENDING. -/
def activate (s : State) (target copy : Nat) : State :=
  let a := s.sec.active.getD 0 % 4
  let a' := if target = 0 then a / 2 * 2 + copy else a % 2 + copy * 2
  let forced := if target = 0 then s.sec.copy else s.sec.ownerCopy
  let pend := copy ≠ forced
  modSec (appendRecord s 2 (a' + if pend then 4 else 0)) (fun x => { x with pend })

/-- A commit in limp mode is followed by a device reset at the boundary of its record (R465). -/
def afterCommit (s : State) : State :=
  if s.sec.limp then { s with mgmt := { s.mgmt with resetDue := some (s.clk.cue + 1) } } else s

/-- A checked copy is made active, or the check's code is shown. -/
def commitCopy (s : State) (q : Nat) (cm : Cmd) (target copy : Nat) : State :=
  let s1 := modSec s (fun x => { x with stage := { x.stage with check := checkCopy s target copy } })
  if copyPasses s target copy then
    let s2 := modSec (activate s1 target copy) (fun x => { x with stage := { x.stage with opened := false } })
    answerNext (securityEvent (afterCommit s2) cm.words) q cm 0 0
  else reject s1 q cm stBadObject 0

/-- FW_COMMIT (R475). -/
def execFwCommit (q : Nat) (s : State) : Out :=
  .next (onCommand s q 0x91 (fun cm =>
    let w := wordAt cm.words 1
    let target := bits w 61 61
    let other := 1 - activeCopy s target
    match bits w 63 62 with
    | 0 =>
      if !s.sec.stage.opened || s.sec.stage.session ≠ bits w 31 0 || s.sec.stage.target ≠ target then reject s q cm stBadObject 0
      else commitCopy s q cm target other
    | 1 => commitCopy s q cm target other
    | 2 =>
      if s.sec.pend || s.sec.limp || (target = 1 && !s.sec.ownerOk) then reject s q cm stBadObject 0
      else
        let s1 := if target = 0 then modSec s (fun x => { x with floor := max x.floor x.svn })
          else appendRecord s 3 (ownerSvn s s.sec.ownerCopy)
        answerNext (securityEvent s1 cm.words) q cm 0 0
    | _ => reject s q cm stBadFormat 1))

/-! ### CONTEXT_CREATE (R371) -/

/-- CONTEXT_CREATE (R371): a context with DEBUG set is a security event (R467). -/
def execContextCreate (q : Nat) (picks : List Nat) (s : State) : Out := contextCreateWith securityEvent q picks s

end Sys2Proof.Machine
end

