-- ==== Sys2Proof/Machine/Links.lean ====
section
/-! DEFINITION. Bring-up and authentication of tenon links and Ethernet peers (R405–R414, R428), routing of arriving packets
(R415–R423): CAPS, HELLO, PROOF, REFUSE, TIMEOUT, QUARANTINE_RETRY, PHY_TRAINED, TENON_LINK_DOWN, FRAME_RETRY, LINK_RETRAIN,
LINK_CTL_WRITE, ETHERNET_LINK_UP, ETHERNET_LINK_DOWN, WRITE, READ_REQ, READ_RESP, SIGNAL, ACK, ACK_TIMEOUT,
SIG_INDEX_RESERVE. -/

namespace Sys2Proof.Machine

/-! ### LINK_CTL (R406) -/

def linkMode (l : Nat) (w : W64) : Nat := let m := bits w 62 61; if m = 1 && l ≥ 8 then 0 else m
def linkRole (w : W64) : Nat := bits w 60 59
def linkTime (w : W64) : Nat := bits w 58 57
def linkMaxGen (w : W64) : Nat := if bits w 56 55 = 1 then 1 else 2
/-- ASYM_PS, signed. -/
def linkAsym (w : W64) : Int := signed 16 (bits w 47 32)

/-- The link is held down by its control register. -/
def linkHeld (w : W64) : Bool := !bit w 63 || bits w 62 61 == 3 || bits w 60 59 == 3

/-- What a write leaves in LINK_CTL: RETRAIN and the reserved fields read 0 (R6, R7, R406). -/
def linkCtlKept (w : W64) : W64 := w &&& 0xFFC0FFFF00000000

/-! ### Pod-time roles (R433) -/

/-- An announcement heard on a link that this device may follow: master GID and this device's hops to it. -/
def followable (l : Link) : Option (Nat × Nat) :=
  match l.heard with
  | some (m, h, cand, _) =>
    if l.state = 4 && linkTime l.ctl ≥ 2 && h + 1 ≤ 15 && (m ≠ l.partner || cand) then some (m, h + 1) else none
  | none => none

/-- The upstream that R433 chooses: lowest master GID, then fewest hops, then lowest link: (GID, hops, link). -/
def bestUpstream (s : State) : Option (Nat × Nat × Nat) :=
  let all := (upFrom 0 48).filterMap (fun i => (followable (linkOf s i)).map (fun x => (x.1, x.2, i)))
  (sortBy (fun (a b : Nat × Nat × Nat) =>
    decide (a.1 < b.1) || (decide (a.1 = b.1) && (decide (a.2.1 < b.2.1) || (decide (a.2.1 = b.2.1) && decide (a.2.2 ≤ b.2.2))))) all).head?

/-- This device may be the pod time master and no lower candidate is heard. -/
def isMaster (s : State) : Bool :=
  bit s.net.podCtl 63 && (match bestUpstream s with
    | some (g, _, _) => decide (s.net.gid < g)
    | none => true)

/-- In AUTO, a link sends time when this device is nearer the master than the partner (R433). -/
def autoSends (master : Option (Nat × Nat)) (l : Link) : Bool :=
  match l.heard, master with
  | none, _ => true
  | some _, none => false
  | some (m, h, _, _), some (g, hops) => decide (g < m) || (decide (g = m) && decide (hops < h))

/-- TIME_ROLE of a link (R406, R433). -/
def timeRoleOf (master : Option (Nat × Nat)) (up : Option Nat) (i : Nat) (l : Link) : Nat :=
  if l.state ≠ 4 then 0
  else
    let receives := if up = some i then 2 else 3
    match linkTime l.ctl with
    | 0 => 0
    | 1 => 1
    | 2 => receives
    | _ => if up ≠ some i && autoSends master l then 1 else receives

/-- Master, upstream and roles from what the links have heard (R433); without a master LOCKED is clear. -/
def resolvePod (s : State) : State :=
  let best := bestUpstream s
  let me := isMaster s
  let master := if me then some (s.net.gid, 0) else best.map (fun x => (x.1, x.2.1))
  let up := if me then none else best.map (fun x => x.2.2)
  { s with net := { s.net with
      master := me
      masterGid := (master.map (fun x => x.1)).getD 0
      hops := (master.map (fun x => x.2)).getD 0
      upstream := up.getD 0xFF
      locked := s.net.locked && up.isSome
      good := if up = (if s.net.upstream = 0xFF then none else some s.net.upstream) then s.net.good else 0
      links := (upFrom 0 48).foldl (fun ls i => tmod {} ls i (fun l => { l with timeRole := timeRoleOf master up i l })) s.net.links } }

/-! ### Ends: links 0–47, and 48 + 1,024 × port + entry for an Ethernet peer -/

def peerOf (s : State) (k : Nat) : Peer := tget {} s.net.peers k
def modPeer (s : State) (k : Nat) (f : Peer → Peer) : State :=
  { s with net := { s.net with peers := tmod {} s.net.peers k f } }

def handOf (s : State) (e : Nat) : Handshake := if e < 48 then (linkOf s e).hand else (peerOf s (e - 48)).hand
def modHand (s : State) (e : Nat) (f : Handshake → Handshake) : State :=
  if e < 48 then modLink s e (fun l => { l with hand := f l.hand }) else modPeer s (e - 48) (fun x => { x with hand := f x.hand })

/-- The end initiates: as R407 resolved for a link; the lower GID for a peer (R428). -/
def initiates (s : State) (e : Nat) : Bool :=
  if e < 48 then (linkOf s e).initiator else decide (s.net.gid < (peerOf s (e - 48)).gid)

/-- Fragments of a control message (R411). -/
def fragments (attempt msg : Nat) (body : List Byte) : List Packet :=
  let n := max 1 (ceilDiv body.length 248)
  (upFrom 0 n).map (fun k =>
    let part := (body.drop (248 * k)).take 248
    (({ ty := 6, len := 8 + part.length, seq := k } : Head).words,
     leBytes 8 (attempt * 2 ^ 32 + n * 2 ^ 16 + k * 2 ^ 8 + msg) ++ part))

/-- A control message is sent on an end in its fragments (R411): CONTROL packets of a link, datagrams to a peer. -/
def sendControl (s : State) (e msg : Nat) (body : List Byte) : State :=
  let a := (handOf s e).attempt
  if e < 48 then modLink s e (fun l => { l with ctlOut := l.ctlOut ++ fragments a msg body })
  else (fragments a msg body).foldl (fun s p => datagram s (e - 48) p) s

/-! ### Bring-up (R410, R412, R414) -/

/-- A link or peer enters quarantine with a reason (R413); `tell`: REFUSE is sent first (R411). -/
def quarantine (s : State) (e reason : Nat) (tell : Bool) : State :=
  let s0 := if tell then sendControl s e 4 (leBytes 8 reason) else s
  let s1 := modHand s0 e (fun h => { h with stage := 0, owes := false })
  if e < 48 then resolvePod (modLink s1 e (fun l => { l with state := 3, reason, gen := 0, partner := 0, partnerLink := 0, heard := none }))
  else modPeer s1 (e - 48) (fun x => { x with auth := false, reason })

/-- The handshake of a new attempt at a stage. -/
def newAttempt (s : State) (h : Handshake) (stage : Nat) : Handshake :=
  { stage, since := beat s, attempt := (h.attempt + 1) % 2 ^ 32, partnerAttempt := h.partnerAttempt }

/-- A link goes down and begins bring-up with its equalisation presets (R441), is held down, or stays down with its hub (R406, R410, R414, R465); without an own
certificate a tenon link goes to quarantine (R408, R413). -/
def bringUp (s : State) (l : Nat) : State :=
  let x := linkOf s l
  let down : Link := { x with
    state := 0, gen := 0, initiator := false, timeRole := 0, reason := 0, partner := 0, partnerLink := 0
    gen2Fails := 0, bothGen2 := false, draw := 0, frame := 0, retries := 0, heard := none, round := 0
    t1 := 0, t2 := 0, t3 := 0, t4 := 0, hand := { x.hand with stage := 0, owes := false } }
  let put := fun (y : Link) => resolvePod (modLink (useOffsets s (fun k => k / 2 ^ 48 == 2 * 2 ^ 14 + l)) l (fun _ => y))
  if linkHeld x.ctl then put { down with state := 7 }
  else if s.sec.limp || !hubIsUp s (l / 6) then put down
  else
    let up := { down with
      state := 1, retrains := satTo 65535 (x.retrains + 1), hand := newAttempt s x.hand 1 }
    if linkMode l x.ctl = 0 && s.sec.cert.isNone then put { up with state := 3, reason := 0x01, hand := { up.hand with stage := 0 } }
    else put up

/-- CAPS body (R411): MAX_GEN, ROLE, link number, DRAW. -/
def capsBody (l : Nat) (ctl : W64) (draw : Nat) : List Byte :=
  leBytes 1 (linkMaxGen ctl) ++ leBytes 1 (linkRole ctl) ++ leBytes 1 l ++ List.replicate 5 0 ++ leBytes 8 draw

/-- CAPS is sent: an AUTO end draws (R407, R410, R411). -/
def sendCaps (s : State) (l : Nat) : State :=
  let ctl := (linkOf s l).ctl
  let r := if linkRole ctl = 0 then drawRandom s 8 else (s, [])
  let s1 := modLink r.1 l (fun x => { x with
    state := 1, gen := 1, draw := BitVec.ofNat 64 (leNat r.2), hand := { x.hand with stage := 2, since := beat s } })
  sendControl s1 l 1 (capsBody l ctl (leNat r.2))

/-- HELLO is sent: own certificate and a nonce (R410 step 3). -/
def sendHello (s : State) (e : Nat) : State :=
  let (s1, nonce) := drawRandom s 32
  let s2 := modHand s1 e (fun h => { h with stage := 4, since := beat s, nonce })
  let s3 := if e < 48 then modLink s2 e (fun l => { l with state := 2 }) else s2
  sendControl s3 e 2 (s.sec.cert.getD [] ++ nonce)

/-- PHY_TRAINED (R405, R408, R410): the PHY finishes training, or fails an attempt at generation 2. -/
def execPhyTrained (l : Nat) (ok : Bool) (s : State) : Out :=
  let x := linkOf s l
  if x.state ≠ 1 then .next s
  else if x.hand.stage = 1 then
    if !ok then .next s
    else match linkMode l x.ctl with
      | 0 => .next (sendCaps s l)
      | 2 => .next (modLink s l (fun x => { x with
          state := 5, gen := linkMaxGen x.ctl, partner := s.net.gid, partnerLink := l, hand := { x.hand with stage := 0 } }))
      | _ => .next s
  else if x.hand.stage = 3 then
    if ok then .next (sendHello (modLink s l (fun x => { x with gen := 2 })) l)
    else if x.gen2Fails ≥ 2 then .next (sendHello (modLink s l (fun x => { x with gen := 1, gen2Fails := 3 })) l)
    else .next (modLink s l (fun x => { x with gen2Fails := x.gen2Fails + 1 }))
  else .next s

/-- Roles from the CAPS of both ends (R407): some true when this end initiates; none on a conflict. -/
def resolveRole (mine theirs : Nat) (draw their : Nat) : Option (Option Bool) :=
  match mine, theirs with
  | 1, 1 => none
  | 2, 2 => none
  | 1, _ => some (some true)
  | 2, _ => some (some false)
  | _, 1 => some (some false)
  | _, 2 => some (some true)
  | _, _ => if draw > their then some (some true) else if draw < their then some (some false) else some none

/-- A CAPS of the partner is taken: roles and generation resolve, or the draws are redrawn (R407, R410, R411). -/
def takeCaps (s : State) (l attempt : Nat) (body : List Byte) : State :=
  let byte := fun (i : Nat) => (body.getD i 0).toNat
  let x := linkOf s l
  let s1 := modLink s l (fun y => { y with partnerLink := byte 2, hand := { y.hand with partnerAttempt := attempt } })
  match resolveRole (linkRole x.ctl) (byte 1) x.draw.toNat (leNat ((body.drop 8).take 8)) with
  | none => quarantine s1 l 0x0A true
  | some none => sendCaps s1 l
  | some (some ini) =>
    let both := linkMaxGen x.ctl == 2 && byte 0 == 2
    let s2 := modLink s1 l (fun y => { y with initiator := ini, bothGen2 := both })
    if both then modHand s2 l (fun h => { h with stage := 3, since := beat s }) else sendHello s2 l

/-- CAPS (R407, R410, R411): it is taken in its stage; on a quarantined link, or before this end has signed, it begins a new
attempt, on a quarantined one at most once per house cycle (R412). -/
def execCaps (l attempt : Nat) (body : List Byte) (s : State) : Out :=
  let x := linkOf s l
  let fits := body.length == 16 && ((body.getD 0 0) == 1 || (body.getD 0 0) == 2) && decide ((body.getD 1 0).toNat < 3)
  if !fits || linkMode l x.ctl ≠ 0 || linkHeld x.ctl || s.sec.cert.isNone || s.sec.limp then .next s
  else
    let again := modLink s l (fun x => { x with
      retrains := satTo 65535 (x.retrains + 1), reason := 0, gen2Fails := 0, hand := newAttempt s x.hand 2 })
    if x.state = 1 && x.hand.stage = 2 then .next (takeCaps s l attempt body)
    else if x.state = 3 && x.hand.retryDue then .next (takeCaps (sendCaps again l) l attempt body)
    else if (x.state = 1 || x.state = 2) && x.hand.stage ≥ 3 && !x.hand.proved && attempt ≠ x.hand.partnerAttempt then
      .next (takeCaps (sendCaps again l) l attempt body)
    else .next s

/-! ### Certificates (R409, R413) -/

def certField (c : List Byte) (off n : Nat) : List Byte := (c.drop off).take n
def certNat (c : List Byte) (off n : Nat) : Nat := leNat (certField c off n)
def certGid (c : List Byte) : Nat := certNat c 4 3

/-- GENS of a certificate allows a generation. -/
def certGen (c : List Byte) (gen : Nat) : Bool := (certNat c 12 4).testBit (gen - 1)

/-- The installed anchor that issued a certificate: key and MIN_SERIAL. -/
def issuerOf (s : State) (c : List Byte) : Option (List Byte × Nat) :=
  (upFrom 0 8).findSome? (fun k => match tget none s.sec.anchors k with
    | some a => if shake256 a.1 = certField c 84 32 then some a else none
    | none => none)

/-- Rows 0x02 to 0x05 of R413 for a certificate: the first that fails, 0 for none. -/
def checkIssued (s : State) (c : List Byte) : Nat :=
  if c.length ≠ 2948 || certNat c 0 4 ≠ 1 || certNat c 7 1 ≠ 0 || certNat c 12 4 ≥ 4 || certNat c 116 12 ≠ 0 then 0x02
  else match issuerOf s c with
    | none => 0x03
    | some a =>
      if !Config.xmssVerify a.1 (c.take 128) (c.drop 128) then 0x04
      else if certNat c 8 4 < a.2 then 0x05
      else 0

/-- Rows 0x02 to 0x06, 0x08 and 0x0C of R413 for the partner of an end (R410 step 4). -/
def checkPartner (s : State) (e : Nat) (c : List Byte) : Nat :=
  let r := checkIssued s c
  if r ≠ 0 then r
  else if certGid c = s.net.gid then 0x06
  else if e < 48 && !(certGen c (linkOf s e).gen && certGen (s.sec.cert.getD []) (linkOf s e).gen) then 0x08
  else if 48 ≤ e && certGid c ≠ (peerOf s (e - 48)).gid then 0x0C
  else 0

/-- D of R410: what the signer of a role signs, seen from this end. -/
def proofMessage (s : State) (e : Nat) (byInitiator : Bool) : List Byte :=
  let h := handOf s e
  let ini := initiates s e
  let mine := (h.nonce, leBytes 3 s.net.gid, if e < 48 then leBytes 1 e else [Config.peerByte 0])
  let theirs := (h.partnerNonce, leBytes 3 (certGid h.cert), if e < 48 then leBytes 1 (linkOf s e).partnerLink else [Config.peerByte 0])
  let a := if ini then mine else theirs
  let b := if ini then theirs else mine
  shake256 (a.1 ++ b.1 ++ a.2.1 ++ b.2.1 ++ a.2.2 ++ b.2.2 ++ leBytes 1 (if byInitiator then 0 else 1) ++
    (if e < 48 then leBytes 1 (linkOf s e).gen else [Config.peerByte 1]))

/-- An end is active (R410 step 6, R428). -/
def activateEnd (s : State) (e : Nat) : State :=
  let s1 := modHand s e (fun h => { h with stage := 0, owes := false })
  if e < 48 then resolvePod (modLink s1 e (fun l => { l with state := 4, reason := 0, partner := certGid l.hand.cert }))
  else modPeer s1 (e - 48) (fun x => { x with auth := true, reason := 0 })

/-- The own PROOF is sent with an index, or waits for one (R410, R470, R476); NO_INDEX when the reservation failed. The
responder's PROOF makes its end active. -/
def sendProof (s : State) (e : Nat) : State :=
  if s.sec.left = 0 then
    if s.sec.retryIndex then quarantine s e 0x0B true else modHand s e (fun h => { h with owes := true })
  else
    let ini := initiates s e
    let (s1, i) := useIndex s
    let s2 := sendControl s1 e 3 (sign i (proofMessage s e ini))
    let s3 := modHand s2 e (fun h => { h with proved := true, owes := false, since := beat s })
    if ini then s3 else activateEnd s3 e

/-- The end is in the stage, and the message belongs to the partner's attempt (R411); a peer's first HELLO gives its
attempt. -/
def handDue (s : State) (e attempt stage : Nat) : Bool :=
  let h := handOf s e
  h.stage == stage && (if e < 48 then (linkOf s e).state == 2 && h.partnerAttempt == attempt
    else (peerOf s (e - 48)).valid && (stage == 4 || h.partnerAttempt == attempt))

/-- A quarantined peer answers a HELLO with an attempt of its own, once per house cycle (R428). -/
def wakePeer (s : State) (e : Nat) : State :=
  if 48 ≤ e && (peerOf s (e - 48)).valid && (handOf s e).stage = 0 && (handOf s e).retryDue && s.sec.cert.isSome then
    sendHello (modHand s e (fun h => newAttempt s h 4)) e
  else s

/-- HELLO (R410 steps 3 and 4): the partner's certificate is checked; a device signs nothing for one that fails. -/
def execHello (l attempt : Nat) (body : List Byte) (s : State) : Out :=
  let s0 := wakePeer s l
  if !handDue s0 l attempt 4 then .next s0
  else
    let c := body.take 2948
    let r := if body.length ≠ 2980 then 0x02 else checkPartner s0 l c
    if r ≠ 0 then .next (quarantine s0 l r true)
    else
      let s1 := modHand s0 l (fun h => { h with
        stage := 5, since := beat s, cert := c, partnerNonce := body.drop 2948, partnerAttempt := attempt })
      .next (if initiates s1 l then sendProof s1 l else s1)

/-- PROOF (R410 step 5): the partner's signature over D is verified; the responder answers with its own. -/
def execProof (l attempt : Nat) (body : List Byte) (s : State) : Out :=
  let h := handOf s l
  let ini := initiates s l
  if !handDue s l attempt 5 || (ini && !h.proved) || (!ini && h.owes) then .next s
  else if !Config.xmssmtVerify (certField h.cert 16 68) (proofMessage s l (!ini)) body then .next (quarantine s l 0x07 true)
  else .next (if ini then activateEnd s l else sendProof s l)

/-- REFUSE (R411): the attempt ends in quarantine with the partner's code. -/
def execRefuse (l attempt : Nat) (body : List Byte) (s : State) : Out :=
  let h := handOf s l
  if body.length ≠ 8 || h.stage < 2 || h.partnerAttempt ≠ attempt then .next s
  else .next (quarantine s l ((body.getD 0 0).toNat) false)

/-- TIMEOUT (R410): a step is not answered within 4,096 cues. -/
def execTimeout (l : Nat) (s : State) : Out :=
  let h := handOf s l
  if h.stage = 0 || h.owes || beat s < h.since + 4096 || (l < 48 && linkMode l (linkOf s l).ctl ≠ 0) then .next s
  else .next (quarantine s l 0x09 (decide (2 ≤ h.stage)))

/-- QUARANTINE_RETRY (R412, R428): once per house cycle a quarantined link begins a new attempt, and so does a peer that is
not authenticated. -/
def execQuarantineRetry (l : Nat) (s : State) : Out :=
  let h := handOf s l
  if !h.retryDue then .next s
  else if l < 48 then (if (linkOf s l).state = 3 then .next (bringUp s l) else .next s)
  else if !(peerOf s (l - 48)).valid || (peerOf s (l - 48)).auth || s.sec.cert.isNone then .next s
  else .next (sendHello (modHand s l (fun h => newAttempt s h 4)) l)

/-- TENON_LINK_DOWN (R414): an active link goes down and begins bring-up again. -/
def execTenonLinkDown (l : Nat) (s : State) : Out :=
  if (linkOf s l).state ≠ 4 then .next s else .next (bringUp s l)

/-- FRAME_RETRY (R414, R416): 16 successive retries of one frame bring the link down. -/
def execFrameRetry (l seq : Nat) (s : State) : Out :=
  let x := linkOf s l
  if x.state ≠ 4 then .next s
  else
    let n := if x.retries ≠ 0 && x.frame = seq then x.retries + 1 else 1
    if n ≥ 16 then .next (bringUp s l) else .next (modLink s l (fun x => { x with frame := seq, retries := n }))

/-- LINK_RETRAIN (R406, R412, R414). -/
def execLinkRetrain (l : Nat) (s : State) : Out := .next (bringUp s l)

/-- A write of LINK_CTL (R406): it holds the link down, releases it, or begins bring-up when RETRAIN is written or the mode
changes. -/
def writeLinkCtl (s : State) (l : Nat) (value : W64) : State :=
  let old := linkOf s l
  let s1 := modLink s l (fun x => { x with ctl := linkCtlKept value })
  let new := linkOf s1 l
  if bit value 53 || linkHeld new.ctl != linkHeld old.ctl || linkMode l new.ctl ≠ linkMode l old.ctl then bringUp s1 l
  else resolvePod s1

/-- LINK_CTL_WRITE (R406): from the management Ethernet port only. -/
def execLinkCtlWrite (path : Path) (l : Nat) (value : W64) (s : State) : Out :=
  match path with
  | .eth => .next (writeLinkCtl s l value)
  | .port _ => .next s

/-- ETHERNET_LINK_UP (R405, R426): 400 or 200 Gb/s; 200 only where ETH_200 is set. -/
def execEthernetLinkUp (l rate : Nat) (s : State) : Out :=
  let x := linkOf s l
  if x.state ≠ 1 || linkMode l x.ctl ≠ 1 || !(rate = 200 || (rate = 400 && !bit x.ctl 54)) then .next s
  else .next (modLink s l (fun x => { x with state := 6, hand := { x.hand with stage := 0 } }))

/-- ETHERNET_LINK_DOWN (R426): the link trains again. -/
def execEthernetLinkDown (l : Nat) (s : State) : Out :=
  if (linkOf s l).state ≠ 6 then .next s else .next (bringUp s l)

/-! ### SIG_INDEX_RESERVE (R470) -/

/-- The ends whose PROOF waits for an index. -/
def owingEnds (s : State) : List Nat :=
  (upFrom 0 48).filter (fun l => (linkOf s l).hand.owes) ++ (s.net.peers.filter (fun kv => kv.2.hand.owes)).map (fun kv => 48 + kv.1)

/-- SIG_INDEX_RESERVE (R470, R476): when no index is left, the primary reserves a block of 4,096; the PROOFs that waited are
sent, or end with NO_INDEX. -/
def execSigIndexReserve (stored : Bool) (s : State) : Out :=
  if s.sec.left ≠ 0 || s.sec.limp || s.sec.retryIndex || s.mgmt.phase < 3 then .next s
  else
    let s1 := reserveIndex stored s
    .next ((owingEnds s1).foldl sendProof s1)

/-! ### Packets that arrive on a link (R412, R415, R416, R421, R422) -/

/-- A packet for another device leaves by its route with TTL lowered; at TTL 0 it is dropped with step 8 (R416). -/
def forwardPacket (s : State) (hub : Nat) (p : Packet) (sig : Bool) : State :=
  if hTtl p.1 = 0 then dropPacket s 8 p.1
  else sendPackets sendRounds s hub [(lowerTtl p, sig)]

/-- A packet taken at a hub: this device's own, or forwarded. -/
def arrive (s : State) (hub : Nat) (p : Packet) (sig : Bool) : State :=
  if hDst p.1 = s.net.gid then
    let o := takePacket s hub p sig
    sendAll o.1 hub o.2
  else forwardPacket s hub p sig

/-- The row of a packet type on a link: taken when the link is active; discarded and counted in quarantine (R412). -/
def linkPacket (ty l : Nat) (p : Packet) (sig : Bool) (s : State) : Out :=
  let x := linkOf s l
  if hType p.1 ≠ ty then .next s
  else if x.state = 3 then .next (bumpCounter s 5 1)
  else if x.state ≠ 4 then .next s
  else .next (arrive s (l / 6) p sig)

/-- WRITE (R328, R416, R421). -/
def execWrite (l : Nat) (header : List W64) (payload : List Byte) (sig : Bool) (s : State) : Out := linkPacket 0 l (header, payload) sig s
/-- READ_REQ (R328, R420, R421). -/
def execReadReq (l : Nat) (header : List W64) (payload : List Byte) (s : State) : Out := linkPacket 1 l (header, payload) false s
/-- READ_RESP (R420, R422). -/
def execReadResp (l : Nat) (header : List W64) (payload : List Byte) (s : State) : Out := linkPacket 2 l (header, payload) false s
/-- SIGNAL (R328, R389, R421). -/
def execSignal (l : Nat) (header : List W64) (payload : List Byte) (s : State) : Out := linkPacket 3 l (header, payload) false s
/-- ACK (R422). -/
def execAck (l : Nat) (header : List W64) (payload : List Byte) (s : State) : Out := linkPacket 4 l (header, payload) false s

/-- Bytes that a lost read leaves: zeros for a load (R422), a free byte for the house's own reads. -/
def missingBytes (c : Nat) (got : Table (List Byte)) (off n : Nat) : Table (List Byte) :=
  (upFrom off n).foldl (fun t k =>
    if t.any (fun kv => decide (kv.1 ≤ k) && decide (k < kv.1 + kv.2.length)) then t else tput [] t k [Config.lostByte c k]) got

/-- What waits for a read that is dropped goes on without its bytes (R422). -/
def loseRead (s : State) (t : Xfer) : State :=
  match t.kind with
  | 1 => { s with eng := { s.eng with copies := tmod none s.eng.copies t.owner.1 (fun c => c.map (fun c => { c with
      fetch := c.fetch.map (fun f => (tileSource s c).foldl (fun f x => if inRemote x.2.1 && (tget (0, []) f x.1).1 = 0 then tput (0, []) f x.1 (x.2.2, []) else f) f) })) } }
  | 2 | 3 => wakeReader s { t with step := 9 }
  | 5 => modXfer s t.owner.1 (fun o => { o with data := { o.data with
      fetch := o.data.fetch.map (fun f => (tileSource s o.data).foldl (fun f x => if inRemote x.2.1 && (tget (0, []) f x.1).1 = 0 then tput (0, []) f x.1 (x.2.2, []) else f) f) } })
  | 6 => modQueue s t.owner.1 (fun x => { x with cmds := x.cmds.map (fun c =>
      if c.asked && c.fin.isNone then { c with got := missingBytes t.ctx c.got t.owner.2 t.len } else c) })
  | _ => s

/-- ACK_TIMEOUT (R422): no ACK, or no complete response, within 2 ^ 16 cues drops the transfer with step 9. -/
def execAckTimeout (xfer : Nat) (s : State) : Out :=
  let t := xferOf s xfer
  if !t.used || !(t.waiting || t.get) || beat s < t.started + 65536 then .next s
  else
    let s1 := logDrop s 9 t.window s.net.gid t.gid t.epoch
    .next (endXfer (if t.get then loseRead s1 t else s1) xfer)

end Sys2Proof.Machine
end

