-- ==== Sys2Proof/Machine/Pod.lean ====
section
/-! DEFINITION. Pod time (R432–R435): TIME_ANNOUNCEMENT, ANNOUNCE, REPLY, LOCK_LOSS, POD_TIME_WRITE. Ethernet ports (R426–R431):
TENON_DATAGRAM, RETRANSMISSION, RDMA_WRITE, RDMA_READ_REQUEST, ARP_REQUEST, NEIGHBOR_SOLICITATION, ECHO_REQUEST, PAUSE. -/

namespace Sys2Proof.Machine

/-! ### TIME packets (R435) -/

/-- Payload of a TIME packet of this device. -/
def timePayload (s : State) (kind round : Nat) (ta tb : W64) : List Byte :=
  let has := s.net.master || s.net.upstream ≠ 0xFF
  leBytes 3 (if has then s.net.masterGid else s.net.gid) ++ leBytes 1 (if has then s.net.hops else 0) ++ leBytes 1 kind ++
    leBytes 1 ((if bit s.net.podCtl 63 then 1 else 0) + (if s.net.locked then 2 else 0)) ++ leBytes 2 0 ++
    leBytes 4 round ++ leBytes 4 0 ++ leBytes 8 ta.toNat ++ leBytes 8 tb.toNat ++ leBytes 8 0

/-- A TIME packet on a link: TTL 1, LENGTH 40, the partner's GID. -/
def timePacket (s : State) (l kind round : Nat) (ta tb : W64) : Packet :=
  (({ ty := 5, ttl := 1, dst := (linkOf s l).partner, src := s.net.gid, len := 40 } : Head).words, timePayload s kind round ta tb)

/-- One announcement on a link that sends time: t1 of a new round, and t4 of the round before. -/
def announceOn (now : W64) (s : State) (l : Nat) : State :=
  let x := linkOf s l
  if x.state ≠ 4 || x.timeRole ≠ 1 then s
  else
    let r := (x.round + 1) % 2 ^ 32
    modLink s l (fun x => { x with out := x.out ++ [timePacket s l 0 r now x.t4], round := r, t1 := now, t4 := 0 })

/-- TIME_ANNOUNCEMENT (R433, R435): at pod time `now` an ANNOUNCE leaves on each link that sends time. -/
def execTimeAnnouncement (now : W64) (s : State) : Out :=
  .next ((upFrom 0 48).foldl (announceOn now) { s with net := { s.net with podTime := now } })

/-- A signed value held in 16 bits. -/
def satSigned16 (x : Int) : Int := max (-32768) (min 32767 x)

/-- Offset of a round in ns (R434): ((t2 − t1) − (t4 − t3)) / 2 with the cable's asymmetry in ps, rounded toward zero. -/
def roundOffset (t1 t2 t3 t4 : W64) (asym : Int) : Int :=
  (((t2 - t1).toInt - (t4 - t3).toInt) * 1000 + asym).tdiv 2000

/-- An offset is applied (R434): more than 1 µs is stepped, less is slewed; LOCKED after 16 exchanges within 20 ns. -/
def applyOffset (s : State) (off : Int) : State :=
  let near := decide (off.natAbs ≤ 20)
  let good := if near then s.net.good + 1 else 0
  let n := { s.net with offset := satSigned16 off, good, locked := near && (s.net.locked || decide (16 ≤ good)) }
  { s with net :=
      if off.natAbs > 1000 then { n with podTime := n.podTime - BitVec.ofInt 64 off, stepped := true, slew := 0 }
      else { n with slew := -off } }

/-- A TIME packet of a kind that this device takes: on an active link, whole. -/
def timeDue (s : State) (l kind : Nat) (p : Packet) : Bool :=
  (linkOf s l).state == 4 && hType p.1 == 5 && decide (40 ≤ p.2.length) && (p.2.getD 4 0).toNat == kind

/-- A TIME packet that is discarded is counted on a quarantined link (R412). -/
def strayTime (s : State) (l : Nat) : State := if (linkOf s l).state = 3 then bumpCounter s 5 1 else s

def timeField (p : Packet) (off n : Nat) : Nat := leNat ((p.2.drop off).take n)

/-- ANNOUNCE (R433–R435): the master and upstream are chosen anew; from its upstream, the follower completes the round before
and answers with a REPLY. -/
def execAnnounce (l : Nat) (header : List W64) (payload : List Byte) (arrived departed : W64) (s : State) : Out :=
  let p : Packet := (header, payload)
  if !timeDue s l 0 p then .next (strayTime s l)
  else
    let flags := timeField p 5 1
    let s1 := resolvePod (modLink { s with net := { s.net with podTime := departed } } l (fun x => { x with
      heard := some (timeField p 0 3, timeField p 3 1, flags.testBit 0, flags.testBit 1) }))
    if (linkOf s1 l).timeRole ≠ 2 then .next s1
    else
      let x := linkOf s1 l
      let r := timeField p 8 4
      let t4 : W64 := BitVec.ofNat 64 (timeField p 24 8)
      let s2 := if t4 ≠ 0 && (x.round + 1) % 2 ^ 32 = r && x.t1 ≠ 0 then applyOffset s1 (roundOffset x.t1 x.t2 x.t3 t4 (linkAsym x.ctl)) else s1
      .next (modLink s2 l (fun x => { x with
        round := r, t1 := BitVec.ofNat 64 (timeField p 16 8), t2 := arrived, t3 := departed
        out := x.out ++ [timePacket s2 l 1 r departed arrived] }))

/-- REPLY (R435): the sender of time notes t4, with t2 and t3, for its round. -/
def execReply (l : Nat) (header : List W64) (payload : List Byte) (arrived : W64) (s : State) : Out :=
  let p : Packet := (header, payload)
  if !timeDue s l 1 p || (linkOf s l).timeRole ≠ 1 || (linkOf s l).round ≠ timeField p 8 4 then .next (strayTime s l)
  else .next (modLink s l (fun x => { x with
    t4 := arrived, t2 := BitVec.ofNat 64 (timeField p 24 8), t3 := BitVec.ofNat 64 (timeField p 16 8) }))

/-- LOCK_LOSS (R434): 1 ms without an exchange clears LOCKED. -/
def execLockLoss (s : State) : Out := .next { s with net := { s.net with locked := false, good := 0 } }

/-- A write of POD_TIME (R432): on the pod time master it steps the pod's time. -/
def writePodTime (s : State) (ns : W64) : State :=
  if s.net.master then { s with net := { s.net with podTime := ns, stepped := true } } else s

/-- POD_TIME_WRITE (R432): from the management Ethernet port only. -/
def execPodTimeWrite (path : Path) (ns : W64) (s : State) : Out :=
  match path with
  | .eth => .next (writePodTime s ns)
  | .port _ => .next s

/-! ### Datagrams of peers (R427, R428) -/

def ethOf (s : State) (port : Nat) : Eth := tget {} s.net.eth port
def ethWord (s : State) (port k : Nat) : W64 := wordAt (ethOf s port).words (k - 1)

/-- A frame leaves an Ethernet port for a MAC address. -/
def sendFrame (s : State) (port mac : Nat) (bs : List Byte) : State :=
  { s with net := { s.net with eth := tmod {} s.net.eth port (fun e => { e with out := e.out ++ [(mac, bs)] }) } }

/-- PSEQ of a datagram kept for retransmission. -/
def pseqOf (d : List W64 × List Byte) : Nat := bits (wordAt d.1 0) 63 32

/-- Bytes of a datagram with the present PACK. -/
def datagramBytes (x : Peer) (d : List W64 × List Byte) : List Byte :=
  wordBytes (setBits (wordAt d.1 0) 31 0 (x.rx + 2 ^ 32 - 1) :: d.1.drop 1) ++ d.2

/-- The cumulative acknowledgement PACK: datagrams up to it leave the window, and those that waited behind it are sent. -/
def takePack (s : State) (k pack : Nat) : State :=
  let x := peerOf s k
  -- unacknowledged PSEQs run from tx − length up to tx − 1
  let first := (x.tx + 2 ^ 32 - x.unacked.length % 2 ^ 32) % 2 ^ 32
  let n := (pack + 1 + 2 ^ 32 - first) % 2 ^ 32
  if n = 0 || n > x.unacked.length then s
  else
    let rest := x.unacked.drop n
    let s1 := modPeer s k (fun x => { x with unacked := rest, retries := 0 })
    ((rest.drop (256 - n)).take n).foldl (fun s d => sendFrame s (k / 1024) x.mac (datagramBytes x d)) s1

/-- TENON_DATAGRAM (R427, R428): the acknowledgement is taken; the expected datagram is acknowledged and its packet taken,
any other is acknowledged and discarded; before authentication only control messages pass. -/
def execTenonDatagram (port peer : Nat) (transport : W64) (packet : List W64) (payload : List Byte) (sig : Bool) (s : State) : Out :=
  let k := 1024 * port + peer
  let x := peerOf s k
  if !x.valid || (linkOf s port).state ≠ 6 then .next s
  else
    let s1 := takePack s k (bits transport 31 0)
    let want := bits transport 63 32 == x.rx
    let s2 := if want then modPeer s1 k (fun x => { x with rx := (x.rx + 1) % 2 ^ 32 }) else s1
    let y := peerOf s2 k
    let s3 := sendFrame s2 port y.mac (wordBytes [fld y.tx 32 32 ||| fld (y.rx + 2 ^ 32 - 1) 32 0])
    if !want || hType packet ≥ 5 then .next s3
    else if !x.auth then .next (dropPacket s3 8 packet)
    else .next (arrive s3 (port / 6) (packet, payload) sig)

/-- RETRANSMISSION (R428): the window is sent again; after 16 retransmissions of one datagram the peer is quarantined and
its packets are dropped with step 8. -/
def execRetransmission (port peer : Nat) (s : State) : Out :=
  let k := 1024 * port + peer
  let x := peerOf s k
  if !x.valid || x.unacked.isEmpty then .next s
  else if x.retries ≥ 16 then
    let s1 := quarantine s (48 + k) 0 false
    let s2 := x.unacked.foldl (fun s d => if hType (d.1.drop 1) < 5 then dropPacket s 8 (d.1.drop 1) else s) s1
    .next (modPeer s2 k (fun x => { x with unacked := [], retries := 0 }))
  else
    let s1 := modPeer s k (fun x => { x with retries := x.retries + 1 })
    .next ((x.unacked.take 256).foldl (fun s d => sendFrame s port x.mac (datagramBytes x d)) s1)

/-! ### RoCE (R429–R431) -/

def qpOf (s : State) (k : Nat) : Qp := tget {} s.net.qps k
def modQp (s : State) (k : Nat) (f : Qp → Qp) : State :=
  { s with net := { s.net with qps := tmod {} s.net.qps k f } }

/-- A reply of a queue pair: 0 ACK, 1 NAK Remote Access Error, 2 NAK Remote Operational Error, 3 READ response, 4 NAK PSN
sequence error, 5 CNP. -/
def qpReply (s : State) (k kind : Nat) (data : List Byte) : State := modQp s k (fun x => { x with out := x.out ++ [(kind, data)] })

/-- The queue pair of a port that a QPN names (R430): usable, its port up. -/
def qpFor (s : State) (port qpn : Nat) : Option Nat :=
  let k := 256 * port + (qpn - 0x100)
  if 0x100 ≤ qpn && qpn < 0x200 && (qpOf s k).valid && (linkOf s port).state = 6 then some k else none

/-- PMTU in bytes (R430). -/
def pmtuBytes (code : Nat) : Nat := 1024 * 2 ^ min code 2

/-- Window and epoch of an R_Key (R429). -/
def rkeyWindow (r : BitVec 32) : Nat := bits r 31 20
def rkeyEpoch (r : BitVec 32) : Nat := bits r 15 0

/-- A refused RoCE packet (R431): a NAK, the error state, and the drop in the log. -/
def qpError (s : State) (k kind step : Nat) (r : BitVec 32) : State :=
  let x := qpOf s k
  let s1 := modQp (qpReply s k kind []) k (fun x => { x with error := true })
  logDrop s1 step (rkeyWindow r) x.gid s.net.gid (rkeyEpoch r)

/-- Place of a PSN against the expected one: 0 expected, 1 earlier (a duplicate), 2 later (a gap). -/
def psnPlace (epsn psn : Nat) : Nat :=
  let d := (psn + 2 ^ 24 - epsn) % 2 ^ 24
  if d = 0 then 0 else if d ≥ 2 ^ 23 then 1 else 2

/-- A packet of a usable queue pair that carries ECN-CE is answered with a CNP (R429); `ce`: it does, more than 50 µs after
the pair's last CNP. -/
def congestion (s : State) (k : Nat) (ce : Bool) : State := if ce then qpReply s k 5 [] else s

/-- RDMA_WRITE (R328, R429, R431): one packet of a WRITE; `rkey` and `va` count in its first packet. -/
def execRdmaWrite (port qpn psn : Nat) (rkey : BitVec 32) (va : Nat) (first last ce : Bool) (payload : List Byte) (s0 : State) : Out :=
  match qpFor s0 port qpn with
  | none => .next s0
  | some k =>
    let s := congestion s0 k ce
    let x := qpOf s k
    if x.error then .next s
    else if psnPlace x.epsn psn = 1 then .next (qpReply s k 0 [])
    else if psnPlace x.epsn psn = 2 then .next (qpReply s k 4 [])
    else
      let r := if first then rkey else x.rkey
      let off := if first then va else x.next
      if bits r 19 16 ≠ 0 then .next (qpError s k 1 12 r)
      else match windowCheck s x.gid (rkeyWindow r) off payload.length (rkeyEpoch r) 0 with
        | .fails _ => .next (qpError s k 1 12 r)
        | .lands pas => match badPartial s pas with
          | some a => .next (logDrop (meetBad s (a / 32) []) 13 (rkeyWindow r) x.gid s.net.gid (rkeyEpoch r))
          | none =>
            let s1 := modQp (writePieces s pas payload) k (fun x => { x with
              epsn := (x.epsn + 1) % 2 ^ 24, next := off + payload.length, rkey := r })
            .next (if last then qpReply s1 k 0 [] else s1)

/-- RDMA_READ_REQUEST (R328, R429, R431): answered with responses of one PMTU each. -/
def execRdmaReadRequest (port qpn psn : Nat) (rkey : BitVec 32) (va len : Nat) (ce : Bool) (s0 : State) : Out :=
  match qpFor s0 port qpn with
  | none => .next s0
  | some k =>
    let s := congestion s0 k ce
    let x := qpOf s k
    if x.error then .next s
    else if psnPlace x.epsn psn = 2 then .next (qpReply s k 4 [])
    else if bits rkey 19 16 ≠ 0 then .next (qpError s k 1 12 rkey)
    else match windowCheck s x.gid (rkeyWindow rkey) va len (rkeyEpoch rkey) 1 with
      | .fails _ => .next (qpError s k 1 12 rkey)
      | .lands pas => match badPiece s pas with
        | some a => .next (qpError (meetBad s (a / 32) []) k 2 13 rkey)
        | none =>
          let data := readPieces s pas
          let unit := pmtuBytes x.pmtu
          let n := max 1 (ceilDiv len unit)
          let s1 := (upFrom 0 n).foldl (fun s i => qpReply s k 3 ((data.drop (unit * i)).take unit)) s
          .next (if psnPlace x.epsn psn = 0 then modQp s1 k (fun x => { x with epsn := (x.epsn + n) % 2 ^ 24 }) else s1)

/-! ### Answers of an Ethernet port (R426) -/

/-- The port's own addresses; 0: none. -/
def ownIpv6 (s : State) (port : Nat) : Nat := (ethWord s port 3).toNat * 2 ^ 64 + (ethWord s port 4).toNat
def ownIpv4 (s : State) (port : Nat) : Nat := bits (ethWord s port 5) 31 0
/-- The port's own MAC address. -/
def ownMac (s : State) (port : Nat) : Nat := bits (ethWord s port 2) 47 0

/-- ARP_REQUEST (R426): a request for the port's IPv4 address is answered with its MAC address. -/
def execArpRequest (port ip : Nat) (s : State) : Out :=
  if (linkOf s port).state ≠ 6 || ip = 0 || ip ≠ ownIpv4 s port then .next s
  else .next (sendFrame s port 0 (leBytes 6 (ownMac s port) ++ leBytes 4 ip))

/-- NEIGHBOR_SOLICITATION (R426): one for the port's IPv6 address is answered with its MAC address. -/
def execNeighborSolicitation (port ip : Nat) (s : State) : Out :=
  if (linkOf s port).state ≠ 6 || ip = 0 || ip ≠ ownIpv6 s port then .next s
  else .next (sendFrame s port 0 (leBytes 6 (ownMac s port) ++ leBytes 16 ip))

/-- ECHO_REQUEST (R426): an echo to the port's own address, IPv6 or IPv4-mapped, is answered with its data. -/
def execEchoRequest (port ip : Nat) (data : List Byte) (s : State) : Out :=
  let v4 := ownIpv4 s port
  if (linkOf s port).state ≠ 6 || ip = 0 || !(ip = ownIpv6 s port || (v4 ≠ 0 && ip = 0xFFFF * 2 ^ 32 + v4)) then .next s
  else .next (sendFrame s port 0 data)

/-- PAUSE (R426): a PAUSE or PFC frame stops transmission of a priority; a time of 0 lets it go on. -/
def execPause (port prio quanta : Nat) (s : State) : Out :=
  if (linkOf s port).state ≠ 6 then .next s
  else .next { s with net := { s.net with eth := tmod {} s.net.eth port (fun e => { e with
    paused := if quanta = 0 then (if e.paused.testBit prio then e.paused - 2 ^ prio else e.paused) else e.paused ||| 2 ^ prio }) } }

end Sys2Proof.Machine
end

