-- ==== Sys2Proof/Machine/Ports.lean ====
section
/-! DEFINITION. The host ports (R349–R369): the aperture table, BAR2 requests, AtomicOps, MSI-X vectors, completions of
device reads, link loss, hot reset and FLR. -/

namespace Sys2Proof.Machine

/-! ### Configuration space (R349, R350) -/

/-- What configuration space reports beside Trewemund's vendor identifier: device identifier, revision identifier of stepping A0, class
code; log2 of the size of BAR0; functions (R349, R350). -/
def configIdentity : List Nat := [0x0768, 0x00, 0x120000, 26, 1]

/-- The values of a port's configuration space that a host programs: BAR2 size (log2), Max Payload Size, Max Read Request Size, Bus
Master Enable, Function Mask (R349, R355). -/
def configOf (x : Port) : Nat × Nat × Nat × Bool × Bool := (x.bar2, x.mps, x.mrrs, x.busMaster, x.funcMask)

/-! ### The aperture table (R357–R359) -/

def apertureOf (x : Port) (e : Nat) : Aperture := tget {} x.apertures e

/-- Word 0 without its reserved bits (R7). -/
def apertureKept (w : W64) : W64 := w &&& 0xF00FFFFFFFFF0000

def apValid (a : Aperture) : Bool := bit a.w0 63
def apCtx (a : Aperture) : Nat := bits a.w0 51 40
/-- BAR2 offset of the range start. -/
def apStart (a : Aperture) : Nat := bits a.w0 39 16 * 65536
/-- Bytes of the range. -/
def apBytes (a : Aperture) : Nat := (bits a.w1 63 40 + 1) * 65536
/-- Virtual address of the range start. -/
def apVa (a : Aperture) : Nat := bits a.w1 38 0 * 65536

/-- The permissions that the entry's grants need of a page (R313, R358). -/
def apNeed (a : Aperture) : Need :=
  (if bit a.w0 62 then needRead else 0) ||| (if bit a.w0 61 then needWrite else 0) ||| (if bit a.w0 60 then needAtomic else 0)

/-- A write of word 0 starts an action, unless one is in progress; the entry is not valid meanwhile (R358). -/
def startAction (s : State) (p e : Nat) (value : W64) (install : Bool) : State :=
  let x := portOf s p
  if x.lost || x.apAction.isSome then s
  else setPort s p { x with
    apertures := tput {} x.apertures e { apertureOf x e with w0 := setBits (apertureKept value) 63 63 0 }
    apAction := some (e, if install then some value else none)
    apEntry := e }

/-- APERTURE_INSTALL (R358): a write of word 0 with VALID 1. -/
def execApertureInstall (port e : Nat) (value : W64) (s : State) : Out :=
  .next (if bit value 63 then startAction s port e value true else s)

/-- APERTURE_REMOVE (R358): a write of word 0 with VALID 0. -/
def execApertureRemove (port e : Nat) (value : W64) (s : State) : Out :=
  .next (if bit value 63 then s else startAction s port e value false)

/-- RESULT of an install (R358): the checks in the order 4, 1, 3, 2. -/
def installResult (s : State) (p e : Nat) (a : Aperture) : Nat :=
  let x := portOf s p
  let c := apCtx a
  if bits a.w0 59 52 ≠ 0 || bits a.w0 15 0 ≠ 0 || a.odd then 4
  else if c = 0 || (ctxOf s c).st != .live || (ctxOf s c).binding != p then 1
  else if apStart a + apBytes a > 2 ^ x.bar2 || x.apertures.any (fun kv => kv.1 != e && apValid kv.2 &&
      decide (apStart a < apStart kv.2 + apBytes kv.2) && decide (apStart kv.2 < apStart a + apBytes a)) then 3
  else if (pagesOf (apVa a) (apBytes a)).any (fun pg => match translate s c pg.1 (apNeed a) with
      | some pa => !cacheable pa
      | none => true) then 2
  else 0

/-- APERTURE_ACTION_END (R358): BUSY is cleared and RESULT set; an install that passes its checks makes the entry valid. -/
def execApertureActionEnd (port : Nat) (s : State) : Out :=
  let x := portOf s port
  match x.apAction with
  | none => .next s
  | some (_, none) => .next (setPort s port { x with apAction := none, apResult := 0 })
  | some (e, some w) =>
    let r := installResult s port e { apertureOf x e with w0 := w }
    .next (setPort s port { x with
      apAction := none, apResult := r
      apertures := tput {} x.apertures e { apertureOf x e with w0 := setBits (apertureKept w) 63 63 (if r = 0 then 1 else 0) } })

/-- BAR2_RESIZE (R349, R359): the size becomes 2 ^ log2 bytes, 1 GiB to 1 TiB; entries past it are removed. -/
def execBar2Resize (port log2 : Nat) (s : State) : Out :=
  let x := portOf s port
  if x.lost || log2 < 30 || log2 > 40 then .next s
  else .next (setPort s port { x with
    bar2 := log2
    apertures := tmap {} x.apertures (fun _ a => if apValid a && apStart a + apBytes a > 2 ^ log2 then {} else a) })

/-! ### MSI-X (R355) -/

/-- A vector that is pending and no longer masked sends its message, once per cue at most. -/
def sendPending (s : State) (p v : Nat) : State :=
  let e := msixOf (portOf s p) v
  if e.pend && !e.control.getLsbD 0 && !(portOf s p).funcMask then
    raiseVector (modPort s p (fun x => { x with msix := tmod {} x.msix v (fun e => { e with pend := false }) })) p v
  else s

/-- MSIX_UNMASK (R355): vector control is written; only its mask bit exists. -/
def execMsixUnmask (port vec : Nat) (control : BitVec 32) (s : State) : Out :=
  if (portOf s port).lost then .next s
  else .next (sendPending (modPort s port (fun x => { x with
    msix := tmod {} x.msix vec (fun e => { e with control := control &&& 1 }) })) port vec)

/-! ### BAR2 requests (R360, R361) -/

/-- A completion returned to the host. -/
def complete (s : State) (p status : Nat) (data : List Byte) : State :=
  modPort s p (fun x => { x with cpls := x.cpls ++ [{ status, data }] })

/-- How a BAR2 request ends: performed on these pieces for this context, or refused with a completion status, together
with the uncorrectable burst it met. -/
inductive Bar2 where
  | pass (pieces : List (Nat × Nat))
  | fail (status : Nat) (burst : Option Nat)
deriving DecidableEq, Repr

/-- The partition that owns the bay of an address is in NAP or OFF (R456). -/
def napAddr (s : State) (pa : Nat) : Bool :=
  match bayPart s (homeHub pa) with
  | some p => decide ((partOf s p).power ≥ 2)
  | none => false

/-- The checks of R360 in their order. `grant` is the entry's bit for the access, `need` the permissions of R313. -/
def checkBar2 (s : State) (p off n grant : Nat) (need : Need) : Bar2 :=
  let x := portOf s p
  if s.sec.limp then .fail 1 none
  else match x.apertures.find? (fun kv => apValid kv.2 && decide (apStart kv.2 ≤ off) && decide (off + n ≤ apStart kv.2 + apBytes kv.2)) with
  | none => .fail 1 none
  | some (_, a) =>
    if !bit a.w0 grant then .fail 1 none
    else
      let va := apVa a + (off - apStart a)
      let c := apCtx a
      if (pagesOf va n).any (fun pg => match translate s c pg.1 need with
          | some pa => !cacheable pa
          | none => true) then .fail 1 none
      else match resolve s c va n need with
        | .bad _ _ => .fail 2 none
        | .ok pas => if pas.any (fun x => napAddr s x.1) then .fail 2 none else .pass pas

/-- A BAR2 request is refused: it is counted and reported, and a read or AtomicOp gets its completion status (R360,
R365). -/
def refuseBar2 (s : State) (p status : Nat) (posted : Bool) : State :=
  let s1 := refuse s p status
  if posted then s1 else complete s1 p status []

/-- BAR2_READ (R360): performed as READ_ONCE. -/
def execBar2Read (port off len : Nat) (s : State) : Out :=
  if (portOf s port).lost then .next s
  else match checkBar2 s port off len 62 needRead with
  | .fail st _ => .next (refuseBar2 s port st false)
  | .pass pas => match badPiece s pas with
    | some a => .next (refuseBar2 (meetBad s (a / 32) []) port 2 false)
    | none => .next (complete s port 0 (readPieces s pas))

/-- BAR2_WRITE (R360): performed as WRITE_INV, or dropped; a poisoned write is dropped and counted wherever in BAR0 or BAR2 it
falls (R365). -/
def execBar2Write (port off : Nat) (data : List Byte) (poisoned : Bool) (s : State) : Out :=
  if (portOf s port).lost then .next s
  else if poisoned then .next (refuse s port 4)
  else match checkBar2 s port off data.length 61 needWrite with
  | .fail st _ => .next (refuseBar2 s port st true)
  | .pass pas => match badPartial s pas with
    | some a => .next (refuseBar2 (meetBad s (a / 32) []) port 2 true)
    | none => .next (writePieces s pas data)

/-- An AtomicOp that is misaligned, or a 128-bit CAS, is not supported (R361). -/
def atomicForm (off size : Nat) : Bool := (size == 4 || size == 8) && off % size == 0

/-- BAR2_ATOMICOP (R361): performed as HOME_ATOMIC; the old value is returned. -/
def execBar2AtomicOp (port off op size : Nat) (operand comparand : W64) (s : State) : Out :=
  if (portOf s port).lost then .next s
  else if !atomicForm off size then .next (refuseBar2 s port 1 false)
  else match checkBar2 s port off size 60 needAtomic with
  | .fail st _ => .next (refuseBar2 s port st false)
  | .pass pas => match badPiece s pas with
    | some a => .next (refuseBar2 (meetBad s (a / 32) []) port 2 false)
    | none =>
      let old := readPieces s pas
      let new := atomicOp op size (leNat old) operand.toNat comparand.toNat
      .next (complete (writePieces s pas (leBytes size new)) port 0 old)

/-- The object whose host count lies at a BAR0 offset (R351, R396). -/
def hostCountAt (off : Nat) : Option Nat :=
  if 0x2000000 ≤ off && off < 0x3000000 && off % 64 = 8 then some ((off - 0x2000000) / 64) else none

/-- A host AtomicOp may change the host count of the object (R396). -/
def hostMayCount (s : State) (p i : Nat) : Bool :=
  let o := objOf s i
  (o.state == 1 || o.state == 2) && o.binding == p

/-- BAR0_ATOMICOP (R361): only the 64-bit forms on a host count are performed; every other one returns 0, writes nothing
and counts in REFUSED. -/
def execBar0AtomicOp (port off op size : Nat) (operand comparand : W64) (s : State) : Out :=
  if (portOf s port).lost then .next s
  else if !atomicForm off size then .next (refuseBar2 s port 1 false)
  else
    let turnedAway := complete (bumpCounter (modPort s port (fun x => { x with refused := satTo 65535 (x.refused + 1) })) 4 1) port 0 (List.replicate size 0)
    match hostCountAt off with
    | none => .next turnedAway
    | some i =>
      if size ≠ 8 || !hostMayCount s port i then .next turnedAway
      else
        let old := (objOf s i).hostCount.toNat
        let s1 := modObj s i (fun o => { o with hostCount := BitVec.ofNat 64 (atomicOp op 8 old operand.toNat comparand.toNat) })
        .next (complete s1 port 0 (leBytes 8 old))

/-! ### Device reads of host memory (R364, R365) -/

def readTagged (s : State) (p tag : Nat) : Option HostRead := (portOf s p).reads.find? (fun r => r.tag == tag)

/-- A device read is over. -/
def dropRead (s : State) (p tag : Nat) : State := modPort s p (fun x => { x with reads := x.reads.filter (fun r => r.tag != tag) })

/-- A piece of the transfer tile in progress has arrived. -/
def landPiece (k : Nat) (bs : List Byte) (t : Transfer) : Transfer :=
  { t with fetch := t.fetch.map (fun f => tput (0, []) f k (bs.length, bs)) }

/-- Read data goes to the ring, mover, core, thread or command that asked for it. -/
def deliver (s : State) (r : HostRead) (bs : List Byte) : State :=
  match r.purpose with
  | .ring q k => formPackets ((queueOf s q).buffer.length + 2) (modQueue s q (fun x => { x with buffer := tput [] x.buffer k (leWords 8 bs) })) q
  | .tile (.sched t m) k =>
    { s with eng := { s.eng with mover := tmod none s.eng.mover (4 * t + m) (fun x => x.map (landPiece k bs)) } }
  | .tile (.cmd q) k => { s with eng := { s.eng with copies := tmod none s.eng.copies q (fun x => x.map (landPiece k bs)) } }
  | .tile (.run x) k => { s with net := { s.net with xfers := tmod {} s.net.xfers x (fun y => { y with data := landPiece k bs y.data }) } }
  | .core c => modCore s c (fun x => { x with arrived := some bs, waiting := false })
  | .gp t g n => gpArrive s t g n bs
  | .cmd q off => modQueue s q (fun x => { x with cmds := x.cmds.map (fun c =>
      if c.asked && c.fin.isNone then { c with got := tput [] c.got off bs } else c) })

/-- READ_COMPLETION (R364): a successful completion with all the bytes asked for, while the link is not held. -/
def execReadCompletion (port tag : Nat) (data : List Byte) (s : State) : Out :=
  match readTagged s port tag with
  | none => .next s
  | some r => if data.length ≠ r.len || (portOf s port).holding then .next s else .next (deliver (dropRead s port tag) r data)

/-- The requesting context of a failed read is lost with HOST_PORT_RESET (R365); a command of a house queue carries the same
status; a read for the house itself brings nothing. -/
def loseRequester (s : State) (p code : Nat) (r : HostRead) : State :=
  match r.purpose with
  | .cmd q _ =>
    match (queueOf s q).cmds.find? (fun c => c.asked && c.fin.isNone) with
    | some cm => faultCommand s q cm r.ctx stPort (portCause p code).toNat
    | none => s
  | _ => houseLossNow s r.ctx stPort (portCause p code)

/-- COMPLETION_TIMEOUT (R365): the read is issued once again; a second timeout loses its context. -/
def execCompletionTimeout (port tag : Nat) (s : State) : Out :=
  match readTagged s port tag with
  | none => .next s
  | some r =>
    let s1 := modPort s port (fun x => { x with aer := x.aer ++ [3] })
    if !r.again then
      .next (modPort s1 port (fun x => { x with reads := x.reads.filter (fun y => y.tag != tag) ++ [{ r with again := true }] }))
    else .next (loseRequester (dropRead s1 port tag) port 4 r)

/-- POISONED_COMPLETION (R365): the data is discarded and the requesting context lost. -/
def execPoisonedCompletion (port tag : Nat) (s : State) : Out :=
  match readTagged s port tag with
  | none => .next s
  | some r =>
    .next (loseRequester (dropRead (modPort s port (fun x => { x with aer := x.aer ++ [4] })) port tag) port 5 r)

/-- MALFORMED_TLP (R365): dropped, and reported fatal. -/
def execMalformedTlp (port : Nat) (s : State) : Out :=
  if (portOf s port).lost then .next s else .next (modPort s port (fun x => { x with aer := x.aer ++ [5] }))

/-- RECEIVER_ERROR (R365): PCIe retries, and a correctable error is reported. -/
def execReceiverError (port : Nat) (s : State) : Out :=
  if (portOf s port).lost then .next s else .next (modPort s port (fun x => { x with aer := x.aer ++ [0] }))

/-! ### Link loss, hot reset and FLR (R367, R368) -/

/-- A port in DL_Active with Bus Master Enable set: held writes are issued in order ahead of any new write, and a port
that was silenced may write again. -/
def enablePort (x : Port) : Port :=
  if !(x.linkUp && x.busMaster) || x.lost then x
  else if x.holding then
    { x with holding := false, cuesHeld := 0, out := x.out ++ x.held, held := [], events := x.events ||| 2, silent := false }
  else { x with silent := false }

/-- LINK_DOWN (R367): the port leaves DL_Active, or its Bus Master Enable is cleared; its writes are held from then on. -/
def execLinkDown (port : Nat) (bmeCleared : Bool) (s : State) : Out :=
  let x := portOf s port
  let due := if bmeCleared then x.busMaster else x.linkUp
  if x.lost || !due then .next s
  else
    let y := if bmeCleared then { x with busMaster := false } else { x with linkUp := false, gen := 0, width := 0 }
    .next (setPort s port { y with events := y.events ||| 1, holding := true, cuesHeld := if x.holding then x.cuesHeld else 0 })

/-- LINK_RETURNED (R367, R368): the port is in DL_Active, at a rate and width. -/
def execLinkReturned (port gen lanes : Nat) (s : State) : Out :=
  let x := portOf s port
  if x.lost || x.linkUp then .next s
  else .next (setPort s port (enablePort { x with linkUp := true, gen, width := lanes }))

/-- BUS_MASTER_ENABLE_SET (R368). -/
def execBusMasterEnableSet (port : Nat) (s : State) : Out :=
  let x := portOf s port
  if x.lost then .next s else .next (setPort s port (enablePort { x with busMaster := true }))

/-- HOLD_LIMIT (R367 item 6): at the boundary at which CUES_HELD reaches 65,536. -/
def execHoldLimit (port : Nat) (s : State) : Out :=
  let x := portOf s port
  if !x.holding || x.cuesHeld < 65536 then .next s else .next (resetPort s port 0 3 (s.clk.cue - 1) false)

/-- HOT_RESET (R368). -/
def execHotReset (port : Nat) (s : State) : Out :=
  if (portOf s port).lost then .next s else .next (resetPort s port 1 2 s.clk.cue true)

/-- FLR (R368). -/
def execFlr (port : Nat) (s : State) : Out :=
  if (portOf s port).lost then .next s else .next (resetPort s port 2 2 s.clk.cue true)

end Sys2Proof.Machine
end

