-- ==== Sys2Proof/Machine/Stacks.lean ====
section
/-! DEFINITION. The M-stacks: the check code (R287, R288), dark periods, scrub and row repair (R294–R301), lanes (R289,
R290), uncorrectable bursts and stack failures (R302–R304), and the page-table walk into the translation caches
(R317–R319). -/

namespace Sys2Proof.Machine

/-! ### The check code (R287, R288) -/

/-- Remainder mod P of the polynomial whose coefficient of x^n is bit n, over bits below `n` (R287). -/
def codeRem (w : BitVec 288) : Nat → Nat
  | 0 => 0
  | n + 1 =>
    -- Horner from the top bit: the bits below `n + 1` weigh x^0 … x^n
    let low := codeRem w n
    if w.getLsbD n then low ^^^ crcLeft 0x1EDC6F41 32 n 1 else low

/-- The syndrome of a burst (R287). -/
def syndrome (w : BitVec 288) : Nat := codeRem w 288

/-- The syndromes of single-bit errors, by bit of the codeword. -/
def bitSyndromes : List (Nat × Nat) := (upFrom 0 288).map (fun n => (n, crcLeft 0x1EDC6F41 32 n 1))

/-- Lane positions of the one or two bit errors that explain a syndrome (R288). -/
def errorLanes (syn : Nat) : Option (List Nat) :=
  match bitSyndromes.find? (fun x => x.2 == syn) with
  | some x => some [x.1 / 32]
  | none => bitSyndromes.findSome? (fun x =>
      (bitSyndromes.find? (fun y => decide (x.1 < y.1) && (x.2 ^^^ y.2) == syn)).map (fun y => [x.1 / 32, y.1 / 32]))

/-- Decoding of a burst of a channel with these lanes marked: the positions of corrected bits, or none where the burst
enters the retry flow (R288). -/
def decodeBurst (marked : Nat) (w : BitVec 288) : Option (List Nat) :=
  match bitList marked 9 with
  | [] => if syndrome w = 0 then some [] else errorLanes (syndrome w)
  | [_] => some []
  | _ => none

/-! ### Addresses (R281, R282) -/

/-- Row number of an address in its stack: channel × 2^18 + bank × 2^14 + layer × 2^10 + row. -/
def rowOf (pa : Nat) : Nat :=
  let o := pa % stackBytes
  o / 2 ^ 7 % 256 * 2 ^ 18 + o / 2 ^ 15 % 16 * 2 ^ 14 + o / 2 ^ 32 % 16 * 2 ^ 10 + o / 2 ^ 22 % 1024

/-- Column, and burst within the line. -/
def colOf (pa : Nat) : Nat := pa % stackBytes / 2 ^ 19 % 8
def burstOf (pa : Nat) : Nat := pa / 32 % 4

/-- Stack, channel, layer, bank and row, as health events give them (R492). -/
def rowDetail (k row : Nat) : List Nat := [k, row / 2 ^ 18, row / 2 ^ 10 % 16, row / 2 ^ 14 % 16, row % 1024]

/-- Offset in the stack of line `n` of a channel in ascending order (R297). -/
def scrubOffset (ch n : Nat) : Nat := n / 16 * 2 ^ 19 + n % 16 * 2 ^ 15 + ch * 2 ^ 7

/-! ### Lanes (R289, R290) -/

/-- Codeword position that a lane carries: data and check lanes that the spare replaces carry none (R287, R292). -/
def laneCarries (c : Channel) (lane : Nat) : Option Nat :=
  if lane = 9 then c.spared else if c.spared = some lane then none else some lane

/-- Lanes that a test finds failing are marked (R290). -/
def markTested (s : State) (k ch lanes : Nat) : State :=
  (bitList lanes 10).foldl (fun s l => match laneCarries (chanOf s k ch) l with
    | some x => markLane s k ch x
    | none => s) s

/-! ### Row repair (R299–R301) -/

/-- A row has gone bad: it takes a soft spare of its bank and layer, or is deferred (R300, R301). -/
def rowBad (s : State) (k row : Nat) (col : Nat) : State :=
  let x := stackOf s k
  let ch := row / 2 ^ 18
  let key := row / 2 ^ 10
  let used := tget 0 x.spares key
  if x.deferred.contains row || (chanOf s k ch).copies.any (fun c => c.1 == row % 2 ^ 18) then s
  else
    let s1 := addEvent s 0x06 (stackDie k) (rowDetail k row ++ [col])
    if used < 32 then
      modChan (modStack s1 k (fun x => { x with
        soft := x.soft + 1, remapped := if x.remapped.contains row then x.remapped else x.remapped ++ [row]
        spares := tput 0 x.spares key (used + 1) })) k ch (fun c => { c with copies := c.copies ++ [(row % 2 ^ 18, 0)] })
    else modStack s1 k (fun x => { x with deferred := x.deferred ++ [row] })

/-- A read of a row needed corrections: four in one house cycle make the row bad (R288, R289, R299). -/
def countCorrections (s : State) (pa : Nat) (lanes : List Nat) : State :=
  let k := pa / stackBytes
  let row := rowOf pa
  if lanes.isEmpty then s
  else
    let s1 := modChan s k (row / 2 ^ 18) (fun c => { c with
      corrections := lanes.foldl (fun t l => tmod 0 t l (fun n => n + 1)) c.corrections })
    let n := tget 0 (stackOf s1 k).rowCorr row + 1
    let s2 := modStack s1 k (fun x => { x with rowCorr := tput 0 x.rowCorr row n })
    if n = 4 then rowBad s2 k row (colOf pa) else s2

/-- Bursts of a line that a read without a requester cannot decode: the house will act on them, unless a dirty copy of the
line will replace them (R297, R300, R303). -/
def meetLine (s : State) (line : Nat) : State :=
  if llmDirty s line || (dirtyLine s line).isSome then s
  else ((upFrom (4 * line) 4).filter (fun b => tget false s.mem.bad b)).foldl (fun s b => meetBad s b []) s

/-- A burst is declared uncorrectable (R290 step 5, R302): its row is bad, and the house will act. While its line is dirty
elsewhere only scrub reads it, and nothing is lost (R303). -/
def declareBad (s : State) (pa : Nat) : State :=
  let k := pa / stackBytes
  let s1 := { s with mem := { s.mem with bad := tput false s.mem.bad (pa / 32) true } }
  let s2 := if llmDirty s (pa / 128) || (dirtyLine s (pa / 128)).isSome then s1 else meetBad s1 (pa / 32) []
  let s3 := addEvent s2 0x05 (stackDie k) (rowDetail k (rowOf pa) ++ [colOf pa, burstOf pa])
  rowBad s3 k (rowOf pa) (colOf pa)

/-- A burst is delivered; corrected bits are counted per lane, per row and in the health record (R288, R491). -/
def deliverBurst (s : State) (pa : Nat) (lanes : List Nat) : State :=
  if lanes.isEmpty then s else countCorrections (bumpCounter s 2 1) pa lanes

/-- BURST_RETRY (R288, R290): a burst as it is first received; where it does not decode, the reread, the lane test in
window 110 of the channel's next dark period, and the last read. A burst that its reread delivers is a transfer error, which
counts once in the health record (log 73). -/
def execBurstRetry (pa : Nat) (first reread : BitVec 288) (lanes : Nat) (again : BitVec 288) (s : State) : Out :=
  let k := pa / stackBytes
  let ch := rowOf pa / 2 ^ 18
  if !inStack pa || (stackOf s k).state ≠ 1 then .next s
  else match decodeBurst (chanOf s k ch).marked first with
  | some fixed => .next (deliverBurst s pa fixed)
  | none => match decodeBurst (chanOf s k ch).marked reread with
  | some fixed => .next (countCorrections (bumpCounter s 2 1) pa fixed)
  | none =>
    let s1 := modChan (markTested s k ch lanes) k ch (fun c => { c with testDue := true })
    let marked := (chanOf s1 k ch).marked
    match if marked = (chanOf s k ch).marked then none else decodeBurst marked again with
    | some fixed => .next (deliverBurst s1 pa fixed)
    | none => .next (declareBad s1 pa)

/-! ### Dark periods (R50, R51, R294–R297) -/

/-- The channel has a dark window in this cue without being forced: the hub's entry in force is dark for it, its partition idles, or its
controller serves no running order and the last dark period is 8 cues ago (R50, R296). -/
def darkDue (s : State) (k ch : Nat) : Bool :=
  let c := chanOf s k ch
  let paced := s.clk.stopped || decide (s.clk.cue ≥ c.darkAt + 8)
  match bayPart s (k / 2) with
  | none => paced
  | some p =>
    if !partCues s p then paced
    else
      let o := (partOf s p).order
      decide (c.darkAt < s.clk.cue) && (o.kind == .idle || (o.kind == .advance && o.live && !o.under && entryDark s (72 + k / 2) o.pos ch))

/-- The channel is dark in a hold cue because it has gone 8 cues without a dark period (R51). -/
def forcedDue (s : State) (k ch : Nat) : Bool :=
  match bayPart s (k / 2) with
  | none => false
  | some p => partCues s p && (partOf s p).order.kind == .hold && decide (s.clk.cue ≥ (chanOf s k ch).darkAt + 8)

/-- A line of a channel is scrubbed (R297). -/
def scrubLine (s : State) (k ch n : Nat) : State := meetLine s ((k * stackBytes + scrubOffset ch n) / 128)

/-- Line `n` of a row, given as bank × 2^14 + layer × 2^10 + row, is read for its copy (R282, R300). -/
def copyLine (s : State) (k ch row n : Nat) : State :=
  meetLine s ((k * stackBytes + row / 2 ^ 10 % 16 * 2 ^ 32 + row % 1024 * 2 ^ 22 + n * 2 ^ 19 + row / 2 ^ 14 * 2 ^ 15 + ch * 2 ^ 7) / 128)

/-- Window 110: the first due of a lane test, two lines of a row copy, and two lines of scrub (R294, R300). -/
def window110 (s : State) (k ch lanes : Nat) : State :=
  let c := chanOf s k ch
  if c.testDue then modChan (markTested s k ch lanes) k ch (fun c => { c with testDue := false })
  else match c.copies with
  | (row, n) :: rest => modChan (copyLine (copyLine s k ch row n) k ch row (n + 1)) k ch (fun c => { c with
      copies := if n + 2 ≥ 8 then rest else (row, n + 2) :: rest })
  | [] =>
    let s1 := scrubLine (scrubLine s k ch c.scrub) k ch (c.scrub + 1)
    modChan s1 k ch (fun c => { c with scrub := (c.scrub + 2) % 1572864 })

/-- A dark period: two internal rows are refreshed, the sweep counter advances, and window 110 is used (R294, R295). -/
def darkPeriod (s : State) (k ch lanes : Nat) : State :=
  let s1 := modChan s k ch (fun c => { c with sweep := (c.sweep + 1) % 531, darkAt := s.clk.cue })
  window110 s1 k ch lanes

/-- DARK_PERIOD (R294). -/
def execDarkPeriod (stack ch lanes : Nat) (s : State) : Out :=
  if (stackOf s stack).state ≠ 1 || !hubIsUp s (stack / 2) || !darkDue s stack ch then .next s
  else .next (darkPeriod s stack ch lanes)

/-- FORCED_DARK (R51). -/
def execForcedDark (stack ch lanes : Nat) (s : State) : Out :=
  if (stackOf s stack).state ≠ 1 || !hubIsUp s (stack / 2) || !forcedDue s stack ch then .next s
  else .next (darkPeriod s stack ch lanes)

/-! ### Uncorrectable bursts and stack failures (R303, R304) -/

/-- UNCORRECTABLE_BURST (R303): the house acts at a boundary on the owner of the burst's granule and on every context whose
request got no data. -/
def execUncorrectableBurst (pa : Nat) (s : State) : Out :=
  let b := pa / 32
  let due := s.mem.badDue.filter (fun x => x.1 == b)
  if due.isEmpty then .next s
  else
    let addr := BitVec.ofNat 64 (32 * b)
    let s1 := { s with mem := { s.mem with badDue := s.mem.badDue.filter (fun x => x.1 != b) } }
    let s2 := (due.flatMap (fun x => x.2)).foldl (fun s x =>
      raise s x.1 { valid := true, status := stMemory, cause := 0, agent := x.2, cue := s.clk.cue - 1, address := addr, whereAt := 0 }) s1
    .next (loseOwnerIn s2 (32 * b) stMemory addr (s.clk.cue - 1))

/-- LANE_LOSS_OF_LOCK (R289, R304): the lane is marked at once; more than 16 channels of a stack at once fail it. -/
def execLaneLossOfLock (stack ch lane : Nat) (s : State) : Out :=
  let x := stackOf s stack
  if x.state ≠ 1 then .next s
  else
    let old := if x.lockCue = s.clk.cue then x.lock else []
    let now := if old.contains ch then old else ch :: old
    let s1 := modStack s stack (fun x => { x with lock := now, lockCue := s.clk.cue })
    let s2 := match laneCarries (chanOf s1 stack ch) lane with
      | some l => markLane s1 stack ch l
      | none => s1
    .next (if now.length > 16 then modStack s2 stack (fun x => { x with lost := some (x.lost.getD 3) }) else s2)

/-- STACK_FAILURE (R304): at the boundary after a failure; a stack whose failure nothing has shown has lost its supply. -/
def execStackFailure (stack : Nat) (s : State) : Out :=
  .next (stackFails s stack ((stackOf s stack).lost.getD 4) (s.clk.cue - 1))

/-! ### Walks (R317–R319) -/

/-- Entries that a translation cache holds (R317, R332): those of engine units and of the L2s of the cores by agent number, of the
receive sides of the hubs, of the tile walkers for leaves, of the tile walkers for pointers, and of the L1s of the cores. -/
def tlbRoom (n : Nat) : Nat :=
  if n < 2016 then
    let u := n % 28
    if u < 4 then 0 else if u < 8 then 128 else if u < 24 then 64 else 256
  else if n < 2144 then 2048 else if n < 2152 then 4096 else if n < 2224 then 2048 else if n < 2296 then 512 else 64

/-- The entries that a walk reads, with their levels, from the root down (R309). -/
def walkEntries (s : State) (root va : Nat) : List (Nat × W64) :=
  let e3 := readWord s (root + 8 * (va / 2 ^ 42))
  let e2 := readWord s (entryPa e3 + 8 * (va / 2 ^ 29 % 8192))
  if bit e2 62 then [(3, e3), (2, e2)]
  else [(3, e3), (2, e2), (1, readWord s (entryPa e2 + 8 * (va / 2 ^ 16 % 8192)))]

/-- An entry enters a cache, the least recently used leaving (R317). -/
def cacheEntry (c va n : Nat) (tlb : List Tlb) (x : Nat × W64) : List Tlb :=
  let e : Tlb := { stream := n, ctx := c, level := x.1, page := va / 2 ^ (3 + 13 * x.1), word := x.2 }
  let mine := e :: tlb.filter (fun y => y.stream == n && !(y.ctx == c && y.level == e.level && y.page == e.page))
  mine.take (tlbRoom n) ++ tlb.filter (fun y => y.stream != n)

/-- Where a stream's walk puts the entries it read: the leaf into the stream's cache; of an engine unit also the leaf and the pointers
into its tile's walker; of a core every level into both its caches (R317). -/
def cachesOf (stream : Nat) (es : List (Nat × W64)) : List (Nat × List (Nat × W64)) :=
  let leaf := es.drop (es.length - 1)
  if stream < 2016 then
    [(2152 + stream / 28, leaf), (2224 + stream / 28, es.dropLast), (stream, leaf)]
  else if stream < 2144 then [(stream, es), (2296 + (stream - 2016), es)]
  else [(stream, leaf)]

/-- TABLE_WALK (R318): the entries of a walk enter the caches of its stream; a walk that meets an entry that is not valid installs
nothing, and the access that needs it faults (R319, R330). -/
def execTableWalk (stream c va : Nat) (s : State) : Out :=
  if c = 0 || !ctxLive s c || tlbRoom stream = 0 || (walk s (ctxOf s c).root va).isNone then .next s
  else
    let put := cachesOf stream (walkEntries s (ctxOf s c).root va)
    .next { s with mem := { s.mem with tlb := put.foldl (fun t x => x.2.foldl (cacheEntry c va x.1) t) s.mem.tlb } }

end Sys2Proof.Machine
end

