-- ==== Sys2Proof/Machine/Resets.lean ====
section
/-! DEFINITION. The panel and the resets: flit retry and truss failures (R21–R31), the FOH pair (R34, R494), the
partition reset (R19, R119, R258, R260, R293, R301, R482, R483), and the cold and device resets (R461, R495–R498). -/

namespace Sys2Proof.Machine

/-! ### Truss links (R21–R29) -/

/-- The link numbers of R21. -/
def isTruss (l : Nat) : Bool := decide (l < 84) || (decide (88 ≤ l) && decide (l < 176))

/-- Die that a health event names for a truss link (R492): the position, FOH or hub at its lower end. -/
def trussDie (l : Nat) : Nat :=
  if l < 80 then l else if l < 84 then fohDie ((l - 80) / 2) else if l < 96 then hubDie (l - 88) else l - 96

/-- CRC-32C of a flit, over its 128 bytes and its sequence number (R22). -/
def flitCrc (seq : BitVec 8) (data : BitVec 1024) : BitVec 32 := BitVec.ofNat 32 (crcOf 0 (leBytes 128 data.toNat ++ [seq]))

/-- The sender's turn: the next flit of its replay buffer, or a new one of these bytes; nothing while the buffer is full
(R23). -/
def sendFlit (f : Flits) (data : BitVec 1024) : Flits × Option (BitVec 8 × BitVec 1024) :=
  match f.replay[f.cursor]? with
  | some x => ({ f with cursor := f.cursor + 1 }, some x)
  | none =>
    if f.replay.length ≥ 64 then (f, none)
    else ({ f with send := f.send + 1, replay := f.replay ++ [(f.send, data)], cursor := f.replay.length + 1 }, some (f.send, data))

/-- The receiver's turn: a flit with a good CRC and the expected number is accepted; any other is discarded, and so is
every flit behind it until the first bad one is resent (R22, R23). Only a CRC error counts as an errored flit (R24). -/
def takeFlit (f : Flits) (seq : BitVec 8) (data : BitVec 1024) (crc : BitVec 32) : Flits :=
  if crc ≠ flitCrc seq data then { f with errored := f.errored + 1, discard := true }
  else if seq ≠ f.expect then { f with discard := true }
  else { f with expect := f.expect + 1, discard := false, retries := 0 }

/-- What the receiver reports reaches the sender: accepted flits leave the replay buffer, and while the receiver discards,
the sender goes back to the first bad flit (R23). -/
def answerFlits (f : Flits) : Flits :=
  let rest := f.replay.dropWhile (fun x => x.1 != f.expect)
  if f.discard then
    { f with replay := rest, cursor := 0, bad := f.expect, retries := if f.retries > 0 && f.bad = f.expect then f.retries + 1 else 1 }
  else { f with replay := rest, cursor := f.cursor - (f.replay.length - rest.length) }

/-- One flit time of a direction: the flit sent arrives with the wire errors `err` (bytes, then number, then CRC); `back`: what
the receiver reports has come back to the sender. The flags: a flit was accepted after a retry; one retried 16 times in
succession was not (R24 case 1). -/
def flitTime (f : Flits) (data : BitVec 1024) (err : BitVec 1064) (back : Bool) : Flits × Bool × Bool :=
  let (f1, sent) := sendFlit f data
  let f2 := match sent with
    | some (seq, d) => takeFlit f1 (seq ^^^ err.extractLsb' 1024 8) (d ^^^ err.extractLsb' 0 1024) (flitCrc seq d ^^^ err.extractLsb' 1032 32)
    | none => f1
  let again := f1.retries > 0 && sent.any (fun x => x.1 == f1.bad)
  (if back then answerFlits f2 else f2, again && f2.expect != f1.expect, again && f2.expect == f1.expect && decide (f1.retries ≥ 16))

/-- FLIT_RETRY (R22–R24): a flit crosses a direction of a link, with go-back-N retry; one flit retried 16 times in succession fails
its link. -/
def execFlitRetry (link dir : Nat) (data : BitVec 1024) (err : BitVec 1064) (back : Bool) (s : State) : Out :=
  if !isTruss link || (trussOf s link).failed then .next s
  else
    let r := flitTime (if dir = 0 then (trussOf s link).a else (trussOf s link).b) data err back
    let s1 := modTruss s link (fun x => if dir = 0 then { x with a := r.1 } else { x with b := r.1 })
    let s2 := if r.2.1 then bumpCounter s1 0 1 else s1
    .next (if r.2.2 then declareTruss s2 link 1 else s2)

/-- The two joists of a position (R21). -/
def joistsOf (pos : Nat) : List Nat := [96 + pos, 96 + (pos + 79) % 80]

/-- Both joists of a position have failed, neither being parked (R26). -/
def joistsGone (s : State) (pos : Nat) : Bool := (joistsOf pos).all (fun l => (trussOf s l).failed && joistLive s l)

/-- The failure of an FOH (R34, R494): the survivor becomes primary and takes every step of R368 for the lost port at
once. Commands it had forwarded are in its own house queue and go on there. -/
def fohFails (s : State) (f : Nat) : State :=
  if !fohIsUp s f || !fohIsUp s (1 - f) then s
  else
    let s1 := resetPort s f 3 3 s.clk.cue false
    let s2 := modPort s1 f (fun x => { x with
      events := x.events ||| 1, linkUp := false, gen := 0, width := 0, busMaster := false, holding := false, lost := true })
    let s3 := { s2 with
      panel := { s2.panel with fohFailed := tput false s2.panel.fohFailed f true, primary := 1 - f }
      sec := { s2.sec with left := 0, sigCopy := terase s2.sec.sigCopy f, seqCopy := terase s2.sec.seqCopy f }
      mgmt := { s2.mgmt with forwarded := [] } }
    addEvent (bumpCounter s3 7 1) 0x0A (fohDie f) [f]

/-- What the failure of a truss link does (R26). -/
def linkEffect (s : State) (l : Nat) : State :=
  if l < 80 then tileGoesOut s l l
  else if l < 84 then
    let f := (l - 80) / 2
    if (trussOf s (80 + 2 * f)).failed && (trussOf s (81 + 2 * f)).failed then fohFails s f else s
  else if l < 96 then
    let r := l - 88
    let s1 := loseFor s (ridgeDependents s r) (lostLink l)
    let s2 := if (trussOf s1 (88 + (r + 7) % 8)).failed then hubFails s1 r else s1
    if (trussOf s2 (88 + (r + 1) % 8)).failed then hubFails s2 ((r + 1) % 8) else s2
  else if !joistLive s l then s
  else
    let e := joistEnds (l - 96)
    let s1 := loseFor s (joistDependents s l) (lostLink l)
    let s2 := if joistsGone s1 e.1 then tileGoesOut s1 e.1 l else s1
    if joistsGone s2 e.2 then tileGoesOut s2 e.2 l else s2

/-- TRUSS_LINK_FAILURE (R26): a declared failure takes effect. -/
def execTrussLinkFailure (link : Nat) (s : State) : Out :=
  let x := trussOf s link
  if !x.failed || !x.pending then .next s
  else .next (linkEffect (modTruss s link (fun x => { x with pending := false })) link)

/-- TILE_OUT_OF_SERVICE (R27). -/
def execTileOutOfService (pos : Nat) (s : State) : Out :=
  .next (tileGoesOut s pos (if (trussOf s pos).failed then pos else 0xFF))

/-- HUB_FAILURE (R31). -/
def execHubFailure (h : Nat) (s : State) : Out := .next (hubFails s h)

/-- FOH_FAILOVER (R34, R452): an FOH whose heartbeat was missed 16 times in succession, or that tripped, is declared failed. Of
one whose heartbeat is still carried, the row is the failure of the die: from then on it sends no heartbeat (log 107). -/
def execFohFailover (f : Nat) (s : State) : Out :=
  if tget 0 s.panel.missed f ≥ 16 || (dieOf s (fohDie f)).unpowered then .next (fohFails s f)
  else .next (modDie s (fohDie f) (fun d => { d with failed := true }))

/-- MIRROR_LINK_DOWN (R34): mirroring and heartbeats use the truss from then on. -/
def execMirrorLinkDown (s : State) : Out := .next { s with panel := { s.panel with mirrorDown := true } }

/-- MODULE_PART_FAULT (R36, R491). -/
def execModulePartFault (part : Nat) (s : State) : Out :=
  .next { s with panel := { s.panel with partFaults := s.panel.partFaults ||| 2 ^ part } }

/-- KIND of a training record: brace, FOH brace, ridge, joist (R28). -/
def linkKind (l : Nat) : Nat := if l < 80 then 0 else if l < 84 then 1 else if l < 96 then 2 else 3

/-- Data wires per direction of a link (R21). -/
def linkWidth (l : Nat) : Nat := if l < 96 then 1024 else 512

/-- The training record of a link at an epoch (R28). -/
def trainingRecord (l epoch : Nat) : W64 := fld epoch 16 48 ||| fld (linkWidth l) 12 36 ||| fld (linkKind l) 2 34 ||| fld l 8 24

/-- The house gives both ends the link's record, at a new epoch if `up`; an end that the house does not reach keeps its old
one: code 4 the first end, 5 the second (R28–R30). -/
def setEnds (code l : Nat) (up : Bool) (x : Truss) : Truss :=
  let epoch := if up then (x.epoch + 1) % 65536 else x.epoch
  { x with
    epoch
    endA := if code = 4 then x.endA else trainingRecord l epoch
    endB := if code = 5 then x.endB else trainingRecord l epoch }

/-- What a training finds: a deskew failure (code 3); otherwise the ends compare KIND, LINK, WIDTH and EPOCH (R29). -/
def trainCase (code l : Nat) (x : Truss) : Nat :=
  if code = 3 then 3
  else if x.endA ≠ x.endB || bits x.endA 47 36 ≠ linkWidth l then 4
  else 0

/-- A truss link trains (R28, R29): numbering begins afresh, the counts of the house cycle go on, a link that does not come up is
held down. -/
def trainTruss (tr : Training) (up : Bool) (s : State) (l : Nat) : State :=
  let code := ((tr.links.find? (fun x => x.1 == l)).map (fun x => x.2)).getD 0
  let s1 := modTruss s l (fun x =>
    let y := setEnds code l up x
    let case := trainCase code l y
    { y with a := { errored := x.a.errored }, b := { errored := x.b.errored }, failed := case ≠ 0, case, pending := false })
  let case := (trussOf s1 l).case
  if case = 0 then s1 else addEvent s1 0x02 (trussDie l) [l, case]

/-- A parked joist of a reset tile gets a new epoch at the house and at the tile's own end; it does not train (R26, R30). -/
def renewParked (pos : Nat) (s : State) (l : Nat) : State :=
  modTruss s l (fun x => setEnds (if l = 96 + pos then 5 else 4) l true x)

/-- The brace and the joists of a position train; a parked joist does not. The tile may serve when its brace and a joist
that is not lost come up (R19, R26, R30). -/
def trainTile (tr : Training) (up : Bool) (s : State) (pos : Nat) : State × Bool :=
  let live := (joistsOf pos).filter (joistLive s)
  let s0 := if up then ((joistsOf pos).filter (fun l => !joistLive s l)).foldl (renewParked pos) s else s
  let s1 := (pos :: live).foldl (trainTruss tr up) s0
  (s1, !(trussOf s1 pos).failed && !joistsGone s1 pos)

/-- The joists of a position that a training left down count as failed (R26, R29). -/
def joistEffects (s : State) (pos : Nat) : State :=
  ((joistsOf pos).filter (fun l => (trussOf s l).failed)).foldl linkEffect s

/-! ### The tile map at a reset (R19) -/

/-- Index `i` bound to a slot, 0xF: unbound (R16). -/
def bindIndex (w : W64) (i slot : Nat) : W64 := setBits w (4 * i + 3) (4 * i) slot

/-- Slot retired. -/
def retireSlot (w : W64) (slot : Nat) : W64 := w ||| flag true (54 + slot)

/-- Step 3 of R19 for one index. -/
def substitute (out : Nat → Bool) (w : W64) (i : Nat) : W64 :=
  let slot := mapSlot w i
  if slot < 10 && out slot then
    let w1 := retireSlot w slot
    let u := bits w1 53 50
    if u ≠ 0xF then setBits (bindIndex w1 i u) 53 50 0xF else bindIndex w1 i 0xF
  else w

/-- Slots that a map word binds. -/
def boundSlots (w : W64) : List Nat := ((upFrom 0 9).map (mapSlot w)).filter (fun k => decide (k < 10))

/-- A map word put in force for a bay. -/
def putMap (s : State) (b : Nat) (w : W64) : State := { s with panel := { s.panel with mapActive := tput mapDefault s.panel.mapActive b w } }

/-- Step 4 of R19 for one index: a newly bound position is powered and trained; one that fails is retired. -/
def trainIndex (tr : Training) (b : Nat) (fresh : List Nat) (s : State) (i : Nat) : State :=
  let w := mapWord s b
  let slot := mapSlot w i
  if slot ≥ 10 || !fresh.contains slot then s
  else
    let r := trainTile tr false s (10 * b + slot)
    if r.2 then joistEffects r.1 (10 * b + slot) else putMap r.1 b (bindIndex (retireSlot w slot) i 0xF)

/-- Power follows the map: bound positions are powered, with their full-load period, the others are not (R15, R439). -/
def powerBay (s : State) (b : Nat) (cold : Bool) : State :=
  (upFrom (10 * b) 10).foldl (fun s n =>
    let was := (dieOf s n).unpowered
    if (posTile s n).isSome then
      if was || cold then modDie s n (fun d => { d with unpowered := false, fullFrom := some (beat s) }) else s
    else modDie s n (fun d => { d with unpowered := true, fullFrom := none })) s

/-- Steps 2 to 5 of R19 for a bay; `entering`: its tiles were unpowered, and every bound position trains. -/
def mapBay (tr : Training) (b : Nat) (entering cold : Bool) (s : State) : State :=
  let old := mapWord s b
  let w0 := (tget none s.panel.mapPending b).getD old
  let w1 := (upFrom 0 9).foldl (substitute (fun slot => posIsOut s (10 * b + slot))) w0
  let fresh := (boundSlots w1).filter (fun k => entering || !(boundSlots old).contains k)
  let s1 := { putMap s b w1 with panel := { (putMap s b w1).panel with
    mapPending := terase s.panel.mapPending b
    posOut := (upFrom (10 * b) 10).foldl terase s.panel.posOut } }
  powerBay ((upFrom 0 9).foldl (trainIndex tr b fresh) s1) b cold

/-- Held-down links of a bay, which trained last without success: those of its positions and of its hub (R29). -/
def heldDown (s : State) (b : Nat) : List Nat :=
  let own := upFrom (10 * b) 10
  let joists := ((10 * b + 79) % 80 :: own).map (fun n => 96 + n)
  (own ++ joists ++ [88 + b, 88 + (b + 7) % 8] ++ (upFrom 80 4).filter (fun l => fohHub l == b)).filter (fun l =>
    (trussOf s l).case ≥ 3 && (l < 96 || joistLive s l) && (l ≥ 80 || (posTile s l).isSome))

/-! ### Stacks at a reset (R291–R293, R301) -/

/-- Lanes that failed a channel's training, as a mask of the ten lanes. -/
def failedLanes (tr : Training) (k ch : Nat) : Nat :=
  ((tr.lanes.find? (fun x => x.1 == k && x.2.1 == ch)).map (fun x => x.2.2)).getD 0

/-- A channel configured by the lanes that failed; none: the stack fails (R292). Lane 9 is the spare. -/
def configureLanes (mask : Nat) (c : Channel) : Option Channel :=
  match bitList mask 10 with
  | [] => some { c with marked := 0, spared := none }
  | [a] => if a = 9 then some { c with marked := 0, spared := none } else some { c with marked := 0, spared := some a }
  | [a, b] => if b = 9 then some { c with marked := 2 ^ a, spared := none } else some { c with marked := 2 ^ b, spared := some a }
  | _ => none

/-- Channels of a stack train with their timing trims (R441); three failed lanes of one channel fail the stack (R292, R293, R304). -/
def trainChannels (tr : Training) (k : Nat) (chs : List Nat) (s : State) : State :=
  if chs.any (fun ch => (configureLanes (failedLanes tr k ch) {}).isNone) then stackFails s k 1 s.clk.cue
  else chs.foldl (fun s ch => modChan (useOffsets s (fun key => key / 2 ^ 40 == 3 * 2 ^ 22 + k * 2 ^ 8 + ch)) k ch
    (fun c => (configureLanes (failedLanes tr k ch) c).getD c)) s

/-- A whole training writes the stack with zeros and puts it in service (R291, R304). -/
def trainStack (tr : Training) (k : Nat) (s : State) : State :=
  let s1 := trainChannels tr k (upFrom 0 256) (modStack s k (fun x => { x with state := 0, lost := none, lock := [] }))
  if (stackOf s1 k).state = 2 then s1
  else modStack (zeroRange s1 (k * stackBytes) stackBytes) k (fun x => { x with state := 1 })

/-- Training of a stack at a partition reset: channels with a marked lane, or the whole stack when it had failed (R293,
R304). -/
def retrainStack (tr : Training) (s : State) (k : Nat) : State :=
  let x := stackOf s k
  if x.state = 2 then trainStack tr k s
  else trainChannels tr k ((x.channels.filter (fun kv => kv.2.marked != 0)).map (fun kv => kv.1)) s

/-- A granule is retired and its contents dropped (R301). -/
def retireGranule (s : State) (g : Nat) : State :=
  if bits (tget 0 s.mem.owner g) 14 13 ≥ 2 then s
  else
    let s1 := zeroRange s (g * 0x200000) 0x200000
    let s2 := { s1 with mem := { s1.mem with
      owner := tput 0 s1.mem.owner g 0x4000
      pages := s1.mem.pages.filter (fun kv => kv.1 / 32 != g) } }
    modStack s2 (g * 0x200000 / stackBytes) (fun x => { x with retired := x.retired + 1 })

/-- The deferred rows of a stack are repaired, or their granules retired (R301). -/
def repairRow (k : Nat) (s : State) (row : Nat) : State :=
  let key := row / 2 ^ 10
  let used := tget 0 (stackOf s k).repairs key
  let s1 := modStack s k (fun x => { x with deferred := x.deferred.filter (fun r => r != row) })
  if used < 4 then modStack s1 k (fun x => { x with hard := x.hard + 1, repairs := tput 0 x.repairs key (used + 1) })
  else
    let g := (k * stackBytes + key % 16 * 2 ^ 32 + row % 1024 * 2 ^ 22) / 0x200000
    retireGranule (retireGranule s1 g) (g + 1)

/-- A soft remap becomes a hard repair while hard-repair rows remain, and its spare is freed (R301). -/
def hardenRow (k : Nat) (s : State) (row : Nat) : State :=
  let x := stackOf s k
  let key := row / 2 ^ 10
  let used := tget 0 x.repairs key
  if used ≥ 4 || (chanOf s k (row / 2 ^ 18)).copies.any (fun c => c.1 == row % 2 ^ 18) then s
  else modStack s k (fun x => { x with
    hard := x.hard + 1, soft := x.soft - 1, remapped := x.remapped.filter (fun r => r != row)
    repairs := tput 0 x.repairs key (used + 1), spares := tmod 0 x.spares key (fun n => n - 1) })

/-- Step 6 of R19 for a stack. -/
def repairStack (s : State) (k : Nat) : State :=
  if (stackOf s k).state ≠ 1 then s
  else
    let s1 := (stackOf s k).deferred.foldl (repairRow k) s
    (stackOf s1 k).remapped.foldl (hardenRow k) s1

/-! ### Caches, engines and scratchpad of a bay (R258, R260, R256) -/

/-- Scratchpad of a hub set to zero (R256). -/
def zeroScratch (s : State) (h : Nat) : State := zeroRange s (0x10000000000 + h * 0x6000000) 0x6000000

/-- The caches of a bay's tiles and cores are written back and emptied, directory entries that name them cleared, and the
engines stopped (R260). -/
def flushBay (s : State) (b : Nat) : State :=
  let s1 := (upFrom (9 * b) 9).foldl (fun s t => clearTile (flushSharer s t) t) s
  (upFrom (16 * b) 16).foldl (fun s c => flushSharer s (72 + c)) s1

/-- What else of a bay a partition reset clears, every cache of the partition being empty: its last-level cache, cue programs,
cores, translations, scratchpad (R256, R258). -/
def clearBay (s2 : State) (b : Nat) : State :=
  let tiles := upFrom (9 * b) 9
  let cores := upFrom (16 * b) 16
  let mine := fun (n : Nat) => tiles.contains n || n == 72 + b
  let ofBay := fun (n : Nat) =>
    if n < 2016 then n / 252 == b else if n < 2144 then (n - 2016) / 16 == b else if n < 2152 then n - 2144 == b
    else if n < 2296 then (n - 2152) % 72 / 9 == b else (n - 2296) / 16 == b
  zeroScratch { s2 with
    eng := { s2.eng with
      prog := s2.eng.prog.filter (fun kv => !mine (kv.1 / 1024)), runs := s2.eng.runs.filter (fun kv => !mine (kv.1 / 32768))
      allot := s2.eng.allot.filter (fun kv => !mine (kv.1 / 1024)) }
    coh := { s2.coh with
      llm := terase s2.coh.llm b
      stale := s2.coh.stale.filter (fun kv => homeHub (128 * kv.1) != b)
      waiters := s2.coh.waiters.filter (fun w => match w.who with
        | .core c => !cores.contains c
        | .gp _ _ => true) }
    cores := cores.foldl terase s2.cores
    mem := { s2.mem with tlb := s2.mem.tlb.filter (fun e => !ofBay e.stream) } } b

/-- A bay outside every partition: its tiles are unpowered and its stacks in self-refresh (R482). -/
def idleBay (s : State) (b : Nat) : State :=
  let s1 := (upFrom (10 * b) 10).foldl (fun s n => modDie s n (fun d => { d with unpowered := true, fullFrom := none })) s
  [2 * b, 2 * b + 1].foldl (fun s k => modStack s k (fun x => if x.state = 1 then { x with state := 3 } else x)) s1

/-- The stacks of a bay leave self-refresh (R298). -/
def wakeBay (s : State) (b : Nat) : State :=
  [2 * b, 2 * b + 1].foldl (fun s k => modStack s k (fun x => if x.state = 3 then { x with state := 1 } else x)) s

/-! ### The core context (R483) -/

/-- The first free granules of a partition's stacks, enough for an owner image and its tables. -/
def firstFree (s : State) (p : Nat) : List Nat :=
  (((liveStacks s p).flatMap (fun k => upFrom (k * 24576) 24576)).filter (granuleFree s p)).take 24

/-- The image's pages are mapped with READ, WRITE and EXEC and filled, from the 64 KiB-aligned address at or below ENTRY. -/
def loadOwner (c p base : Nat) : List (List Byte) → Nat → State → List Nat → Option State
  | [], _, s, _ => some s
  | bs :: rest, i, s, picks =>
    match takePage s c p (liveStacks s p) picks with
    | .got n s1 picks1 =>
      match setLeaf (writeBytes s1 (n * 65536) bs) c p (base + 65536 * i) false (leafWord 13 (n * 65536)) picks1 with
      | .got _ s2 picks2 => loadOwner c p base rest (i + 1) s2 picks2
      | _ => none
    | _ => none

/-- Bytes cut into pages of 64 KiB. -/
def cutPages : Nat → List Byte → List (List Byte)
  | 0, _ => []
  | fuel + 1, bs => if bs.isEmpty then [] else bs.take 65536 :: cutPages fuel (bs.drop 65536)

/-- The core context is destroyed and made afresh, the owner image loaded, and the application cores released at ENTRY. An
image that does not pass, or memory that does not suffice, leaves the cores in reset (R473, R483). -/
def startCores (s : State) (p : Nat) : State :=
  let c := (partOf s p).shape.coreCtx
  if c = 0 then s
  else
    let s1 := if (ctxOf s c).st = .free then s else destroyContext s c
    match createContext s1 c p 2 false false 0 (firstFree s1 p) with
    | .got _ s2 picks =>
      let copy := activeCopy s2 1
      let pass := checkOwner s2 copy == 0
      let s3 := modSec s2 (fun x => { x with ownerCopy := copy, ownerOk := pass })
      if !pass then s3
      else
        let image := ownerImage s3 copy
        let entry := ownerEntryVa s3 copy
        match loadOwner c p (entry / 65536 * 65536) (cutPages 512 image) 0 s3 picks with
        | some s4 =>
          (((partBays s4 p).filter (hubIsUp s4)).flatMap appCores).foldl (fun s k =>
            modCore s k (fun _ => { ctx := c, pc := entry % 2 ^ 55, on := true })) s4
        | none => s3
    | _ => s1

/-! ### PARTITION_RESET -/

/-- The bays of a partition come up: maps, held-down links, stacks, repairs. A bay whose hub has failed while its partition
stays in reset is out of service as a whole: steps 2 to 6 of R19 pass it by (DESIGN CHOICE, log 108), and only R15's powering of
its positions is kept. -/
def raiseBay (tr : Training) (entering cold : Bool) (s : State) (b : Nat) : State :=
  if !hubIsUp s b then powerBay s b cold
  else
    let s1 := mapBay tr b entering cold (wakeBay s b)
    let s2 := (heldDown s1 b).foldl (trainTruss tr false) s1
    let ks := [2 * b, 2 * b + 1]
    let s3 := if cold then s2 else ks.foldl (retrainStack tr) s2
    ks.foldl repairStack s3

/-- The state of a partition that has been through its reset (R484): undefined, running, or held for a failed hub. -/
def stateAfter (s : State) (sh : Shape) : Nat :=
  if !sh.defined then 0 else if (shapeBays sh).all (hubIsUp s) then 2 else 3

/-- The reset of a partition (R19, R119, R482, R483). A pending map of a bay that the new shape leaves out stays pending until the bay
is next placed in a partition (DESIGN CHOICE, log 108). Its commands that wait for it complete at the next boundary once it
has left reset. -/
def resetPartition (s : State) (p : Nat) (tr : Training) : State :=
  let x := partOf s p
  let new := x.newShape.getD x.shape
  let old := partBays s p
  let bays := shapeBays new
  -- step 1: what is left of its contexts is lost
  let cause := x.resetCause.getD 0
  let cs := ctxsWhere s (fun _ y => y.part == p)
  let s1 := cs.foldl (fun s c => loseContext (houseLoss s c stReset (resetAddr p cause)) c) s
  let s2 := old.foldl clearBay (old.foldl flushBay s1)
  let s3 := modPart s2 p (fun y => { y with
    shape := new, newShape := none, resets := satTo 65535 (y.resets + 1), power := 0, emptyCues := 0
    level := 0, levelDue := none, atLimit := false, overCount := 0, underCount := 0, lawFrom := 0, advances := 0, idlePending := false
    energy := 0, order := { histories := y.order.histories } })
  let s4 := (old.filter (fun b => !bays.contains b)).foldl idleBay s3
  let s5 := bays.foldl (fun s b => raiseBay tr (!old.contains b) false (if old.contains b then s else zeroScratch s b) b) s4
  let after := stateAfter s5 new
  let s6 := if after = 2 then startCores s5 p else s5
  let s7 := modPart s6 p (fun y => { y with
    state := after, resetCause := none, resetBegun := false, waiters := if after = 3 then y.waiters else [] })
  if after = 3 then s7 else x.waiters.foldl (fun s w => finish s w.1 w.2 (plainDone (s.clk.cue + 1) 0 0)) s7

/-- PARTITION_RESET (R19): the work of a reset that has begun. -/
def execPartitionReset (p : Nat) (tr : Training) (s : State) : Out :=
  if !(partOf s p).resetBegun then .next s else .next (resetPartition s p tr)

/-! ### TILE_RESET (R30) -/

/-- A tile reset (R30, R278): the dependent contexts are lost, the tile's L2 is written back and emptied, and its brace and
joists train at a new epoch. A tile without a brace or without both joists is out of service. -/
def resetTile (s : State) (t pos : Nat) (tr : Training) : State :=
  let s1 := loseFor s (tileDependents s t) (lostTile t)
  let s2 := clearTile (flushSharer s1 t) t
  let r := trainTile tr true s2 pos
  let s3 := joistEffects r.1 pos
  if r.2 then
    { s3 with panel := { s3.panel with posOut := terase s3.panel.posOut pos } }
  else tileGoesOut s3 pos (if (trussOf s3 pos).failed then pos else 96 + pos)

/-! ### Cold reset, device reset, power loss -/

/-- Every truss link trains from EPOCH 0: braces of positions that are not retired, joists between such positions, ridges
and FOH braces (R29). -/
def coldLinks (s : State) : List Nat :=
  let there := fun (n : Nat) => hubIsUp s (n / 10) && !bit (mapWord s (n / 10)) (54 + n % 10)
  ((upFrom 0 80).filter there) ++ upFrom 80 4 ++ upFrom 88 8 ++
    (((upFrom 0 80).filter (fun n => there n && there ((n + 1) % 80))).map (fun n => 96 + n))

/-- Steps 4 to 6 of R497: the dies are powered, the truss trains, the stacks are trained and zeroed, tenon links begin
bring-up, and the partitions of the flash table come up. -/
def bringUpModule (tr : Training) (s : State) : State :=
  let s1 := (coldLinks s).foldl (trainTruss tr false) s
  let s2 := ((coldLinks s1).filter (fun l => (trussOf s1 l).failed)).foldl linkEffect s1
  let s3 := ((upFrom 0 16).filter (fun k => hubIsUp s2 (k / 2))).foldl (fun s k => trainStack tr k s) s2
  let s4 := (upFrom 0 8).foldl (fun s b => if (bayPart s b).isSome then raiseBay tr false true s b else idleBay s b) s3
  let power := fun (s : State) (d : Nat) (on : Bool) =>
    modDie s d (fun x => if on then { x with unpowered := false, fullFrom := some 0 } else { x with unpowered := true, fullFrom := none })
  let s5 := (upFrom 0 8).foldl (fun s h => power s (hubDie h) (hubIsUp s h)) s4
  let s6 := [0, 1].foldl (fun s f => power s (fohDie f) (fohIsUp s f)) s5
  let s7 := (upFrom 0 16).foldl (fun s k => power s (stackDie k) (hubIsUp s (k / 2))) s6
  let s8 := (upFrom 0 48).foldl (fun s l => modLink (bringUp s l) l (fun x => { x with retrains := 0 })) s7
  (upFrom 0 8).foldl (fun s p =>
    if !(partOf s p).shape.defined then s
    else
      let after := stateAfter s (partOf s p).shape
      modPart (if after = 2 then startCores s p else s) p (fun y => { y with state := after })) s8

/-- Own route at a reset (R417). -/
def ownRoute (s : State) : State := { s with net := { s.net with routes := tput 0xFF s.net.routes s.net.gid 0xFE } }

/-- The boot of R461 and, out of limp mode, the bring-up; limp mode ends at PHASE 3 with nothing else powered (R465, R498). -/
def boot (tr : Training) (s : State) : State :=
  let s1 := bootChecks (ownRoute { s with clk := { s.clk with cueMaster := lowestHub s } })
  if s1.sec.limp then
    let s2 := ((upFrom 0 106).filter (fun d => d != 88 && d != 89)).foldl (fun s d => modDie s d (fun x => { x with unpowered := true })) s1
    { s2 with mgmt := { s2.mgmt with phase := 3 } }
  else
    let s2 := bringUpModule tr s1
    { s2 with mgmt := { s2.mgmt with phase := 5 } }

/-- COLD_RESET (R497): from the state that power loss, OFF or the factory leaves (PHASE 0). -/
def execColdReset (tr : Training) (s : State) : Out :=
  if s.mgmt.phase ≠ 0 then .next s else .next (boot tr (kept s))

/-- What a device reset keeps beside flash and fuses: the copies of the WCLK domain, the jack's kept replies, and the links
and configuration space of the host ports (R495, R497). -/
def keptDevice (s : State) : State :=
  let k := kept s
  { k with
    clk := { k.clk with shed := s.clk.shed, flowLow := s.clk.flowLow }
    ports := tmap {} s.ports (fun _ x => { keptPort x with
      linkUp := x.linkUp, gen := x.gen, width := x.width, busMaster := x.busMaster, silent := !(x.linkUp && x.busMaster)
      funcMask := x.funcMask, bar2 := x.bar2, mps := x.mps, mrrs := x.mrrs })
    mgmt := { k.mgmt with lastReset := 1, replies := s.mgmt.replies } }

/-- DEVICE_RESET (R485, R495): due at the boundary after its command; commands in progress are gone. -/
def execDeviceReset (tr : Training) (s : State) : Out :=
  match s.mgmt.resetDue with
  | none => .next s
  | some d =>
    if s.clk.cue < d then .next s
    else
      let s1 := boot tr (keptDevice s)
      .next (if s1.clk.shed || s1.clk.flowLow then shedSteps s1 else s1)

/-- DEVICE_READY (R497 step 6). -/
def execDeviceReady (s : State) : Out :=
  if s.mgmt.phase ≠ 5 || s.sec.limp || (upFrom 0 8).any (fun p => (partOf s p).shape.defined && (partOf s p).state == 1) then .next s
  else .next { s with mgmt := { s.mgmt with ready := true, phase := 6 } }

/-- WCLK_HOUSE_CYCLE (R41): the work of a house cycle while the cue counter is stopped. -/
def execWclkHouseCycle (s : State) : Out :=
  if isOff s || !s.clk.stopped then .next s else .next (houseCycleWork s)

/-- BUSBAR_POWER_LOSS (R460, R476): only flash and fuses survive. -/
def execBusbarPowerLoss (s : State) : Out :=
  let k := kept s
  .next { k with
    sec := { k.sec with sigCopy := [], seqCopy := [] }
    mgmt := { k.mgmt with off := true } }

end Sys2Proof.Machine
end

