-- ==== Sys2Proof/Machine/Mgmt.lean ====
section
/-! DEFINITION. The management plane (R478–R498): partition, reset, map, power, calibration, health, route, trust, Ethernet
commands, and the datagrams of the management jack that carry commands. -/

namespace Sys2Proof.Machine

/-! ### Partitions and resets (R482, R485, R486) -/

/-- A house path may not name a partition that is defined and bound to the other port (R481). -/
def pathBarred (s : State) (q p : Nat) : Bool := (partOf s p).shape.defined && !pathMay s q p

/-- The shape a partition has or will have after its pending reset. -/
def nextShape (s : State) (p : Nat) : Shape := (partOf s p).newShape.getD (partOf s p).shape

/-- Word 1 of PARTITION_SET as a shape (R482). -/
def shapeOf (w : W64) : Shape :=
  { defined := true, first := bits w 59 57, sizeLog := bits w 56 55, binding := bits w 54 53, scratch := bits w 52 49
    coreCtx := bits w 11 0 }

/-- The BAD_FORMAT cases of R482, R255: a binding 3, a share of 8 or more, a misaligned shape, overlap. -/
def shapeBad (s : State) (p : Nat) (sh : Shape) : Bool :=
  sh.binding == 3 || decide (sh.scratch ≥ 8) || decide (sh.first % 2 ^ sh.sizeLog ≠ 0) ||
    (upFrom 0 8).any (fun o => o != p && (shapeBays (nextShape s o)).any (shapeBays sh).contains)

/-- The BAD_OBJECT cases of R481 and R482: a binding to the other port, a failed hub, a core context that is in use. -/
def shapeBarred (s : State) (q p : Nat) (sh : Shape) : Bool :=
  pathBarred s q p || (match pathPort q with | some h => sh.binding != h && sh.binding != 2 | none => false) ||
    (shapeBays sh).any (fun b => !hubIsUp s b) ||
    (sh.coreCtx != 0 && (ctxOf s sh.coreCtx).st != .free && sh.coreCtx != (partOf s p).shape.coreCtx)

/-- A command waits for the reset of a partition, which it requests with a cause (R485, R496, R506). -/
def awaitReset (s : State) (q : Nat) (cm : Cmd) (p cause : Nat) : State :=
  modCmd (modPart s p (fun x => { x with
    resetCause := some (x.resetCause.getD cause), waiters := x.waiters ++ [(q, cm.idx)] })) q cm.idx (fun c => { c with stage := 1 })

/-- PARTITION_SET (R482): the new definition comes into force within the partition's reset. -/
def execPartitionSet (q : Nat) (s : State) : Out :=
  .next (onCommand s q 0x80 (fun cm =>
    let w := wordAt cm.words 1
    let p := bits w 62 60
    let sh := shapeOf w
    let put := fun (sh : Shape) => awaitReset (modPart s p (fun x => { x with newShape := some sh })) q cm p 1
    if bit w 63 then
      if shapeBad s p sh then reject s q cm stBadFormat 1
      else if shapeBarred s q p sh then reject s q cm stBadObject 0
      else put sh
    else if !(nextShape s p).defined || pathBarred s q p then reject s q cm stBadObject 0
    else put {}))

/-- RESET_PARTITION (R485). -/
def execResetPartition (q : Nat) (s : State) : Out :=
  .next (onCommand s q 0x81 (fun cm =>
    let p := bits (wordAt cm.words 1) 2 0
    if !(partOf s p).shape.defined || pathBarred s q p then reject s q cm stBadObject 0
    else awaitReset s q cm p 0))

/-- RESET_DEVICE (R481, R485): from a host queue only while no partition is bound to the other port. -/
def execResetDevice (q : Nat) (s : State) : Out :=
  .next (onCommand s q 0x82 (fun cm =>
    let other := match pathPort q with
      | some h => (upFrom 0 8).any (fun p => (partOf s p).shape.defined && (partOf s p).shape.binding == 1 - h)
      | none => false
    if other then reject s q cm stBadObject 0
    else answerNext { s with mgmt := { s.mgmt with resetDue := some (s.clk.cue + 1) } } q cm 0 0))

/-- The links of a tile without power do not train (R29, R30). -/
def withoutPower (s : State) (pos : Nat) (tr : Training) : Training :=
  if (dieOf s pos).unpowered then { tr with links := ((pos :: joistsOf pos).map (fun l => (l, 3))) ++ tr.links } else tr

/-- TILE_RESET (R30, R485, R496): absorbed while the tile's partition resets. -/
def execTileReset (q : Nat) (tr : Training) (s : State) : Out :=
  .next (onCommand s q 0x83 (fun cm =>
    let t := bits (wordAt cm.words 1) 6 0
    match (if t < 72 then tilePos s t else none) with
    | none => reject s q cm stBadObject 0
    | some pos =>
      match bayPart s (t / 9) with
      | some p =>
        if pathBarred s q p then reject s q cm stBadObject 0
        else if (partOf s p).resetCause.isSome then answerNext s q cm 0 0
        else answerNext (resetTile s t pos (withoutPower s pos tr)) q cm 0 0
      | none => answerNext (resetTile s t pos (withoutPower s pos tr)) q cm 0 0))

/-- A valid tile-map word (R17). -/
def mapValid (w : W64) : Bool :=
  let ix := upFrom 0 9
  let retired := fun (k : Nat) => bit w (54 + k)
  let u := bits w 53 50
  let bound := boundSlots w
  ix.all (fun i => mapSlot w i == 0xF || (decide (mapSlot w i < 10) && !retired (mapSlot w i))) && decide bound.Nodup &&
    (u == 0xF || (decide (u < 10) && !retired u && !bound.contains u)) &&
    (upFrom 0 10).all (fun k => bound.contains k || retired k || u == k)

/-- TILE_MAP (R17, R18): the pending map alone changes. -/
def execTileMap (q : Nat) (s : State) : Out :=
  .next (onCommand s q 0x84 (fun cm =>
    let b := bits (wordAt cm.words 1) 2 0
    let w := wordAt cm.words 2 &&& 0xFFFC000FFFFFFFFF
    if !mapValid w then reject s q cm stBadFormat 2
    else answerNext { s with panel := { s.panel with mapPending := tput none s.panel.mapPending b (some w) } } q cm 0 0))

/-! ### Power commands (R449, R455, R456, R487) -/

/-- Cap of partition `p` in the words of POWER_CAP (R487). -/
def capWord (w : Nat → W64) (p : Nat) : Nat := bits (w (2 + p / 4)) (16 * (p % 4) + 15) (16 * (p % 4))

/-- The first word of POWER_CAP with a value outside its range (R386, R449). -/
def capBad (w : Nat → W64) : Option Nat :=
  let m := bits (w 1) 63 48
  let t := bits (w 1) 47 40
  if m < 1500 || m > 5000 || t < 85 || t > 110 then some 1
  else ((upFrom 0 8).find? (fun p => bit (w 1) p && capWord w p != 0 && (decide (capWord w p < 100) || decide (capWord w p > 5000)))).map
    (fun p => 2 + p / 4)

/-- A partition's new cap clears the counts of its law; without a cap it is at level 0 (R449, R451). -/
def setCap (s : State) (p w : Nat) : State :=
  modPart s p (fun x =>
    let y := { x with cap := w, overCount := 0, underCount := 0 }
    if w = 0 then { y with level := 0, levelDue := none, atLimit := false, idlePending := false } else y)

/-- POWER_CAP (R449, R487). -/
def execPowerCap (q : Nat) (s : State) : Out :=
  .next (onCommand s q 0x85 (fun cm =>
    let w := wordAt cm.words
    let named := (upFrom 0 8).filter (fun p => bit (w 1) p)
    match capBad w with
    | some k => reject s q cm stBadFormat k
    | none =>
      if named.any (pathBarred s q) then reject s q cm stBadObject 0
      else
        let s1 := clearLaw { s with pow := { s.pow with cap := bits (w 1) 63 48, tLim := bits (w 1) 47 40 } }
        answerNext (named.foldl (fun s p => setCap s p (capWord w p)) s1) q cm 0 0))

/-- A ceiling below the step decided counts as a decision to step down to it; not during shed (R449, R454). -/
def heedCeilings (s : State) : State :=
  if shedding s then s
  else
    let s1 := if s.clk.aclkTarget > s.clk.aclkMax then decideAclk s s.clk.aclkMax else s
    if s1.clk.pclkTarget > s1.clk.pclkMax then
      let s2 := decidePclk s1 s1.clk.pclkMax
      { s2 with clk := { s2.clk with lawFrom := max s1.clk.lawFrom s2.clk.lawFrom } }
    else s1

/-- CLOCK_STEP (R449, R487). -/
def execClockStep (q : Nat) (s : State) : Out :=
  .next (onCommand s q 0x86 (fun cm =>
    let w := wordAt cm.words 1
    answerNext (heedCeilings { s with clk := { s.clk with aclkMax := bits w 63 60, pclkMax := bits w 59 57 } }) q cm 0 0))

/-- Tile positions of a partition that hold an active tile. -/
def partPositions (s : State) (p : Nat) : List Nat := (partBays s p).flatMap (activePositions s)

/-- NAP: tiles unpowered with their stores in retention, stacks in self-refresh, cores stopped with their state (R455). -/
def enterNap (s : State) (p : Nat) : State :=
  let s1 := (partPositions s p).foldl unpower s
  let s2 := (partStacks s p).foldl (fun s k => modStack s k (fun x => if x.state = 1 then { x with state := 3 } else x)) s1
  modPart s2 p (fun x => { x with power := 2, emptyCues := 0 })

/-- Wake from NAP: stacks leave self-refresh, dies report full-load figures for 64 cues (R298, R439, R455). -/
def wakeNap (s : State) (p : Nat) : State :=
  let on := fun (s : State) (d : Nat) => modDie s d (fun x => { x with unpowered := false, fullFrom := some (beat s) })
  let s1 := (partPositions s p).foldl on s
  let s2 := (partBays s p).foldl wakeBay s1
  modPart s2 p (fun x => { x with power := 0, emptyCues := 0 })

/-- POWER_STATE (R455, R456, R487): ACTIVE on a partition in NAP completes when its first cue runs. -/
def execPowerState (q : Nat) (s : State) : Out :=
  .next (onCommand s q 0x88 (fun cm =>
    let w := wordAt cm.words 1
    let p := bits w 2 0
    let x := partOf s p
    match bits w 63 62 with
    | 1 => reject s q cm stBadFormat 1
    | 3 =>
      if q ≠ 1024 || s.ctxs.any (fun kv => kv.2.st != .free) then reject s q cm stBadObject 0
      else answerNext { s with mgmt := { s.mgmt with off := true } } q cm 0 0
    | 2 =>
      if pathBarred s q p || x.state ≠ 2 || !x.order.runs.isEmpty || partBusy s p then reject s q cm stBadObject 0
      else answerNext (enterNap s p) q cm 0 0
    | _ =>
      if pathBarred s q p then reject s q cm stBadObject 0
      else if x.power = 2 then
        modCmd (modPart (wakeNap s p) p (fun y => { y with wakers := y.wakers ++ [(q, cm.idx)] })) q cm.idx (fun c => { c with stage := 1 })
      else answerNext s q cm 0 0))

/-! ### CALIBRATE (R441, R488) -/

/-- Counters that a die's warden keeps (R437): tile, hub, FOH, stack. -/
def countersOf (die : Nat) : Nat := if die < 80 then 16 else if die < 88 then 11 else if die < 90 then 2 else if die < 106 then 4 else 0

/-- A calibration value that does not exist, or an offset beyond its field (R488). -/
def calibrationBad (w : W64) : Bool :=
  let a := bits w 55 48
  let b := bits w 47 40
  let off := signed 8 (bits w 7 0)
  match bits w 63 62 with
  | 0 => decide (b ≥ countersOf a)
  | 1 => decide (a ≥ 106) || decide (b ≥ Config.sensors a)
  | 2 => decide (a ≥ 48) || decide (b ≥ 12) || decide (off < -8) || decide (off > 7)
  | _ => decide (a ≥ 16) || decide (off < -16) || decide (off > 15)

/-- The value that CALIBRATE names: kind, die, link or stack, counter, sensor, tap or channel, and trim. -/
def calibrationKey (w : W64) : Nat :=
  bits w 63 62 * 2 ^ 62 + bits w 55 40 * 2 ^ 40 + (if bits w 63 62 = 3 then bits w 39 32 * 2 ^ 32 else 0)

/-- CALIBRATE (R441, R488): the offset is stored; it comes into use under R441. -/
def execCalibrate (q : Nat) (s : State) : Out :=
  .next (onCommand s q 0x87 (fun cm =>
    let w := wordAt cm.words 1
    if calibrationBad w then reject s q cm stBadFormat 1
    else if q ≠ 1024 then reject s q cm stBadObject 0
    else answerNext { s with pow := { s.pow with offsets := tput 0 s.pow.offsets (calibrationKey w) (bits w 7 0) } } q cm 0 0))

/-! ### HEALTH_READ (R491, R492) -/

/-- An event entry of 32 bytes. -/
def eventBytes : Option Event → List Byte
  | none => List.replicate 32 0
  | some e => leBytes 8 e.cue ++ leBytes 2 e.code ++ leBytes 1 e.die ++ fixedBytes 21 (Config.eventDetail e.code e.detail)

/-- The health record of 4,096 bytes. -/
def healthRecord (s : State) : List Byte :=
  let snap := if s.mgmt.snapshot.isEmpty then List.replicate 248 0 else s.mgmt.snapshot
  leBytes 8 (2 ^ 48 + s.mgmt.changes % 2 ^ 48) ++ snap ++
    (upFrom 0 96).flatMap (fun i => leBytes 8 (tget 0 s.mgmt.counters i)) ++
    (upFrom 0 96).flatMap (fun i => eventBytes (tget none s.mgmt.events i))

/-- HEALTH_READ (R479, R491): the record is written to DST; the jack's reply carries it too, and with DST 0 alone. -/
def execHealthRead (q : Nat) (s : State) : Out :=
  .next (onCommand s q 0x89 (fun cm =>
    let dst := bits (wordAt cm.words 1) 54 0
    let c := cmdCtx s q cm
    let say := fun (s : State) =>
      answerNext (if q = 1024 then modCmd s q cm.idx (fun x => { x with got := tput [] [] 0 (healthRecord s) }) else s) q cm 0 0
    if dst % 64 ≠ 0 then reject s q cm stBadFormat 1
    else if q = 1024 && dst = 0 then say s
    else match resolve s c dst 4096 needWrite with
      | .bad st a => faultCommand s q cm c st a
      | .ok pas => match badPartial s (pas.filter (fun x => cacheable x.1)) with
        | some a => burstCommand s q cm c a
        | none => if piecesTaken s pas then say (putBytes s c pas (healthRecord s)) else s))

/-! ### Routes, trust, Ethernet (R418, R486, R489, R490) -/

/-- A route entry is written and dropped from every hub's cache (R418). -/
def setRoute (s : State) (gid v : Nat) : State :=
  { s with net := { s.net with
    routes := tput 0xFF s.net.routes gid v, routeCache := s.net.routeCache.filter (fun x => x.2.1 != gid) } }

/-- ROUTE_SET (R418, R486). -/
def execRouteSet (q : Nat) (s : State) : Out :=
  .next (onCommand s q 0x8A (fun cm =>
    let gid := bits (wordAt cm.words 1) 47 24
    let v := bits (wordAt cm.words 1) 7 0
    if (0x30 ≤ v && v ≤ 0xFD) || (gid = s.net.gid && v ≠ 0xFE) then reject s q cm stBadFormat 1
    else answerNext (setRoute s gid v) q cm 0 0))

/-- An own certificate that may be installed (R489). -/
def ownCertOk (s : State) (c : List Byte) : Bool :=
  match issuerOf s c with
  | none => false
  | some a => Config.xmssVerify a.1 (c.take 128) (c.drop 128) && certField c 16 68 == identityBytes

/-- An own certificate is installed; with a different GID the routes change and active links begin bring-up again. -/
def installCert (s : State) (c : List Byte) : State :=
  let s1 := modSec s (fun x => { x with cert := some c })
  let gid := certGid c
  if gid = s.net.gid then s1
  else
    let s2 := setRoute (setRoute s1 s.net.gid 0xFF) gid 0xFE
    let s3 := { s2 with net := { s2.net with gid } }
    ((upFrom 0 48).filter (fun l => (linkOf s l).state == 4)).foldl bringUp s3

/-- LINK_TRUST (R489), from the jack, its data travelling with it; it is a security event (R467). -/
def execLinkTrust (q : Nat) (s : State) : Out :=
  .next (onCommand s q 0x8B (fun cm =>
    let w := wordAt cm.words
    let slot := bits (w 1) 2 0
    let data := gotBytes cm
    let done := fun (s : State) => answerNext (securityEvent s cm.words) q cm 0 0
    let anchor := fun (a : Option (List Byte × Nat)) => done (modSec s (fun x => { x with anchors := tput none x.anchors slot a }))
    match bits (w 1) 63 62 with
    | 3 => reject s q cm stBadFormat 1
    | action =>
      if q ≠ 1024 then reject s q cm stBadObject 0
      else if action = 1 then anchor none
      else if data.length < (if action = 0 then 68 else 2948) then reject s q cm stBadFormat 3
      else if action = 0 then anchor (some (data.take 68, bits (w 2) 31 0))
      else if !ownCertOk s (data.take 2948) then reject s q cm stBadObject 0
      else done (installCert s (data.take 2948))))

/-- ETH_SET (R490): words 1 to 5 of a port, 8 being the jack. -/
def execEthSet (q : Nat) (s : State) : Out :=
  .next (onCommand s q 0x8C (fun cm =>
    let port := bits (wordAt cm.words 1) 63 60
    if port > 8 then reject s q cm stBadFormat 1
    else if q ≠ 1024 then reject s q cm stBadObject 0
    else answerNext { s with net := { s.net with eth := tmod {} s.net.eth port (fun e =>
      { e with words := (upFrom 1 5).map (wordAt cm.words) }) } } q cm 0 0))

/-- PEER_SET (R427, R490): the peer is quarantined until it authenticates. -/
def execPeerSet (q : Nat) (s : State) : Out :=
  .next (onCommand s q 0x8D (fun cm =>
    let w := wordAt cm.words
    let port := bits (w 1) 63 60
    let k := 1024 * port + bits (w 1) 57 48
    if port > 7 then reject s q cm stBadFormat 1
    else if q ≠ 1024 then reject s q cm stBadObject 0
    else answerNext (modPeer s k (fun x =>
      { valid := bit (w 1) 47, gid := bits (w 1) 23 0, mac := bits (w 2) 47 0, ip := (w 3).toNat * 2 ^ 64 + (w 4).toNat
        hand := { attempt := x.hand.attempt, retryDue := true } })) q cm 0 0))

/-- QP_SET (R430, R490): the pair is installed, its error state and the message in progress gone. -/
def execQpSet (q : Nat) (s : State) : Out :=
  .next (onCommand s q 0x8E (fun cm =>
    let w := wordAt cm.words
    let port := bits (w 1) 63 60
    if port > 7 || bits (w 1) 45 44 = 3 then reject s q cm stBadFormat 1
    else if q ≠ 1024 then reject s q cm stBadObject 0
    else answerNext (modQp s (256 * port + bits (w 1) 55 48) (fun x =>
      { valid := bit (w 1) 47, pmtu := bits (w 1) 45 44, gid := bits (w 1) 23 0, remote := bits (w 2) 47 24
        epsn := bits (w 2) 23 0, mac := bits (w 3) 47 0, ip := (w 4).toNat * 2 ^ 64 + (w 5).toNat, out := x.out })) q cm 0 0))

/-! ### COMMAND (R479, R480) -/

/-- The TAG is kept, or its command is in progress. -/
def tagKept (s : State) (tag : Nat) : Bool := s.mgmt.replies.any (fun r => r.tag == tag) || (cmdOf s 1024 tag).isSome

/-- A TAG is taken with its reply; the last 64 are kept (R480). -/
def keepReply (s : State) (r : Reply) : State :=
  let rs := s.mgmt.replies ++ [r]
  { s with mgmt := { s.mgmt with replies := rs.drop (rs.length - 64) } }

/-- COMMAND (R479, R480): a datagram of the jack carries a packet, and data for some commands; a kept TAG is not performed
again. The command counts as taken at the next boundary. -/
def execCommand (tag : Nat) (packet : List W64) (data : List Byte) (s : State) : Out :=
  if tagKept s tag then .next s
  else .next (modQueue (keepReply s { tag, data := none }) 1024 (fun x => { x with
    cmds := x.cmds ++ [{ idx := tag, entries := pktEntries (wordAt packet 0), words := packet, taken := s.clk.cue + 1, got := tput [] [] 0 data }] }))

end Sys2Proof.Machine
end

