-- ==== Sys2Proof/Machine/Regs.lean ====
section
/-! DEFINITION. BAR0 as the two host ports and the management Ethernet port read and write it (R5–R8, R351–R354): the
register words of every chapter, and the rows that access registers. -/

namespace Sys2Proof.Machine

/-! ### Register words -/

/-- DEVICE_STATUS (R498); no FOH serves before step 1 of R497 is complete. -/
def deviceStatus (s : State) : W64 :=
  let up := fun (f : Nat) => fohIsUp s f && decide (s.mgmt.phase ≠ 0)
  flag s.mgmt.ready 63 ||| fld s.panel.primary 1 62 ||| flag (up 0) 61 ||| flag (up 1) 60 |||
    fld s.mgmt.phase 4 56 ||| fld s.mgmt.lastReset 2 54 ||| fld s.mgmt.changes 48 0

/-- CLOCK_STATUS (R43). -/
def clockStatus (s : State) : W64 := flag s.clk.shed 16 ||| fld s.clk.aclkTarget 4 8 ||| fld s.clk.aclk 4 0

/-- PORT_STATUS (R354). -/
def portStatus (x : Port) : W64 :=
  flag x.linkUp 63 ||| flag x.holding 62 ||| flag x.busMaster 61 ||| fld x.gen 4 52 ||| fld x.width 8 44 |||
    fld x.cuesHeld 17 15 ||| fld (ceilDiv (heldBytes x) 1024) 13 0

/-- PORT_EVENTS (R354). -/
def portEvents (x : Port) : W64 := fld x.refused 16 32 ||| fld x.events 4 0

/-- APERTURE_STATUS (R354). -/
def apertureStatus (x : Port) : W64 := flag x.apAction.isSome 63 ||| fld x.apResult 3 60 ||| fld x.apEntry 10 0

/-- PARTITION (R484): the fields of an undefined partition read 0. -/
def partitionWord (x : Partition) : W64 :=
  let sh := if x.state = 0 then {} else x.shape
  fld x.state 2 62 ||| fld sh.first 3 59 ||| fld sh.sizeLog 2 57 ||| fld sh.binding 2 55 ||| fld sh.scratch 4 51 |||
    fld sh.coreCtx 12 39 ||| fld (satTo 65535 x.resets) 16 0

/-- TILE_MAP_PENDING (R16). -/
def pendingMap (s : State) (b : Nat) : W64 := (tget none s.panel.mapPending b).getD (mapWord s b)

/-- LLM_SPLIT (R254). -/
def llmSplit (s : State) (h : Nat) : W64 := fld ((15 - 2 * scratchShare s h) * 6) 8 16 ||| fld (scratchShare s h) 4 0

/-- MSTACK_STATUS (R305). -/
def stackStatus (s : State) (k : Nat) : W64 :=
  let x := stackOf s k
  let count := fun (f : Channel → Bool) => (x.channels.filter (fun kv => f kv.2)).length
  fld x.state 2 62 ||| fld (count (fun c => c.spared.isSome)) 9 53 ||| fld (count (fun c => c.marked != 0)) 9 44 |||
    fld (satTo 65535 x.soft) 16 28 ||| fld (satTo 4095 x.hard) 12 16 ||| fld (satTo 255 x.retired) 8 8 |||
    fld ((dieOf s (stackDie k)).temp / 8).toNat 8 0

/-- LINK_STATUS (R406). -/
def linkStatus (x : Link) : W64 :=
  fld x.state 3 61 ||| fld x.gen 2 59 ||| flag x.initiator 58 ||| fld x.timeRole 2 56 ||| fld x.reason 8 48 |||
    fld x.partner 24 24 ||| fld x.partnerLink 8 16 ||| fld (satTo 65535 x.retrains) 16 0

/-- POD_STATUS (R432). -/
def podStatus (s : State) : W64 :=
  flag s.net.locked 63 ||| flag s.net.master 62 ||| flag s.net.stepped 61 ||| fld s.net.upstream 8 48 |||
    fld s.net.masterGid 24 24 ||| fld s.net.hops 4 20 ||| fld (s.net.offset % 65536).toNat 16 0

/-- POWER_STATUS (R453). -/
def powerStatus (s : State) : W64 :=
  fld s.pow.est 16 48 ||| fld s.pow.cap 16 32 ||| fld s.clk.aclkMax 4 28 ||| fld s.clk.pclk 3 25 ||| fld s.clk.pclkMax 3 22 |||
    flag s.clk.flowLow 21 ||| fld s.pow.inputW 16 0

/-- PART_POWER (R453). -/
def partPower (x : Partition) : W64 :=
  fld x.power 2 62 ||| fld x.level 3 59 ||| flag x.atLimit 58 ||| fld x.cap 16 32 ||| fld x.est 16 16

/-- The hottest die that has power, the lowest-numbered of equals. -/
def hottestDie (s : State) : Nat :=
  (upFrom 1 105).foldl (fun d e => if (dieOf s d).temp < (dieOf s e).temp then e else d) 0

/-- THERMAL_STATUS (R453). -/
def thermalStatus (s : State) : W64 :=
  fld ((dieOf s (hottestDie s)).temp / 8).toNat 8 56 ||| fld (hottestDie s) 8 48 ||| fld s.pow.tLim 8 40 ||| fld s.pow.inlet 8 32 |||
    fld s.pow.outlet 8 24 ||| fld s.pow.flow 8 16 ||| fld (satTo 65535 s.pow.trips) 16 0

/-- BOOT_STATUS (R477). -/
def bootStatus (s : State) : W64 :=
  flag s.sec.limp 63 ||| flag s.sec.pend 62 ||| flag s.sec.ownerOk 61 ||| fld s.sec.ownerSlots.length 3 56 ||| fld s.sec.reason 8 48 |||
    fld s.sec.floor 8 40 ||| fld s.sec.copy 1 39 ||| fld s.sec.svn 16 16 ||| fld romVersion 16 0

/-- SIG_INDEX (R477). -/
def sigIndex (s : State) : W64 := fld s.sec.left 13 51 ||| fld s.sec.next 40 0

/-- FW_VERSIONS (R477). -/
def fwVersions (s : State) : W64 :=
  (upFrom 0 4).foldl (fun w k => w ||| fld (s.sec.versions.getD k 0) 16 (16 * k)) 0

/-- STAGE_STATUS (R477). -/
def stageStatus (s : State) : W64 :=
  flag s.sec.stage.opened 63 ||| fld (if s.sec.stage.opened then s.sec.stage.target else 0) 1 62 ||| fld s.sec.stage.check 8 40 |||
    fld s.sec.stage.session 32 0

/-- Word `w` of an object record (R396, R398). -/
def objectWord (o : Obj) (w : Nat) : W64 :=
  match w with
  | 0 => fld o.state 2 62 ||| flag o.shared 61 ||| fld o.creator 12 48 ||| fld o.mstacks 16 32 ||| fld o.binding 2 24 |||
      fld o.granules.length 24 0
  | 1 => o.hostCount
  | 2 => BitVec.ofNat 64 (o.pages + o.maps)
  | 3 => fld o.gen 32 32
  | _ => 0

/-- The path reads the fault record of a context (R501). -/
def recordSeen (s : State) (path : Path) (c : Nat) : Bool :=
  match path with
  | .port p => c != 0 && (ctxOf s c).st != .free && (ctxOf s c).binding == p
  | .eth => c != 0

/-- A callboard entry as a path reads it (R352). -/
def callboardRead (s : State) (path : Path) (q : Nat) : W64 :=
  match path with
  | .port p => if (q < 2 && q = p) || (2 ≤ q && (queueOf s q).used && (queueOf s q).binding = p) then (queueOf s q).tailTaken else 0
  | .eth => 0

/-- A debug register as it reads (R221). -/
def dbgRegister (s : State) (path : Path) (i : Nat) : W64 :=
  if !dbgSeen s path then 0
  else match i with
    | 0 => s.eng.dbgSel
    | 2 => dbgStatus s
    | 3 => s.eng.dbgAddr
    | 4 => s.eng.dbgData
    | 5 => s.eng.dbgBreak
    | _ => 0

/-- A word of an MSI-X table entry: 32-bit words 0 to 3. -/
def msixWord (e : Msix) (i : Nat) : Nat :=
  match i with
  | 0 => e.addr.toNat % 2 ^ 32
  | 1 => e.addr.toNat / 2 ^ 32
  | 2 => e.data.toNat
  | _ => e.control.toNat

/-- 32-bit word `i` of the MSI-X table or, from 0x8000 / 4 on, of the pending-bit array (R351). -/
def msixSpace (x : Port) (i : Nat) : Nat :=
  if i < 8192 then msixWord (msixOf x (i / 4)) (i % 4)
  else maskOf ((upFrom 0 32).filter (fun b => (msixOf x (32 * (i - 8192) + b)).pend))

/-- A table or bit array of a port that only the port itself sees (R354, R375). -/
def ofPort (path : Path) (s : State) (f : Port → W64) : W64 :=
  match path with
  | .port p => f (portOf s p)
  | .eth => 0

/-- A register of 64 bits at an offset of BAR0; an offset that no table defines reads 0 (R8, R351). -/
def readWide (s : State) (path : Path) (off : Nat) : W64 :=
  let i := fun (base : Nat) => (off - base) / 8
  if off = 0x10 then deviceStatus s
  else if off = 0x100 then BitVec.ofNat 64 s.clk.cue
  else if off = 0x108 then clockStatus s
  else if 0x200 ≤ off && off < 0x210 then portStatus (portOf s (i 0x200))
  else if 0x210 ≤ off && off < 0x220 then portEvents (portOf s (i 0x210))
  else if 0x220 ≤ off && off < 0x230 then (portOf s (i 0x220)).ctl
  else if off = 0x230 then ofPort path s apertureStatus
  else if off = 0x300 then ofPort path s (fun x => x.houseRing)
  else if off = 0x308 then ofPort path s (fun x => x.houseDone)
  else if 0x400 ≤ off && off < 0x440 then partitionWord (partOf s (i 0x400))
  else if 0x2000 ≤ off && off < 0x2040 then mapWord s (i 0x2000)
  else if 0x2040 ≤ off && off < 0x2080 then pendingMap s (i 0x2040)
  else if 0x3000 ≤ off && off < 0x3030 then dbgRegister s path (i 0x3000)
  else if 0x4000 ≤ off && off < 0x4040 then llmSplit s (i 0x4000)
  else if 0x4100 ≤ off && off < 0x4180 then stackStatus s (i 0x4100)
  else if 0x5000 ≤ off && off < 0x5180 then (linkOf s (i 0x5000)).ctl
  else if 0x5200 ≤ off && off < 0x5380 then linkStatus (linkOf s (i 0x5200))
  else if off = 0x5400 then s.net.podTime
  else if off = 0x5408 then podStatus s
  else if off = 0x5410 then s.net.podCtl
  else if off = 0x5500 then BitVec.ofNat 64 s.net.drops
  else if off = 0x6000 then powerStatus s
  else if 0x6040 ≤ off && off < 0x6080 then partPower (partOf s (i 0x6040))
  else if off = 0x6080 then thermalStatus s
  else if off = 0x6088 then BitVec.ofNat 64 (s.pow.energy / 1024)
  else if off = 0x7000 then bootStatus s
  else if off = 0x7008 then sigIndex s
  else if off = 0x7010 then fwVersions s
  else if off = 0x7018 then stageStatus s
  else if 0x7100 ≤ off && off < 0x7200 then BitVec.ofNat 64 (leNat (((measureOf s (i 0x7100 / 4)).drop (8 * (i 0x7100 % 4))).take 8))
  else if 0x20000 ≤ off && off < 0x24000 then
    ofPort path s (fun x => if i 0x20000 % 2 = 0 then (apertureOf x (i 0x20000 / 2)).w0 else (apertureOf x (i 0x20000 / 2)).w1)
  else if 0x30000 ≤ off && off < 0x31000 then
    let e := tget (0, 0) s.net.dropLog (i 0x30000 / 2)
    if i 0x30000 % 2 = 0 then e.1 else e.2
  else if 0x100000 ≤ off && off < 0x140000 then
    if recordSeen s path (i 0x100000 / 8) then faultWord (ctxOf s (i 0x100000 / 8)).record (i 0x100000 % 8) else 0
  else if 0x1000000 ≤ off && off < 0x1002000 then callboardRead s path (i 0x1000000)
  else if 0x2000000 ≤ off && off < 0x3000000 then objectWord (objOf s (i 0x2000000 / 8)) (i 0x2000000 % 8)
  else 0

/-- The MSI-X table and the pending-bit array (R351). -/
def isMsix (off : Nat) : Bool := (decide (0x8000 ≤ off) && decide (off < 0x10000)) || (decide (0x10000 ≤ off) && decide (off < 0x10100))

/-- A read of BAR0 of a width in bytes (R8): aligned 64-bit accesses, and 32-bit ones to the MSI-X structures. The management jack
reads the MSI-X table, the pending-bit array and callboard entries as 0, and what it writes there is ignored (DESIGN CHOICE,
log 112). -/
def readBar0 (s : State) (path : Path) (off width : Nat) : W64 :=
  if !(width = 8 && off % 8 = 0) && !(width = 4 && off % 4 = 0 && isMsix off) then 0
  else if isMsix off then
    ofPort path s (fun x =>
      let k := (off - 0x8000) / 4
      BitVec.ofNat 64 (msixSpace x k + if width = 8 then msixSpace x (k + 1) * 2 ^ 32 else 0))
  else readWide s path off

/-! ### Writes -/

/-- HOUSE_RING, HOUSE_DONE and PORT_CTL without their reserved bits (R7). -/
def ringKept (w : W64) : W64 := w &&& 0x8000FFFFFFFFF000
def doneKept (w : W64) : W64 := w &&& 0x87FFFFFFFFFFF800
def portCtlKept (w : W64) : W64 := w &&& 0x80000000000007FF

/-- A base address lies in the port's host window (R375). -/
def ownWindow (p base : Nat) : Bool := (hostOf base).map (fun h => h.1) == some p

/-- HOUSE_RING is written (R375): ENABLE stays 0 unless both BASEs lie in the port's window; writing 1 restarts the ring; a
change of BASE while ENABLE stays 1 is ignored. -/
def writeHouseRing (s : State) (p : Nat) (value : W64) : State :=
  let x := portOf s p
  let w := ringKept value
  if bit x.houseRing 63 && bit w 63 && bits w 47 12 ≠ bits x.houseRing 47 12 then s
  else if bit w 63 then
    if ownWindow p (bits w 47 12 * 4096) && ownWindow p (bits x.houseDone 47 11 * 2048) then
      restartHouse (setPort s p { x with houseRing := w }) p
    else setPort s p { x with houseRing := setBits w 63 63 0 }
  else setPort s p { x with houseRing := w }

/-- HOUSE_DONE is written (R375). -/
def writeHouseDone (s : State) (p : Nat) (value : W64) : State :=
  let x := portOf s p
  let w := doneKept value
  if bit x.houseRing 63 && bits w 47 11 ≠ bits x.houseDone 47 11 then s else setPort s p { x with houseDone := w }

/-- PORT_EVENTS is written (R6, R354): REFUSED is cleared with PORT_LOST or RESET_DISCARD. -/
def writePortEvents (s : State) (p : Nat) (value : W64) : State :=
  modPort s p (fun x =>
    let cleared := bits value 3 0 &&& x.events
    { x with events := x.events - cleared, refused := if cleared ≥ 4 then 0 else x.refused })

/-- PORT_CTL is written (R354): by its own port or the jack. -/
def writePortCtl (s : State) (path : Path) (p : Nat) (value : W64) : State :=
  if path = .eth || path = .port p then modPort s p (fun x => { x with ctl := portCtlKept value }) else s

/-- A callboard entry is written (R352): for a queue bound to the port. -/
def writeCallboard (s : State) (p q : Nat) (value : W64) : State :=
  if q = p || (2 ≤ q && (queueOf s q).used && !(queueOf s q).closing && (queueOf s q).binding = p) then
    modQueue s q (fun x => { x with tail := value &&& 0xFFFFFFFF })
  else s

/-- An aperture word is written without its reserved bits (R7, R357, R358). -/
def writeAperture (s : State) (p e : Nat) (second : Bool) (value : W64) : State :=
  if !second then startAction s p e value (bit value 63)
  else if (portOf s p).apAction.isSome then s
  else modPort s p (fun x => { x with apertures := tmod {} x.apertures e (fun a => { a with w1 := value &&& 0xFFFFFF7FFFFFFFFF, odd := bit value 39 }) })

/-- A 32-bit word of the MSI-X table is written (R351, R355); the pending bits are read-only. -/
def writeMsix (s : State) (p i : Nat) (v : Nat) : State :=
  if i ≥ 8192 then s
  else
    let put := fun (f : Msix → Msix) => modPort s p (fun x => { x with msix := tmod {} x.msix (i / 4) f })
    match i % 4 with
    | 0 => put (fun e => { e with addr := BitVec.ofNat 64 (e.addr.toNat / 2 ^ 32 * 2 ^ 32 + v / 4 * 4) })
    | 1 => put (fun e => { e with addr := BitVec.ofNat 64 (v * 2 ^ 32 + e.addr.toNat % 2 ^ 32) })
    | 2 => put (fun e => { e with data := BitVec.ofNat 32 v })
    | _ => sendPending (put (fun e => { e with control := BitVec.ofNat 32 (v % 2) })) p (i / 4)

/-- A debug register is written (R221): from a host port only for a context bound to it. -/
def writeDebug (s : State) (path : Path) (i : Nat) (value : W64) : State :=
  let eng := fun (f : Engines → Engines) => if dbgSeen s path then { s with eng := f s.eng } else s
  match i with
  | 0 =>
    let s1 := { s with eng := { s.eng with dbgSel := value &&& 0x000FFFFFFE000000 } }
    if dbgSeen s1 path then s1 else s
  | 1 => dbgAct s path (bits value 7 0)
  | 3 => eng (fun e => { e with dbgAddr := value &&& 0xF000001FFFFFFFFF })
  | 4 => eng (fun e => { e with dbgData := value })
  | 5 => if dbgSeen s path then dbgSetBreak s path (value &&& 0x80000000FFFFFFFF) else s
  | _ => s

/-- A 64-bit register is written; an offset without a writable register ignores it (R6, R8). -/
def writeWide (s : State) (path : Path) (off : Nat) (value : W64) : State :=
  let i := fun (base : Nat) => (off - base) / 8
  let own := fun (f : Nat → State) => match path with
    | .port p => f p
    | .eth => s
  if 0x210 ≤ off && off < 0x220 then writePortEvents s (i 0x210) value
  else if 0x220 ≤ off && off < 0x230 then writePortCtl s path (i 0x220) value
  else if off = 0x300 then own (fun p => writeHouseRing s p value)
  else if off = 0x308 then own (fun p => writeHouseDone s p value)
  else if 0x3000 ≤ off && off < 0x3030 then writeDebug s path (i 0x3000) value
  else if 0x5000 ≤ off && off < 0x5180 then (if path = .eth then writeLinkCtl s (i 0x5000) value else s)
  else if off = 0x5400 then (if path = .eth then writePodTime s value else s)
  else if off = 0x5408 then (if bit value 61 then { s with net := { s.net with stepped := false } } else s)
  else if off = 0x5410 then
    (if path = .eth then resolvePod { s with net := { s.net with podCtl := value &&& 0x8000000000000000 } } else s)
  else if 0x20000 ≤ off && off < 0x24000 then own (fun p => writeAperture s p (i 0x20000 / 2) (i 0x20000 % 2 == 1) value)
  else if 0x1000000 ≤ off && off < 0x1002000 then own (fun p => writeCallboard s p (i 0x1000000) value)
  else s

/-- A write to BAR0 of a width in bytes (R8). -/
def writeBar0 (s : State) (path : Path) (off width : Nat) (value : W64) : State :=
  if !(width = 8 && off % 8 = 0) && !(width = 4 && off % 4 = 0 && isMsix off) then s
  else if isMsix off then
    match path with
    | .port p =>
      let k := (off - 0x8000) / 4
      let s1 := writeMsix s p k (bits value 31 0)
      if width = 8 then writeMsix s1 p (k + 1) (bits value 63 32) else s1
    | .eth => s
  else writeWide s path off value

/-! ### The rows -/

/-- REGISTER_WRITE (R6, R8). -/
def execRegisterWrite (port off width : Nat) (value : W64) (s : State) : Out :=
  .next (if (portOf s port).lost then s else writeBar0 s (.port port) off width value)

/-- HOUSE_RING_WRITE (R375). -/
def execHouseRingWrite (port : Nat) (value : W64) (s : State) : Out :=
  .next (if (portOf s port).lost then s else writeHouseRing s port value)

/-- CALLBOARD_WRITE (R352). -/
def execCallboardWrite (port queue : Nat) (value : W64) (s : State) : Out :=
  .next (if (portOf s port).lost then s else writeCallboard s port queue value)

/-- REG_READ (R479, R480): the register's value is the reply. -/
def execRegRead (tag off : Nat) (s : State) : Out :=
  .next (if tagKept s tag then s else keepReply s { tag, data := some ([readBar0 s .eth off 8], []) })

/-- REG_WRITE (R479, R480): the write is acknowledged. -/
def execRegWrite (tag off : Nat) (value : W64) (s : State) : Out :=
  .next (if tagKept s tag then s else keepReply (writeBar0 s .eth off 8 value) { tag, data := some ([], []) })

end Sys2Proof.Machine
end

