-- ==== Sys2Proof/Machine/XiAlu.lean ====
section
/-! DEFINITION. Xichai instructions that change registers only: integer, logical, predicate (R234, R235), floating (R236) and
conversion (R237). -/

namespace Sys2Proof.Machine

/-- ADD (R234, R235). -/
def execAdd (a : Agent) (s : State) : Out := laneRow 0 0x000 (intOp fAdd) a s
/-- SUB (R234, R235). -/
def execSub (a : Agent) (s : State) : Out := laneRow 0 0x001 (intOp fSub) a s
/-- MUL (R234, R235): low half. -/
def execMul (a : Agent) (s : State) : Out := laneRow 0 0x002 (intOp fMul) a s
/-- MULHI (R234): high half of the double-width product. -/
def execMulhi (a : Agent) (s : State) : Out := laneRow 0 0x003 (intOp fMulhi) a s
/-- DIV (R234, R235): toward zero. -/
def execDiv (a : Agent) (s : State) : Out := laneRow 0 0x004 (intOp fDiv) a s
/-- REM (R234, R235). -/
def execRem (a : Agent) (s : State) : Out := laneRow 0 0x005 (intOp fRem) a s
/-- MIN (R234). -/
def execImin (a : Agent) (s : State) : Out := laneRow 0 0x006 (intOp fMin) a s
/-- MAX (R234). -/
def execImax (a : Agent) (s : State) : Out := laneRow 0 0x007 (intOp fMax) a s
/-- AND (R234). -/
def execAndOp (a : Agent) (s : State) : Out := laneRow 0 0x008 (intOp fAnd) a s
/-- OR (R234). -/
def execOrOp (a : Agent) (s : State) : Out := laneRow 0 0x009 (intOp fOr) a s
/-- XOR (R234). -/
def execXorOp (a : Agent) (s : State) : Out := laneRow 0 0x00A (intOp fXor) a s
/-- NOT (R234). -/
def execNotOp (a : Agent) (s : State) : Out := laneRow 0 0x00B (intOp fNot) a s
/-- SHL (R234, R235). -/
def execShl (a : Agent) (s : State) : Out := laneRow 0 0x00C (intOp fShl) a s
/-- SHR (R234, R235): arithmetic for a signed width. -/
def execShr (a : Agent) (s : State) : Out := laneRow 0 0x00D (intOp fShr) a s
/-- POPC (R234). -/
def execPopc (a : Agent) (s : State) : Out := laneRow 0 0x00E (intOp fPopc) a s
/-- CLZ (R234). -/
def execClz (a : Agent) (s : State) : Out := laneRow 0 0x00F (intOp fClz) a s
/-- MAD (R234, R235). -/
def execMad (a : Agent) (s : State) : Out := laneRow 0 0x010 laneMad a s
/-- SETP (R234). -/
def execSetp (a : Agent) (s : State) : Out := laneRow 0 0x011 laneSetp a s
/-- SEL (R234). -/
def execSel (a : Agent) (s : State) : Out := laneRow 0 0x012 laneSel a s
/-- MOV (R234). -/
def execMov (a : Agent) (s : State) : Out := laneRow 0 0x013 (intOp fMov) a s
/-- PAND (R234). -/
def execPand (a : Agent) (s : State) : Out := laneRow 0 0x0C0 (lanePred (· && ·)) a s
/-- POR (R234). -/
def execPor (a : Agent) (s : State) : Out := laneRow 0 0x0C1 (lanePred (· || ·)) a s
/-- PXOR (R234). -/
def execPxor (a : Agent) (s : State) : Out := laneRow 0 0x0C2 (lanePred (· != ·)) a s
/-- PNOT (R234). -/
def execPnot (a : Agent) (s : State) : Out := laneRow 0 0x0C3 (lanePred (fun x _ => !x)) a s
/-- P2R (R234). -/
def execP2r (a : Agent) (s : State) : Out := laneRow 0 0x0C4 laneP2r a s
/-- R2P, the row REGISTER_TO_PREDICATES (R234). -/
def execR2p (a : Agent) (s : State) : Out := laneRow 0 0x0C5 laneR2p a s
/-- ADDI (R234). -/
def execAddi (a : Agent) (s : State) : Out := laneRow 1 0x000 (immOp false fAdd) a s
/-- MULI (R234). -/
def execMuli (a : Agent) (s : State) : Out := laneRow 1 0x001 (immOp false fMul) a s
/-- ANDI (R234): IMM zero-extended. -/
def execAndi (a : Agent) (s : State) : Out := laneRow 1 0x002 (immOp true fAnd) a s
/-- ORI (R234): IMM zero-extended. -/
def execOri (a : Agent) (s : State) : Out := laneRow 1 0x003 (immOp true fOr) a s
/-- XORI (R234): IMM zero-extended. -/
def execXori (a : Agent) (s : State) : Out := laneRow 1 0x004 (immOp true fXor) a s
/-- SHLI (R234). -/
def execShli (a : Agent) (s : State) : Out := laneRow 1 0x005 (immOp false fShl) a s
/-- SHRI (R234). -/
def execShri (a : Agent) (s : State) : Out := laneRow 1 0x006 (immOp false fShr) a s
/-- SETPI (R234). -/
def execSetpi (a : Agent) (s : State) : Out := laneRow 1 0x007 laneSetpi a s
/-- MOVI (R234): IMM sign-extended to 64 bits. -/
def execMovi (a : Agent) (s : State) : Out := laneRow 1 0x008 laneMovi a s
/-- MOVHI (R234): RD[63:32] := IMM. -/
def execMovhi (a : Agent) (s : State) : Out := laneRow 1 0x009 laneMovhi a s

/-- FADD (R236). -/
def execFadd (a : Agent) (s : State) : Out := laneRow 0 0x040 (floatOp (fun _ x y _ => vadd x y)) a s
/-- FSUB (R236). -/
def execFsub (a : Agent) (s : State) : Out := laneRow 0 0x041 (floatOp (fun _ x y _ => vsub x y)) a s
/-- FMUL (R236). -/
def execFmul (a : Agent) (s : State) : Out := laneRow 0 0x042 (floatOp (fun _ x y _ => vmul x y)) a s
/-- FFMA (R236): one rounding. -/
def execFfma (a : Agent) (s : State) : Out := laneRow 0 0x043 (floatOp (fun _ x y z => vfma x y z)) a s
/-- FDIV (R236). -/
def execFdiv (a : Agent) (s : State) : Out := laneRow 0 0x044 (floatOp (fun _ x y _ => vdiv x y)) a s
/-- FSQRT (R236). -/
def execFsqrt (a : Agent) (s : State) : Out := laneRow 0 0x045 (floatOp (fun _ x _ _ => vsqrt x)) a s
/-- FMIN (R236). -/
def execFmin (a : Agent) (s : State) : Out := laneRow 0 0x046 (floatOp (fun _ x y _ => vmin x y)) a s
/-- FMAX (R236). -/
def execFmax (a : Agent) (s : State) : Out := laneRow 0 0x047 (floatOp (fun _ x y _ => vmax x y)) a s
/-- FABS (R236). -/
def execFabs (a : Agent) (s : State) : Out := laneRow 0 0x048 (signOp true) a s
/-- FNEG (R236). -/
def execFneg (a : Agent) (s : State) : Out := laneRow 0 0x049 (signOp false) a s
/-- FSETP (R236). -/
def execFsetp (a : Agent) (s : State) : Out := laneRow 0 0x04A laneFsetp a s
/-- FRCP (R236). -/
def execFrcp (a : Agent) (s : State) : Out := laneRow 0 0x04B (floatOp (fun _ x _ _ => vrcp x)) a s
/-- FRSQRT (R236). -/
def execFrsqrt (a : Agent) (s : State) : Out := laneRow 0 0x04C (floatOp (fun _ x _ _ => vrsqrt x)) a s
/-- FEXP (R236). -/
def execFexp (a : Agent) (s : State) : Out := laneRow 0 0x04D (floatOp (fun rd x _ _ => vexp rd x)) a s
/-- FLOG (R236). -/
def execFlog (a : Agent) (s : State) : Out := laneRow 0 0x04E (floatOp (fun rd x _ _ => vlog rd x)) a s
/-- FADDI (R236): binary32. -/
def execFaddi (a : Agent) (s : State) : Out := laneRow 1 0x00A (floatImm vadd) a s
/-- FMULI (R236): binary32. -/
def execFmuli (a : Agent) (s : State) : Out := laneRow 1 0x00B (floatImm vmul) a s
/-- FCVT (R237). -/
def execFcvt (a : Agent) (s : State) : Out := laneRow 0 0x080 laneFcvt a s
/-- FTOI (R237). -/
def execFtoi (a : Agent) (s : State) : Out := laneRow 0 0x081 laneFtoi a s
/-- ITOF (R237). -/
def execItof (a : Agent) (s : State) : Out := laneRow 0 0x082 laneItof a s
/-- NOP (R240). -/
def execNopInstr (a : Agent) (s : State) : Out := laneRow 3 0x000 (fun _ l => l) a s

end Sys2Proof.Machine
end

