-- ==== Sys2Proof/Machine/Dispatch.lean ====
section
/-! DEFINITION. The dispatch of commands to their meanings, one arm per row of the opcode table. -/

namespace Sys2Proof.Machine

def exec (i : Instr) (s : State) : Host.Outcome State Fault Refusal :=
  match i with
  | .cueBoundary => Sys2Proof.Machine.execCueBoundary s
  | .callPoint => Sys2Proof.Machine.execCallPoint s
  | .houseCycleBoundary => Sys2Proof.Machine.execHouseCycleBoundary s
  | .idleTick => Sys2Proof.Machine.execIdleTick s
  | .stallWatchdog p => Sys2Proof.Machine.execStallWatchdog p s
  | .partitionIdle p => Sys2Proof.Machine.execPartitionIdle p s
  | .composePosition p => Sys2Proof.Machine.execComposePosition p s
  | .runComplete p run => Sys2Proof.Machine.execRunComplete p run s
  | .contextLoss c => Sys2Proof.Machine.execContextLoss c s
  | .wardenEstimate die counts temps => Sys2Proof.Machine.execWardenEstimate die counts temps s
  | .fullLoadPeriodEnd die => Sys2Proof.Machine.execFullLoadPeriodEnd die s
  | .stepDownDecision => Sys2Proof.Machine.execStepDownDecision s
  | .stepUpDecision => Sys2Proof.Machine.execStepUpDecision s
  | .dvfsStepChange => Sys2Proof.Machine.execDvfsStepChange s
  | .pclkStepChange => Sys2Proof.Machine.execPclkStepChange s
  | .dilutionRise p => Sys2Proof.Machine.execDilutionRise p s
  | .dilutionFall p => Sys2Proof.Machine.execDilutionFall p s
  | .idleCuePending p => Sys2Proof.Machine.execIdleCuePending p s
  | .shedAssert => Sys2Proof.Machine.execShedAssert s
  | .shedRelease => Sys2Proof.Machine.execShedRelease s
  | .flowLow tenths => Sys2Proof.Machine.execFlowLow tenths s
  | .flowRestored tenths => Sys2Proof.Machine.execFlowRestored tenths s
  | .thermalTrip die celsius => Sys2Proof.Machine.execThermalTrip die celsius s
  | .tripRecheck die celsius => Sys2Proof.Machine.execTripRecheck die celsius s
  | .flitRetry link dir data err back => Sys2Proof.Machine.execFlitRetry link dir data err back s
  | .trussLinkFailure link => Sys2Proof.Machine.execTrussLinkFailure link s
  | .tileOutOfService pos => Sys2Proof.Machine.execTileOutOfService pos s
  | .hubFailure h => Sys2Proof.Machine.execHubFailure h s
  | .fohFailover f => Sys2Proof.Machine.execFohFailover f s
  | .mirrorLinkDown => Sys2Proof.Machine.execMirrorLinkDown s
  | .partitionReset p tr => Sys2Proof.Machine.execPartitionReset p tr s
  | .coldReset tr => Sys2Proof.Machine.execColdReset tr s
  | .deviceReset tr => Sys2Proof.Machine.execDeviceReset tr s
  | .deviceReady => Sys2Proof.Machine.execDeviceReady s
  | .sigIndexReserve stored => Sys2Proof.Machine.execSigIndexReserve stored s
  | .nop q => Sys2Proof.Machine.execNop q s
  | .fenceSignal q => Sys2Proof.Machine.execFenceSignal q s
  | .fenceWait q => Sys2Proof.Machine.execFenceWait q s
  | .fenceWaitRead q => Sys2Proof.Machine.execFenceWaitRead q s
  | .order q => Sys2Proof.Machine.execOrder q s
  | .copy q => Sys2Proof.Machine.execCopy q s
  | .fill q => Sys2Proof.Machine.execFill q s
  | .copyChecked q => Sys2Proof.Machine.execCopyChecked q s
  | .copyComplete q => Sys2Proof.Machine.execCopyComplete q s
  | .playLoad q plan => Sys2Proof.Machine.execPlayLoad q plan s
  | .playRun q => Sys2Proof.Machine.execPlayRun q s
  | .playUnload q => Sys2Proof.Machine.execPlayUnload q s
  | .map q picks => Sys2Proof.Machine.execMap q picks s
  | .unmap q => Sys2Proof.Machine.execUnmap q s
  | .asInvalidate q => Sys2Proof.Machine.execAsInvalidate q s
  | .objCreate q picks => Sys2Proof.Machine.execObjCreate q picks s
  | .objRelease q => Sys2Proof.Machine.execObjRelease q s
  | .objectReleaseEnd obj => Sys2Proof.Machine.execObjectReleaseEnd obj s
  | .contextCreate q picks => Sys2Proof.Machine.execContextCreate q picks s
  | .contextDestroy q => Sys2Proof.Machine.execContextDestroy q s
  | .abort q idx => Sys2Proof.Machine.execAbort q idx s
  | .abortEffect q idx => Sys2Proof.Machine.execAbortEffect q idx s
  | .energyQuery q => Sys2Proof.Machine.execEnergyQuery q s
  | .windowOpen q => Sys2Proof.Machine.execWindowOpen q s
  | .windowClose q => Sys2Proof.Machine.execWindowClose q s
  | .queueCreate q => Sys2Proof.Machine.execQueueCreate q s
  | .queueDestroy q => Sys2Proof.Machine.execQueueDestroy q s
  | .partitionSet q => Sys2Proof.Machine.execPartitionSet q s
  | .resetPartition q => Sys2Proof.Machine.execResetPartition q s
  | .resetDevice q => Sys2Proof.Machine.execResetDevice q s
  | .tileReset q tr => Sys2Proof.Machine.execTileReset q tr s
  | .tileMap q => Sys2Proof.Machine.execTileMap q s
  | .powerCap q => Sys2Proof.Machine.execPowerCap q s
  | .clockStep q => Sys2Proof.Machine.execClockStep q s
  | .calibrate q => Sys2Proof.Machine.execCalibrate q s
  | .powerState q => Sys2Proof.Machine.execPowerState q s
  | .healthRead q => Sys2Proof.Machine.execHealthRead q s
  | .routeSet q => Sys2Proof.Machine.execRouteSet q s
  | .linkTrust q => Sys2Proof.Machine.execLinkTrust q s
  | .ethSet q => Sys2Proof.Machine.execEthSet q s
  | .peerSet q => Sys2Proof.Machine.execPeerSet q s
  | .qpSet q => Sys2Proof.Machine.execQpSet q s
  | .fwStage q => Sys2Proof.Machine.execFwStage q s
  | .fwCommit q => Sys2Proof.Machine.execFwCommit q s
  | .attest q => Sys2Proof.Machine.execAttest q s
  | .ownerKey q => Sys2Proof.Machine.execOwnerKey q s
  | .command tag packet data => Sys2Proof.Machine.execCommand tag packet data s
  | .regRead tag off => Sys2Proof.Machine.execRegRead tag off s
  | .regWrite tag off value => Sys2Proof.Machine.execRegWrite tag off value s
  | .registerWrite port off width value => Sys2Proof.Machine.execRegisterWrite port off width value s
  | .callboardWrite port queue value => Sys2Proof.Machine.execCallboardWrite port queue value s
  | .houseRingWrite port value => Sys2Proof.Machine.execHouseRingWrite port value s
  | .apertureInstall port e value => Sys2Proof.Machine.execApertureInstall port e value s
  | .apertureRemove port e value => Sys2Proof.Machine.execApertureRemove port e value s
  | .apertureActionEnd port => Sys2Proof.Machine.execApertureActionEnd port s
  | .msixUnmask port vec control => Sys2Proof.Machine.execMsixUnmask port vec control s
  | .bar2Resize port log2 => Sys2Proof.Machine.execBar2Resize port log2 s
  | .gpDebugHalt path => Sys2Proof.Machine.execGpDebugHalt path s
  | .gpDebugResume path => Sys2Proof.Machine.execGpDebugResume path s
  | .gpDebugStep path => Sys2Proof.Machine.execGpDebugStep path s
  | .gpDebugRead path => Sys2Proof.Machine.execGpDebugRead path s
  | .gpDebugWrite path => Sys2Proof.Machine.execGpDebugWrite path s
  | .gpDebugActionEnd => Sys2Proof.Machine.execGpDebugActionEnd s
  | .linkRetrain l => Sys2Proof.Machine.execLinkRetrain l s
  | .podTimeWrite path ns => Sys2Proof.Machine.execPodTimeWrite path ns s
  | .bar0AtomicOp port off op size operand comparand => Sys2Proof.Machine.execBar0AtomicOp port off op size operand comparand s
  | .bar2Read port off len => Sys2Proof.Machine.execBar2Read port off len s
  | .bar2Write port off data poisoned => Sys2Proof.Machine.execBar2Write port off data poisoned s
  | .bar2AtomicOp port off op size operand comparand => Sys2Proof.Machine.execBar2AtomicOp port off op size operand comparand s
  | .linkDown port bmeCleared => Sys2Proof.Machine.execLinkDown port bmeCleared s
  | .linkReturned port gen lanes => Sys2Proof.Machine.execLinkReturned port gen lanes s
  | .holdLimit port => Sys2Proof.Machine.execHoldLimit port s
  | .hotReset port => Sys2Proof.Machine.execHotReset port s
  | .flr port => Sys2Proof.Machine.execFlr port s
  | .completionTimeout port tag => Sys2Proof.Machine.execCompletionTimeout port tag s
  | .poisonedCompletion port tag => Sys2Proof.Machine.execPoisonedCompletion port tag s
  | .malformedTlp port => Sys2Proof.Machine.execMalformedTlp port s
  | .receiverError port => Sys2Proof.Machine.execReceiverError port s
  | .mxeWorkList t u => Sys2Proof.Machine.execMxeWorkList t u s
  | .pass t u => Sys2Proof.Machine.execPass t u s
  | .combine t u => Sys2Proof.Machine.execCombine t u s
  | .finish t u => Sys2Proof.Machine.execFinish t u s
  | .save t u => Sys2Proof.Machine.execSave t u s
  | .partialSum t u => Sys2Proof.Machine.execPartialSum t u s
  | .vxeWorkList t u => Sys2Proof.Machine.execVxeWorkList t u s
  | .vectorAdd t u => Sys2Proof.Machine.execVectorAdd t u s
  | .vectorSub t u => Sys2Proof.Machine.execVectorSub t u s
  | .vectorMul t u => Sys2Proof.Machine.execVectorMul t u s
  | .vectorFma t u => Sys2Proof.Machine.execVectorFma t u s
  | .vectorDiv t u => Sys2Proof.Machine.execVectorDiv t u s
  | .vectorMin t u => Sys2Proof.Machine.execVectorMin t u s
  | .vectorMax t u => Sys2Proof.Machine.execVectorMax t u s
  | .vectorAbs t u => Sys2Proof.Machine.execVectorAbs t u s
  | .vectorNeg t u => Sys2Proof.Machine.execVectorNeg t u s
  | .scaleAdd t u => Sys2Proof.Machine.execScaleAdd t u s
  | .vectorClamp t u => Sys2Proof.Machine.execVectorClamp t u s
  | .vectorSelect t u => Sys2Proof.Machine.execVectorSelect t u s
  | .vectorConvert t u => Sys2Proof.Machine.execVectorConvert t u s
  | .vectorSqrt t u => Sys2Proof.Machine.execVectorSqrt t u s
  | .vectorRsqrt t u => Sys2Proof.Machine.execVectorRsqrt t u s
  | .vectorRcp t u => Sys2Proof.Machine.execVectorRcp t u s
  | .vectorExp t u => Sys2Proof.Machine.execVectorExp t u s
  | .vectorLog t u => Sys2Proof.Machine.execVectorLog t u s
  | .vectorTanh t u => Sys2Proof.Machine.execVectorTanh t u s
  | .vectorSigmoid t u => Sys2Proof.Machine.execVectorSigmoid t u s
  | .vectorErf t u => Sys2Proof.Machine.execVectorErf t u s
  | .vectorCmp t u => Sys2Proof.Machine.execVectorCmp t u s
  | .maskLoad t u => Sys2Proof.Machine.execMaskLoad t u s
  | .reduceSum t u => Sys2Proof.Machine.execReduceSum t u s
  | .reduceMax t u => Sys2Proof.Machine.execReduceMax t u s
  | .reduceMin t u => Sys2Proof.Machine.execReduceMin t u s
  | .reduceArgmax t u => Sys2Proof.Machine.execReduceArgmax t u s
  | .reduceSumsq t u => Sys2Proof.Machine.execReduceSumsq t u s
  | .expSubSum t u => Sys2Proof.Machine.execExpSubSum t u s
  | .rmsScale t u => Sys2Proof.Machine.execRmsScale t u s
  | .meanVar t u => Sys2Proof.Machine.execMeanVar t u s
  | .gather t u => Sys2Proof.Machine.execGather t u s
  | .scatter t u => Sys2Proof.Machine.execScatter t u s
  | .scatterAdd t u => Sys2Proof.Machine.execScatterAdd t u s
  | .sgdMomentum t u => Sys2Proof.Machine.execSgdMomentum t u s
  | .adamw t u => Sys2Proof.Machine.execAdamw t u s
  | .gpWorkList t u => Sys2Proof.Machine.execGpWorkList t u s
  | .blockRelease t u => Sys2Proof.Machine.execBlockRelease t u s
  | .moverWorkList t u => Sys2Proof.Machine.execMoverWorkList t u s
  | .transferRecord t u => Sys2Proof.Machine.execTransferRecord t u s
  | .transferTile job => Sys2Proof.Machine.execTransferTile job s
  | .signalNode p run node => Sys2Proof.Machine.execSignalNode p run node s
  | .windowPut p run node xfer => Sys2Proof.Machine.execWindowPut p run node xfer s
  | .windowGet p run node xfer => Sys2Proof.Machine.execWindowGet p run node xfer s
  | .copyLeavingPartition p run node xfer => Sys2Proof.Machine.execCopyLeavingPartition p run node xfer s
  | .tableWalk stream c va => Sys2Proof.Machine.execTableWalk stream c va s
  | .rdShared x line => Sys2Proof.Machine.execRdShared x line s
  | .rdOwn x line => Sys2Proof.Machine.execRdOwn x line s
  | .ownNodata x line => Sys2Proof.Machine.execOwnNodata x line s
  | .upgrade x line => Sys2Proof.Machine.execUpgrade x line s
  | .putS x line => Sys2Proof.Machine.execPutS x line s
  | .putE x line => Sys2Proof.Machine.execPutE x line s
  | .putM x line => Sys2Proof.Machine.execPutM x line s
  | .readOnce c pa len => Sys2Proof.Machine.execReadOnce c pa len s
  | .writeInv c pa mask data => Sys2Proof.Machine.execWriteInv c pa mask data s
  | .homeAtomic c pa op size operand comparand => Sys2Proof.Machine.execHomeAtomic c pa op size operand comparand s
  | .downgrade y line => Sys2Proof.Machine.execDowngrade y line s
  | .invalidate y line => Sys2Proof.Machine.execInvalidate y line s
  | .readOnceSnoop y line => Sys2Proof.Machine.execReadOnceSnoop y line s
  | .grant x line => Sys2Proof.Machine.execGrant x line s
  | .darkPeriod stack ch lanes => Sys2Proof.Machine.execDarkPeriod stack ch lanes s
  | .forcedDark stack ch lanes => Sys2Proof.Machine.execForcedDark stack ch lanes s
  | .burstRetry pa first reread lanes again => Sys2Proof.Machine.execBurstRetry pa first reread lanes again s
  | .uncorrectableBurst pa => Sys2Proof.Machine.execUncorrectableBurst pa s
  | .laneLossOfLock stack ch lane => Sys2Proof.Machine.execLaneLossOfLock stack ch lane s
  | .stackFailure stack => Sys2Proof.Machine.execStackFailure stack s
  | .caps l attempt body => Sys2Proof.Machine.execCaps l attempt body s
  | .hello l attempt body => Sys2Proof.Machine.execHello l attempt body s
  | .proof l attempt body => Sys2Proof.Machine.execProof l attempt body s
  | .refuse l attempt body => Sys2Proof.Machine.execRefuse l attempt body s
  | .timeout l => Sys2Proof.Machine.execTimeout l s
  | .quarantineRetry l => Sys2Proof.Machine.execQuarantineRetry l s
  | .tenonLinkDown l => Sys2Proof.Machine.execTenonLinkDown l s
  | .write l header payload sig => Sys2Proof.Machine.execWrite l header payload sig s
  | .readReq l header payload => Sys2Proof.Machine.execReadReq l header payload s
  | .readResp l header payload => Sys2Proof.Machine.execReadResp l header payload s
  | .signal l header payload => Sys2Proof.Machine.execSignal l header payload s
  | .ack l header payload => Sys2Proof.Machine.execAck l header payload s
  | .ackTimeout xfer => Sys2Proof.Machine.execAckTimeout xfer s
  | .timeAnnouncement now => Sys2Proof.Machine.execTimeAnnouncement now s
  | .announce l header payload arrived departed => Sys2Proof.Machine.execAnnounce l header payload arrived departed s
  | .reply l header payload arrived => Sys2Proof.Machine.execReply l header payload arrived s
  | .lockLoss => Sys2Proof.Machine.execLockLoss s
  | .tenonDatagram port peer transport packet payload sig => Sys2Proof.Machine.execTenonDatagram port peer transport packet payload sig s
  | .retransmission port peer => Sys2Proof.Machine.execRetransmission port peer s
  | .rdmaWrite port qpn psn rkey va first last ce payload => Sys2Proof.Machine.execRdmaWrite port qpn psn rkey va first last ce payload s
  | .rdmaReadRequest port qpn psn rkey va len ce => Sys2Proof.Machine.execRdmaReadRequest port qpn psn rkey va len ce s
  | .arpRequest port ip => Sys2Proof.Machine.execArpRequest port ip s
  | .neighborSolicitation port ip => Sys2Proof.Machine.execNeighborSolicitation port ip s
  | .echoRequest port ip data => Sys2Proof.Machine.execEchoRequest port ip data s
  | .pause port prio quanta => Sys2Proof.Machine.execPause port prio quanta s
  | .interrupt c => Sys2Proof.Machine.execInterrupt c s
  | .add a => Sys2Proof.Machine.execAdd a s
  | .sub a => Sys2Proof.Machine.execSub a s
  | .mul a => Sys2Proof.Machine.execMul a s
  | .mulhi a => Sys2Proof.Machine.execMulhi a s
  | .div a => Sys2Proof.Machine.execDiv a s
  | .rem a => Sys2Proof.Machine.execRem a s
  | .imin a => Sys2Proof.Machine.execImin a s
  | .imax a => Sys2Proof.Machine.execImax a s
  | .andOp a => Sys2Proof.Machine.execAndOp a s
  | .orOp a => Sys2Proof.Machine.execOrOp a s
  | .xorOp a => Sys2Proof.Machine.execXorOp a s
  | .notOp a => Sys2Proof.Machine.execNotOp a s
  | .shl a => Sys2Proof.Machine.execShl a s
  | .shr a => Sys2Proof.Machine.execShr a s
  | .popc a => Sys2Proof.Machine.execPopc a s
  | .clz a => Sys2Proof.Machine.execClz a s
  | .mad a => Sys2Proof.Machine.execMad a s
  | .setp a => Sys2Proof.Machine.execSetp a s
  | .sel a => Sys2Proof.Machine.execSel a s
  | .mov a => Sys2Proof.Machine.execMov a s
  | .pand a => Sys2Proof.Machine.execPand a s
  | .por a => Sys2Proof.Machine.execPor a s
  | .pxor a => Sys2Proof.Machine.execPxor a s
  | .pnot a => Sys2Proof.Machine.execPnot a s
  | .p2r a => Sys2Proof.Machine.execP2r a s
  | .r2p a => Sys2Proof.Machine.execR2p a s
  | .addi a => Sys2Proof.Machine.execAddi a s
  | .muli a => Sys2Proof.Machine.execMuli a s
  | .andi a => Sys2Proof.Machine.execAndi a s
  | .ori a => Sys2Proof.Machine.execOri a s
  | .xori a => Sys2Proof.Machine.execXori a s
  | .shli a => Sys2Proof.Machine.execShli a s
  | .shri a => Sys2Proof.Machine.execShri a s
  | .setpi a => Sys2Proof.Machine.execSetpi a s
  | .movi a => Sys2Proof.Machine.execMovi a s
  | .movhi a => Sys2Proof.Machine.execMovhi a s
  | .fadd a => Sys2Proof.Machine.execFadd a s
  | .fsub a => Sys2Proof.Machine.execFsub a s
  | .fmul a => Sys2Proof.Machine.execFmul a s
  | .ffma a => Sys2Proof.Machine.execFfma a s
  | .fdiv a => Sys2Proof.Machine.execFdiv a s
  | .fsqrt a => Sys2Proof.Machine.execFsqrt a s
  | .fmin a => Sys2Proof.Machine.execFmin a s
  | .fmax a => Sys2Proof.Machine.execFmax a s
  | .fabs a => Sys2Proof.Machine.execFabs a s
  | .fneg a => Sys2Proof.Machine.execFneg a s
  | .fsetp a => Sys2Proof.Machine.execFsetp a s
  | .frcp a => Sys2Proof.Machine.execFrcp a s
  | .frsqrt a => Sys2Proof.Machine.execFrsqrt a s
  | .fexp a => Sys2Proof.Machine.execFexp a s
  | .flog a => Sys2Proof.Machine.execFlog a s
  | .faddi a => Sys2Proof.Machine.execFaddi a s
  | .fmuli a => Sys2Proof.Machine.execFmuli a s
  | .fcvt a => Sys2Proof.Machine.execFcvt a s
  | .ftoi a => Sys2Proof.Machine.execFtoi a s
  | .itof a => Sys2Proof.Machine.execItof a s
  | .load a => Sys2Proof.Machine.execLoad a s
  | .store a => Sys2Proof.Machine.execStore a s
  | .zline a => Sys2Proof.Machine.execZline a s
  | .prefetch a => Sys2Proof.Machine.execPrefetch a s
  | .memFence a => Sys2Proof.Machine.execMemFence a s
  | .aadd a => Sys2Proof.Machine.execAadd a s
  | .afadd a => Sys2Proof.Machine.execAfadd a s
  | .amin a => Sys2Proof.Machine.execAmin a s
  | .amax a => Sys2Proof.Machine.execAmax a s
  | .aand a => Sys2Proof.Machine.execAand a s
  | .aor a => Sys2Proof.Machine.execAor a s
  | .axor a => Sys2Proof.Machine.execAxor a s
  | .aswap a => Sys2Proof.Machine.execAswap a s
  | .acas a => Sys2Proof.Machine.execAcas a s
  | .nopInstr a => Sys2Proof.Machine.execNopInstr a s
  | .bra a => Sys2Proof.Machine.execBra a s
  | .brx a => Sys2Proof.Machine.execBrx a s
  | .call a => Sys2Proof.Machine.execCall a s
  | .exitThread a => Sys2Proof.Machine.execExitThread a s
  | .barBlock a => Sys2Proof.Machine.execBarBlock a s
  | .barCluster a => Sys2Proof.Machine.execBarCluster a s
  | .trap a => Sys2Proof.Machine.execTrap a s
  | .eret a => Sys2Proof.Machine.execEret a s
  | .wfi a => Sys2Proof.Machine.execWfi a s
  | .sread a => Sys2Proof.Machine.execSread a s
  | .swrite a => Sys2Proof.Machine.execSwrite a s
  | .shflIdx a => Sys2Proof.Machine.execShflIdx a s
  | .shflUp a => Sys2Proof.Machine.execShflUp a s
  | .shflDown a => Sys2Proof.Machine.execShflDown a s
  | .shflXor a => Sys2Proof.Machine.execShflXor a s
  | .voteAll a => Sys2Proof.Machine.execVoteAll a s
  | .voteAny a => Sys2Proof.Machine.execVoteAny a s
  | .voteBallot a => Sys2Proof.Machine.execVoteBallot a s
  | .barGroup a => Sys2Proof.Machine.execBarGroup a s
  | .gmma a => Sys2Proof.Machine.execGmma a s
  | .wclkHouseCycle => Sys2Proof.Machine.execWclkHouseCycle s
  | .busbarPowerLoss => Sys2Proof.Machine.execBusbarPowerLoss s
  | .busMasterEnableSet port => Sys2Proof.Machine.execBusMasterEnableSet port s
  | .readCompletion port tag data => Sys2Proof.Machine.execReadCompletion port tag data s
  | .phyTrained l ok => Sys2Proof.Machine.execPhyTrained l ok s
  | .ethernetLinkUp l rate => Sys2Proof.Machine.execEthernetLinkUp l rate s
  | .ethernetLinkDown l => Sys2Proof.Machine.execEthernetLinkDown l s
  | .frameRetry l seq => Sys2Proof.Machine.execFrameRetry l seq s
  | .linkCtlWrite path l value => Sys2Proof.Machine.execLinkCtlWrite path l value s
  | .modulePartFault part => Sys2Proof.Machine.execModulePartFault part s
  | .badOpcodePacket q => Sys2Proof.Machine.execBadOpcodePacket q s
  | .illegalWord c => Sys2Proof.Machine.execIllegalWord c s

end Sys2Proof.Machine
end

