-- ==== Sys2Proof/Safety.lean ====
section
/-! DEFINITION. What a safe run keeps, and the words in which the statements speak of an issuer, a command and a record. -/

namespace Sys2Proof.Machine

/-- The canonical form of memory: addresses strictly rising, and no entry equal to what an unlisted address reads as. -/
def Memory.wf (m : List Host.Cell) : Bool := twf 0 m

/-! ### Xichai issuers -/

/-- A core reads the instruction (`f`, `op`) as its next word `w`, and no interrupt comes first (R226, R242, R245, R249). -/
structure CoreIssues (s : State) (c f op : Nat) (w : W64) : Prop where
  runs : coreRuns s c = true
  free : coreHeld s c = false
  calm : interruptDue (coreOf s c) = false
  fetched : coreFetch s c = .word w
  fmt : xFmt w = f
  opcode : xOp w = op
  legal : legalOnCore w = true

/-- The next issue of a group processor is the instruction (`f`, `op`), for group slot `k` (R205, R206, R242). -/
structure GpIssues (s : State) (t g f op k : Nat) (i : Issue) : Prop where
  due : gpIssue s t g = some (k, i)
  unbroken : breakHits s t g k i.pc = false
  fmt : xFmt i.word = f
  opcode : xOp i.word = op
  legal : legalOnGp i.word = true

/-- A core that has finished its instruction and goes on at `pc`, a virtual address of 55 bits, with registers `l`; all its other
registers are as they were. -/
def Core.onTo (x : Core) (pc : Nat) (l : Lane) : Core :=
  { x with g := l.g, p := l.p, pc := pc % 2 ^ 55, fetched := none, arrived := none, waiting := false }

/-- Only core `c` differs, and it holds `x`; beside it, its L1 instruction cache and the order of use of the lines of an L2 may
differ, while every L2 holds the lines it held with their states and bytes (R251). -/
def OnlyCore (s t : State) (c : Nat) (x : Core) : Prop :=
  t = { s with cores := t.cores, coh := { s.coh with l2 := t.coh.l2, l1i := t.coh.l1i } } ∧ coreOf t c = x ∧
  (∀ d, d ≠ c → coreOf t d = coreOf s d ∧ tget [] t.coh.l1i d = tget [] s.coh.l1i d) ∧ ∀ y line, l2Find t y line = l2Find s y line

/-- A group processor once an issue of group slot `k` is counted. -/
def Gp.issued (x : Gp) (k : Nat) : Gp :=
  { x with lead := k, stepping := if x.stepping.testBit k then x.stepping - 2 ^ k else x.stepping }

/-- Only group processor `g` of tile `t` differs: the issue of slot `k` is counted, and thread `n` holds what `f` makes of
it. -/
def OnlyThreads (s u : State) (t g k : Nat) (f : Nat → Thread → Thread) : Prop :=
  u = { s with eng := { s.eng with gp := u.eng.gp } } ∧
  (∀ t' g', 16 * t' + g' ≠ 16 * t + g → gpOf u t' g' = gpOf s t' g') ∧
  gpOf u t g = { (gpOf s t g).issued k with threads := (gpOf u t g).threads } ∧
  ∀ n, threadAt (gpOf u t g) n = f n (threadAt (gpOf s t g) n)

/-- A row on cores: `eff` changes the registers where the guard is on; the next word follows (R226, R232). -/
def OnCores (row : Agent → Instr) (f op : Nat) (eff : W64 → Lane → Lane) : Prop :=
  ∀ s c w, CoreIssues s c f op w →
    ∃ t, exec (row (.core c)) s = .next t ∧
      OnlyCore s t c ((coreOf s c).onTo ((coreOf s c).pc + 8)
        (if guardOk w (coreOf s c).p then eff w (coreLane (coreOf s c)) else coreLane (coreOf s c)))

/-- A row on group processors: `eff` changes the registers of every thread of the issue whose guard is on; each thread of
the issue goes on at the next word (R206, R226, R232). Past the last word the issue traps with BAD_TARGET (R240). -/
def OnGps (row : Agent → Instr) (f op : Nat) (eff : W64 → Lane → Lane) : Prop :=
  ∀ s t g k i, GpIssues s t g f op k i →
    if fallsOut s t g i.pc then
      exec (row (.gp t g)) s = .next (gpTrap (countIssue s t g k) t g stTrap 0x03 (BitVec.ofNat 64 (i.pc + 8)) i.pc)
    else
      ∃ u, exec (row (.gp t g)) s = .next u ∧
        OnlyThreads s u t g k (fun n x =>
          if n ∈ i.threads then
            let l : Lane := { g := x.g, p := x.p }
            let l' := if guardOk i.word x.p then eff i.word l else l
            { x with g := l'.g, p := l'.p, pc := x.pc + 8 }
          else x)

/-- A row that changes registers only, on both kinds of issuer. -/
def ChangesRegisters (row : Agent → Instr) (f op : Nat) (eff : W64 → Lane → Lane) : Prop :=
  OnCores row f op eff ∧ OnGps row f op eff

/-- An integer row of format A writes RD a value that stands in `rel` to its word and the registers read, on a core and on
every thread of a group processor's issue whose guard is on; nothing traps. -/
def WritesRd (row : Agent → Instr) (op : Nat) (rel : W64 → Lane → W64 → Prop) : Prop :=
  (∀ s c w, CoreIssues s c 0 op w → guardOk w (coreOf s c).p = true →
    ∃ t v, exec (row (.core c)) s = .next t ∧ rel w (coreLane (coreOf s c)) v ∧
      OnlyCore s t c ((coreOf s c).onTo ((coreOf s c).pc + 8) ((coreLane (coreOf s c)).put (xRd w) v))) ∧
  ∀ s t g k i, GpIssues s t g 0 op k i → fallsOut s t g i.pc = false →
    ∃ u, exec (row (.gp t g)) s = .next u ∧ u = { s with eng := { s.eng with gp := u.eng.gp } } ∧
      ∀ n ∈ i.threads, guardOk i.word (threadAt (gpOf s t g) n).p = true →
        ∃ v, rel i.word (laneOf s t g n) v ∧
          threadAt (gpOf u t g) n = { threadAt (gpOf s t g) n with
            g := tput 0 (threadAt (gpOf s t g) n).g (xRd i.word) v, pc := (threadAt (gpOf s t g) n).pc + 8 }

/-- A value of width code `code` as it stands in a register: the bits above its width repeat the sign, or are 0 (R225). -/
def Extended (code : Nat) (v : W64) : Prop := v = intTo code (intOf code v)

/-- The value agrees with an exact result modulo its width, and is extended (R225, R235). -/
def WrapsTo (code : Nat) (x : Int) (v : W64) : Prop :=
  (v.toNat : Int) % (2 ^ iwBits code : Nat) = x % (2 ^ iwBits code : Nat) ∧ Extended code v

/-- A group processor once these threads have stopped at the collective at `pc` with mask `m`. -/
def Gp.stopAt (x : Gp) (ns : List Nat) (pc m : Nat) : Gp :=
  { x with threads := ns.foldl (fun l n => tmod {} l n (fun y => { y with st := .collective pc m })) x.threads }

/-- A collective row (R207, R208, R231): threads of an issue that agree on a mask stop at the collective; once every lane of
the mask holds a thread stopped at it with that mask, the members execute it together, each taking the registers that `f` gives
its lane from those of all lanes, and go on at the next word; where members stand at another collective, or have exited, none
executes and what was stopped traps. A mask without the own lane, or that is not whole for BAR.GROUP and GMMA, traps. -/
def CollectiveDoes (row : Agent → Instr) (op : Nat) (f : Collective) : Prop :=
  (∀ s t g k i m, GpIssues s t g 4 op k i → fallsOut s t g i.pc = false → i.threads ≠ [] →
    (∀ n ∈ i.threads, n / 32 = k ∧ memberMask i.word (laneOf s t g n) = m ∧ maskOk i.word (n % 32) m = true) →
    ∃ u, exec (row (.gp t g)) s = .next (settleGp u t g) ∧
      OnlyThreads s u t g k (fun n x =>
        if mismatchAt ((gpOf s t g).stopAt i.threads i.pc m) k = none ∧ (∀ l ∈ bitList m 32, 32 * k + l < (gpOf s t g).blk.threads ∧
              (32 * k + l ∈ i.threads ∨ (threadAt (gpOf s t g) (32 * k + l)).st = .collective i.pc m)) ∧
            n / 32 = k ∧ m.testBit (n % 32) = true then
          let l := f i.word (unitOf s t (8 + g)).legacy (fun j => laneOf s t g (32 * k + j)) m (n % 32)
          { x with g := l.g, p := l.p, st := .ready, pc := i.pc + 8 }
        else if n ∈ i.threads then { x with st := .collective i.pc m }
        else x)) ∧
  ∀ s t g k i n, GpIssues s t g 4 op k i → n ∈ i.threads →
    maskOk i.word (n % 32) (memberMask i.word (laneOf s t g n)) = false →
    exec (row (.gp t g)) s = .next (gpTrap (countIssue s t g k) t g stCollective 0x22 (BitVec.ofNat 64 i.pc) i.pc)

/-! ### Engine records -/

/-- Vector engine `u` of a tile that runs has reached record `w`, of operation `code` and free of errors (R189, R191). -/
structure VecDue (s : State) (t u code : Nat) (w : VWork) : Prop where
  cur : curVec s t u = some w
  runs : tileRuns s t = true
  unit : u < 4
  op : w.r.op = code
  sound : vecError s t w = false

/-! ### Commands of queues -/

/-- The command `c` at the head of queue `q` has started, its opcode is `op`, its own work has not begun, and it passes the
call desk's checks (R380, R383). -/
structure CmdDue (s : State) (q op : Nat) (c : Cmd) : Prop where
  due : dueCmd s q op = some c
  own : cmdOf s q c.idx = some c
  passes : deskCheck s q (wordAt c.words 0) = none
  live : actsOnFree s q (wordAt c.words 0) = false

/-- The outcome of command `c` of queue `q` is fixed: its record, due at the next boundary, will carry this status and result
and neither holds, energy nor flags (R380, R384). Nothing else of the state differs. -/
def outcome (s : State) (q : Nat) (c : Cmd) (status : Nat) (result : W64) : State :=
  modCmd s q c.idx (fun _ => { c with fin := some (plainDone (s.clk.cue + 1) status result) })

/-- The record of command `c` of queue `q` has been written at this boundary with this status (R384, R404). -/
def Recorded (t : State) (q : Nat) (c : Cmd) (status : Nat) : Prop :=
  (pktSeq (wordAt c.words 0), status, t.clk.cue) ∈ (queueOf t q).recent

end Sys2Proof.Machine
end

