-- ==== Sys2Proof/Certificates/Slice0/Obligations.lean ====
section
/-! DEFINITION. The statements for the provers, from the numbered rules of the spec. -/

open Sys2Proof Sys2Proof.Machine

/-- A step runs the command at the front of the queue with the queue's rest. With no command waiting the block idles (the model's choice,
log 1). No row of the opcode table gives bits, so no word spells a command. -/
def Obligations.StepRunsTheFrontCommand : Prop :=
  (∀ s c rest, s.pending = c :: rest → step s = exec c { s with pending := rest }) ∧
  (∀ c s, step { s with pending := c :: s.pending } = exec c s) ∧
  (∀ s, s.pending = [] → step s = .next s) ∧
  ∀ n w, decodeTableWord n w = none ∧ ∀ s, State.withFetchWord s n w = s

/-- Every command, in every state, answers a next state and leaves the queue of waiting commands as it was: no command faults and none is
refused (a command that is not due changes nothing, the model's reading, log 2). -/
def Obligations.EveryCommandAnswersAndKeepsTheQueue : Prop :=
  ∀ c s, ∃ t, exec c s = .next t ∧ t.pending = s.pending

/-- Every step keeps memory in its canonical form: addresses strictly rising, and no byte listed that an unlisted one equals. Equal
memories are then equal data, whatever wrote them: cores, engines, movers, hosts, packets or the house. -/
def Obligations.MemoryStaysCanonical : Prop :=
  ∀ s t, Memory.wf s.mem.cells = true → step s = .next t → Memory.wf t.mem.cells = true

/-- The memory of the reset state lists nothing, so that every byte of stack memory reads 0 (R291, R495), and is in canonical form. -/
def Obligations.ResetMemoryIsEmpty : Prop :=
  Memory.wf State.reset.mem.cells = true ∧ ∀ a, readByte State.reset a = 0

/-- R43, R254, R305, R354, R375, R396, R406, R417, R432, R453, R477, R484, R498: the registers hold at reset the values that their tables give, as
the paths read them; what the tables take from flash and fuses is empty (the model's choice, logs 6, 7 and 12). -/
def Obligations.RegistersResetToTheirTables : Prop :=
  let s := State.reset
  let word := fun (off : Nat) => readBar0 s .eth off 8
  word 0x10 = 0 ∧ word 0x100 = 0 ∧ word 0x108 = 0xA0A ∧ word 0x200 = 0 ∧ word 0x208 = 0 ∧ word 0x210 = 0 ∧ word 0x218 = 0 ∧
  word 0x220 = 0 ∧ word 0x228 = 0 ∧ readBar0 s (.port 0) 0x230 8 = 0 ∧ readBar0 s (.port 0) 0x300 8 = 0 ∧ readBar0 s (.port 1) 0x308 8 = 0 ∧
  (∀ p, p < 8 → word (0x400 + 8 * p) = 0) ∧ (∀ h, h < 8 → word (0x4000 + 8 * h) = 0x5A0000) ∧ (∀ k, k < 16 → word (0x4100 + 8 * k) = 0) ∧
  (∀ l, l < 48 → word (0x5000 + 8 * l) = 0x8700000000000000 ∧ word (0x5200 + 8 * l) = 0) ∧
  word 0x5400 = 0 ∧ word 0x5408 = 0x00FF000000000000 ∧ word 0x5410 = 0 ∧ word 0x5500 = 0 ∧ (∀ hub g, g ≠ 0 → routeOf s hub g = 0xFF) ∧
  word 0x6000 = 0x00001388F9C00000 ∧ (∀ p, p < 8 → word (0x6040 + 8 * p) = 0) ∧ word 0x6080 = 0x0000690000000000 ∧ word 0x6088 = 0 ∧
  word 0x7000 = 0x0100 ∧ word 0x7008 = 0 ∧ word 0x7010 = 0 ∧ word 0x7018 = 0 ∧ (∀ i, i < 32 → word (0x7100 + 8 * i) = 0) ∧
  (∀ i w, i < 262144 → w < 8 → word (0x2000000 + 64 * i + 8 * w) = 0) ∧ s.pending = []

/-- R234, R235: on a core and on every thread of a group processor's issue, the integer rows read their sources at the
width of TYPE, compute the exact result, wrap it at the width into RD (or set PD) and go on at the next word; a thread or
core whose guard is off only goes on (R232). All other registers, threads, cores and state are unchanged. -/
def Obligations.IntegerRowsWriteTheirResult : Prop :=
  ChangesRegisters .add 0 0x000 (fun w l =>
    let c := xType w
    let x := intOf c (l.get (xRs1 w))
    let y := intOf c (l.get (xRs2 w))
    l.put (xRd w) (intTo c (x + y))) ∧
  ChangesRegisters .sub 0 0x001 (fun w l =>
    let c := xType w
    let x := intOf c (l.get (xRs1 w))
    let y := intOf c (l.get (xRs2 w))
    l.put (xRd w) (intTo c (x - y))) ∧
  ChangesRegisters .mul 0 0x002 (fun w l =>
    let c := xType w
    let x := intOf c (l.get (xRs1 w))
    let y := intOf c (l.get (xRs2 w))
    l.put (xRd w) (intTo c (x * y))) ∧
  ChangesRegisters .mulhi 0 0x003 (fun w l =>
    let c := xType w
    let x := intOf c (l.get (xRs1 w))
    let y := intOf c (l.get (xRs2 w))
    l.put (xRd w) (intTo c (x * y / (2 ^ iwBits c : Nat)))) ∧
  ChangesRegisters .div 0 0x004 (fun w l =>
    let c := xType w
    let x := intOf c (l.get (xRs1 w))
    let y := intOf c (l.get (xRs2 w))
    l.put (xRd w) (intTo c (if y = 0 then -1 else x.tdiv y))) ∧
  ChangesRegisters .rem 0 0x005 (fun w l =>
    let c := xType w
    let x := intOf c (l.get (xRs1 w))
    let y := intOf c (l.get (xRs2 w))
    l.put (xRd w) (intTo c (if y = 0 then x else x.tmod y))) ∧
  ChangesRegisters .imin 0 0x006 (fun w l =>
    let c := xType w
    let x := intOf c (l.get (xRs1 w))
    let y := intOf c (l.get (xRs2 w))
    l.put (xRd w) (intTo c (if x ≤ y then x else y))) ∧
  ChangesRegisters .imax 0 0x007 (fun w l =>
    let c := xType w
    let x := intOf c (l.get (xRs1 w))
    let y := intOf c (l.get (xRs2 w))
    l.put (xRd w) (intTo c (if x ≤ y then y else x))) ∧
  ChangesRegisters .andOp 0 0x008 (fun w l =>
    let c := xType w
    let x := intOf c (l.get (xRs1 w))
    let y := intOf c (l.get (xRs2 w))
    l.put (xRd w) (intTo c (((BitVec.ofInt 64 x &&& BitVec.ofInt 64 y).toNat : Int)))) ∧
  ChangesRegisters .orOp 0 0x009 (fun w l =>
    let c := xType w
    let x := intOf c (l.get (xRs1 w))
    let y := intOf c (l.get (xRs2 w))
    l.put (xRd w) (intTo c (((BitVec.ofInt 64 x ||| BitVec.ofInt 64 y).toNat : Int)))) ∧
  ChangesRegisters .xorOp 0 0x00A (fun w l =>
    let c := xType w
    let x := intOf c (l.get (xRs1 w))
    let y := intOf c (l.get (xRs2 w))
    l.put (xRd w) (intTo c (((BitVec.ofInt 64 x ^^^ BitVec.ofInt 64 y).toNat : Int)))) ∧
  ChangesRegisters .notOp 0 0x00B (fun w l => l.put (xRd w) (intTo (xType w) (-intOf (xType w) (l.get (xRs1 w)) - 1))) ∧
  ChangesRegisters .shl 0 0x00C (fun w l =>
    let c := xType w
    let x := intOf c (l.get (xRs1 w))
    let y := intOf c (l.get (xRs2 w))
    l.put (xRd w) (intTo c (x * (2 ^ (y % (iwBits c : Nat)).toNat : Nat)))) ∧
  ChangesRegisters .shr 0 0x00D (fun w l =>
    let c := xType w
    let x := intOf c (l.get (xRs1 w))
    let y := intOf c (l.get (xRs2 w))
    l.put (xRd w) (intTo c (x / (2 ^ (y % (iwBits c : Nat)).toNat : Nat)))) ∧
  ChangesRegisters .popc 0 0x00E (fun w l =>
    let c := xType w
    let x := intOf c (l.get (xRs1 w))
    let y := intOf c (l.get (xRs2 w))
    l.put (xRd w) (intTo c (fPopc c x y))) ∧
  ChangesRegisters .clz 0 0x00F (fun w l =>
    let c := xType w
    let x := intOf c (l.get (xRs1 w))
    let y := intOf c (l.get (xRs2 w))
    l.put (xRd w) (intTo c (fClz c x y))) ∧
  ChangesRegisters .mad 0 0x010 (fun w l =>
    let c := xType w
    l.put (xRd w) (intTo c (intOf c (l.get (xRs1 w)) * intOf c (l.get (xRs2 w)) + intOf c (l.get (xRs3 w))))) ∧
  ChangesRegisters .setp 0 0x011 (fun w l =>
    let c := xType w
    l.setP (xPd w) (condHolds (xAux w) (intOf c (l.get (xRs1 w))) (intOf c (l.get (xRs2 w))))) ∧
  ChangesRegisters .sel 0 0x012 (fun w l => l.put (xRd w) (intTo (xType w) (intOf (xType w) (if bit l.p (xPd w) then l.get (xRs1 w) else l.get (xRs2 w))))) ∧
  ChangesRegisters .mov 0 0x013 (fun w l => l.put (xRd w) (intTo (xType w) (intOf (xType w) (l.get (xRs1 w)))))

/-- R234, R235, R240: the predicate rows, the rows with an immediate (sign-extended, zero-extended for ANDI, ORI and XORI) and
NOP; frame as for the integer rows. -/
def Obligations.PredicateAndImmediateRowsWriteTheirResult : Prop :=
  ChangesRegisters .pand 0 0x0C0 (fun w l => l.setP (xPd w) (bit l.p (xRs1 w % 8) && bit l.p (xRs2 w % 8))) ∧
  ChangesRegisters .por 0 0x0C1 (fun w l => l.setP (xPd w) (bit l.p (xRs1 w % 8) || bit l.p (xRs2 w % 8))) ∧
  ChangesRegisters .pxor 0 0x0C2 (fun w l => l.setP (xPd w) (bit l.p (xRs1 w % 8) != bit l.p (xRs2 w % 8))) ∧
  ChangesRegisters .pnot 0 0x0C3 (fun w l => l.setP (xPd w) (!bit l.p (xRs1 w % 8))) ∧
  ChangesRegisters .p2r 0 0x0C4 (fun w l => l.put (xRd w) (l.p.zeroExtend 64)) ∧
  ChangesRegisters .r2p 0 0x0C5 (fun w l => { l with p := (l.get (xRs1 w)).truncate 8 }) ∧
  ChangesRegisters .addi 1 0x000 (fun w l =>
    let c := xIw w
    let x := intOf c (l.get (xRs1 w))
    let y := intOf c (BitVec.ofInt 64 (xImmS w))
    l.put (xRd w) (intTo c (x + y))) ∧
  ChangesRegisters .muli 1 0x001 (fun w l =>
    let c := xIw w
    let x := intOf c (l.get (xRs1 w))
    let y := intOf c (BitVec.ofInt 64 (xImmS w))
    l.put (xRd w) (intTo c (x * y))) ∧
  ChangesRegisters .andi 1 0x002 (fun w l =>
    let c := xIw w
    let x := intOf c (l.get (xRs1 w))
    let y := intOf c (BitVec.ofNat 64 (xImm w))
    l.put (xRd w) (intTo c (((BitVec.ofInt 64 x &&& BitVec.ofInt 64 y).toNat : Int)))) ∧
  ChangesRegisters .ori 1 0x003 (fun w l =>
    let c := xIw w
    let x := intOf c (l.get (xRs1 w))
    let y := intOf c (BitVec.ofNat 64 (xImm w))
    l.put (xRd w) (intTo c (((BitVec.ofInt 64 x ||| BitVec.ofInt 64 y).toNat : Int)))) ∧
  ChangesRegisters .xori 1 0x004 (fun w l =>
    let c := xIw w
    let x := intOf c (l.get (xRs1 w))
    let y := intOf c (BitVec.ofNat 64 (xImm w))
    l.put (xRd w) (intTo c (((BitVec.ofInt 64 x ^^^ BitVec.ofInt 64 y).toNat : Int)))) ∧
  ChangesRegisters .shli 1 0x005 (fun w l =>
    let c := xIw w
    let x := intOf c (l.get (xRs1 w))
    let y := intOf c (BitVec.ofInt 64 (xImmS w))
    l.put (xRd w) (intTo c (x * (2 ^ (y % (iwBits c : Nat)).toNat : Nat)))) ∧
  ChangesRegisters .shri 1 0x006 (fun w l =>
    let c := xIw w
    let x := intOf c (l.get (xRs1 w))
    let y := intOf c (BitVec.ofInt 64 (xImmS w))
    l.put (xRd w) (intTo c (x / (2 ^ (y % (iwBits c : Nat)).toNat : Nat)))) ∧
  ChangesRegisters .setpi 1 0x007 (fun w l =>
    let c := xIw w
    l.setP (bits w 43 41) (condHolds (bits w 46 44) (intOf c (l.get (xRs1 w))) (intOf c (BitVec.ofInt 64 (xImmS w))))) ∧
  ChangesRegisters .movi 1 0x008 (fun w l => l.put (xRd w) (BitVec.ofInt 64 (xImmS w))) ∧
  ChangesRegisters .movhi 1 0x009 (fun w l => l.put (xRd w) (setBits (l.get (xRd w)) 63 32 (xImm w))) ∧
  ChangesRegisters .nopInstr 3 0x000 (fun _ l => l)

/-- R236, R237: the floating rows decode their operands, compute exactly and round once to TYPE; FABS and FNEG act on the sign
bit alone; FSETP writes a predicate; the conversions. Frame as for the integer rows. -/
def Obligations.FloatRowsWriteTheirResult : Prop :=
  ChangesRegisters .fadd 0 0x040 (fun w l =>
    let ty := xType w
    let x := floatOf ty (l.get (xRs1 w))
    let y := floatOf ty (l.get (xRs2 w))
    l.put (xRd w) (floatTo ty (vadd x y))) ∧
  ChangesRegisters .fsub 0 0x041 (fun w l =>
    let ty := xType w
    let x := floatOf ty (l.get (xRs1 w))
    let y := floatOf ty (l.get (xRs2 w))
    l.put (xRd w) (floatTo ty (vsub x y))) ∧
  ChangesRegisters .fmul 0 0x042 (fun w l =>
    let ty := xType w
    let x := floatOf ty (l.get (xRs1 w))
    let y := floatOf ty (l.get (xRs2 w))
    l.put (xRd w) (floatTo ty (vmul x y))) ∧
  ChangesRegisters .ffma 0 0x043 (fun w l =>
    let ty := xType w
    l.put (xRd w) (floatTo ty (vfma (floatOf ty (l.get (xRs1 w))) (floatOf ty (l.get (xRs2 w))) (floatOf ty (l.get (xRs3 w)))))) ∧
  ChangesRegisters .fdiv 0 0x044 (fun w l =>
    let ty := xType w
    let x := floatOf ty (l.get (xRs1 w))
    let y := floatOf ty (l.get (xRs2 w))
    l.put (xRd w) (floatTo ty (vdiv x y))) ∧
  ChangesRegisters .fsqrt 0 0x045 (fun w l =>
    let ty := xType w
    let x := floatOf ty (l.get (xRs1 w))
    l.put (xRd w) (floatTo ty (vsqrt x))) ∧
  ChangesRegisters .fmin 0 0x046 (fun w l =>
    let ty := xType w
    let x := floatOf ty (l.get (xRs1 w))
    let y := floatOf ty (l.get (xRs2 w))
    l.put (xRd w) (floatTo ty (vmin x y))) ∧
  ChangesRegisters .fmax 0 0x047 (fun w l =>
    let ty := xType w
    let x := floatOf ty (l.get (xRs1 w))
    let y := floatOf ty (l.get (xRs2 w))
    l.put (xRd w) (floatTo ty (vmax x y))) ∧
  ChangesRegisters .fabs 0 0x048 (fun w l =>
    let n := fmtBits (xType w)
    let v := (l.get (xRs1 w)).toNat % 2 ^ n
    l.put (xRd w) (BitVec.ofNat 64 (v % 2 ^ (n - 1)))) ∧
  ChangesRegisters .fneg 0 0x049 (fun w l =>
    let n := fmtBits (xType w)
    let v := (l.get (xRs1 w)).toNat % 2 ^ n
    let mag := v % 2 ^ (n - 1)
    l.put (xRd w) (BitVec.ofNat 64 (if v = mag then mag + 2 ^ (n - 1) else mag))) ∧
  ChangesRegisters .fsetp 0 0x04A (fun w l =>
    let ty := xType w
    l.setP (xPd w) (cmpHolds (xAux w) (floatOf ty (l.get (xRs1 w))) (floatOf ty (l.get (xRs2 w))))) ∧
  ChangesRegisters .frcp 0 0x04B (fun w l =>
    let ty := xType w
    let x := floatOf ty (l.get (xRs1 w))
    l.put (xRd w) (floatTo ty (vrcp x))) ∧
  ChangesRegisters .frsqrt 0 0x04C (fun w l =>
    let ty := xType w
    let x := floatOf ty (l.get (xRs1 w))
    l.put (xRd w) (floatTo ty (vrsqrt x))) ∧
  ChangesRegisters .fexp 0 0x04D (fun w l =>
    let ty := xType w
    let x := floatOf ty (l.get (xRs1 w))
    l.put (xRd w) (floatTo ty (vexp (roundF (typeFmt ty) false) x))) ∧
  ChangesRegisters .flog 0 0x04E (fun w l =>
    let ty := xType w
    let x := floatOf ty (l.get (xRs1 w))
    l.put (xRd w) (floatTo ty (vlog (roundF (typeFmt ty) false) x))) ∧
  ChangesRegisters .faddi 1 0x00A (fun w l =>
    l.put (xRd w) (floatTo 1 (vadd (floatOf 1 (l.get (xRs1 w))) (decodeElem 1 (xImm w))))) ∧
  ChangesRegisters .fmuli 1 0x00B (fun w l =>
    l.put (xRd w) (floatTo 1 (vmul (floatOf 1 (l.get (xRs1 w))) (decodeElem 1 (xImm w))))) ∧
  ChangesRegisters .fcvt 0 0x080 (fun w l =>
    let x := if xType w = 0xB ∨ xAux w = 0xB then 127 else bits (l.get (xRs2 w)) 7 0
    let v := decodeScaled (xType w) ((l.get (xRs1 w)).toNat % 2 ^ fmtBits (xType w)) x
    l.put (xRd w) (BitVec.ofNat 64 (encodeElem (xAux w) (if fmtScaled (xAux w) then scaleBy ((x : Int) - 127) v else v)))) ∧
  ChangesRegisters .ftoi 0 0x081 (fun w l =>
    let c := xAux w % 8
    l.put (xRd w) (intTo c (floatToInt c (decide (8 ≤ xAux w)) (floatOf (xType w) (l.get (xRs1 w)))))) ∧
  ChangesRegisters .itof 0 0x082 (fun w l =>
    let x := intOf (xType w) (l.get (xRs1 w))
    l.put (xRd w) (floatTo (xAux w) (.fin (decide (x < 0)) x.natAbs 0)))

/-- R235: ADD, SUB, MUL and MAD wrap at the width; DIV by 0 gives all ones at an unsigned width and −1 at a signed one; REM by
0 gives RS1; the signed minimum divided by −1 gives the minimum and leaves 0; a shift count is taken mod the width; the result
is extended, and nothing but RD and the program counter changes, so nothing traps. -/
def Obligations.IntegerCornersFollowR235 : Prop :=
  let x := fun (w : W64) (l : Lane) => intOf (xType w) (l.get (xRs1 w))
  let y := fun (w : W64) (l : Lane) => intOf (xType w) (l.get (xRs2 w))
  let z := fun (w : W64) (l : Lane) => intOf (xType w) (l.get (xRs3 w))
  let least := fun (w : W64) => -((2 ^ (iwBits (xType w) - 1) : Nat) : Int)
  let count := fun (w : W64) (l : Lane) => ((l.get (xRs2 w)).toNat % iwBits (xType w))
  WritesRd .add 0x000 (fun w l v => WrapsTo (xType w) (x w l + y w l) v) ∧
  WritesRd .sub 0x001 (fun w l v => WrapsTo (xType w) (x w l - y w l) v) ∧
  WritesRd .mul 0x002 (fun w l v => WrapsTo (xType w) (x w l * y w l) v) ∧
  WritesRd .mad 0x010 (fun w l v => WrapsTo (xType w) (x w l * y w l + z w l) v) ∧
  WritesRd .div 0x004 (fun w l v => Extended (xType w) v ∧
    (y w l = 0 → iwSigned (xType w) = false → v.toNat = 2 ^ iwBits (xType w) - 1) ∧
    (y w l = 0 → iwSigned (xType w) = true → intOf (xType w) v = -1) ∧
    (iwSigned (xType w) = true → x w l = least w → y w l = -1 → intOf (xType w) v = least w)) ∧
  WritesRd .rem 0x005 (fun w l v => Extended (xType w) v ∧
    (y w l = 0 → intOf (xType w) v = x w l) ∧
    (iwSigned (xType w) = true → x w l = least w → y w l = -1 → intOf (xType w) v = 0)) ∧
  WritesRd .shl 0x00C (fun w l v => WrapsTo (xType w) (x w l * (2 ^ count w l : Nat)) v) ∧
  WritesRd .shr 0x00D (fun w l v => WrapsTo (xType w) (x w l / (2 ^ count w l : Nat)) v)

/-- R232, R240: BRA and CALL go to PC + IMM and BRX to its register; CALL leaves PC + 8 in its link register; where the guard is
off the issuer goes on at the next word. On a group processor a target that is no multiple of 8 or not below CODE_BYTES traps
at the transferring instruction, and no thread moves. Nothing else changes. -/
def Obligations.TransfersGoToTheirTarget : Prop :=
  let disp : W64 → Nat → Lane → Int := fun w pc _ => pc + xImmS w
  let reg : W64 → Nat → Lane → Int := fun w _ l => (l.get (xRd w)).toNat
  let same : W64 → Nat → Lane → Lane := fun _ _ l => l
  let link : W64 → Nat → Lane → Lane := fun w pc l => l.put (xRs1 w) (BitVec.ofNat 64 (pc + 8))
  let both := fun (row : Agent → Instr) (op : Nat) (dest : W64 → Nat → Lane → Int) (lk : W64 → Nat → Lane → Lane) =>
    (∀ s c w, CoreIssues s c 3 op w →
      let x := coreOf s c
      ∃ t, exec (row (.core c)) s = .next t ∧
        OnlyCore s t c (if guardOk w x.p then x.onTo (dest w x.pc (coreLane x) % 2 ^ 64).toNat (lk w x.pc (coreLane x))
          else x.onTo (x.pc + 8) (coreLane x))) ∧
    (∀ s t g k i, GpIssues s t g 3 op k i →
      (∀ n ∈ active s t g i, goodTarget s t g (dest i.word i.pc (laneOf s t g n)) = true) →
      (∀ n ∈ i.threads, guardOk i.word (threadAt (gpOf s t g) n).p = true) ∨ fallsOut s t g i.pc = false →
      ∃ u, exec (row (.gp t g)) s = .next u ∧
        OnlyThreads s u t g k (fun n x =>
          let l : Lane := { g := x.g, p := x.p }
          if n ∈ i.threads then
            if guardOk i.word x.p then
              { x with g := (lk i.word i.pc l).g, p := (lk i.word i.pc l).p, pc := (dest i.word i.pc l).toNat }
            else { x with pc := x.pc + 8 }
          else x)) ∧
    (∀ s t g k i n, GpIssues s t g 3 op k i → n ∈ active s t g i →
      goodTarget s t g (dest i.word i.pc (laneOf s t g n)) = false →
      ∃ m ∈ active s t g i, exec (row (.gp t g)) s =
        .next (gpTrap (countIssue s t g k) t g stTrap 0x03 (BitVec.ofInt 64 (dest i.word i.pc (laneOf s t g m))) i.pc))
  both .bra 0x001 disp same ∧ both .brx 0x002 reg same ∧ both .call 0x003 disp link

/-- R211, R212, R240: EXIT ends every thread of its issue, BAR.BLOCK and BAR.CLUSTER stop every thread of theirs at the
barrier; the barriers, the block's end and the collectives that this settles follow (`settleGp`).
R211, R212: once every thread of a running block has exited or stands at BAR.BLOCK, settling its barriers lets each thread
at it go on at its next word, and leaves the exited ones; while a live thread is elsewhere, no thread of the block moves (none
standing at BAR.CLUSTER). -/
def Obligations.ExitAndBarriersStopTheirThreads : Prop :=
  (
    let stops := fun (row : Agent → Instr) (op : Nat) (st : ThreadSt) (s : State) (t g k : Nat) (i : Issue) =>
      GpIssues s t g 3 op k i →
        ∃ u, exec (row (.gp t g)) s = .next (settleGp u t g) ∧
          OnlyThreads s u t g k (fun n x => if n ∈ i.threads then { x with st := st } else x)
    ∀ s t g k i,
      stops .exitThread 0x005 .exited s t g k i ∧
      (fallsOut s t g i.pc = false →
        stops .barBlock 0x006 .barBlock s t g k i ∧ stops .barCluster 0x007 .barCluster s t g k i)) ∧
  (
    ∀ s t g, (gpOf s t g).running = true → (∀ n ∈ threadsOf (gpOf s t g), (threadAt (gpOf s t g) n).st ≠ .barCluster) →
      ∀ n ∈ threadsOf (gpOf s t g),
        let x := threadAt (gpOf s t g) n
        threadAt (gpOf (settleBarriers s t g) t g) n =
          if (∀ m ∈ threadsOf (gpOf s t g), (threadAt (gpOf s t g) m).st = .exited ∨ (threadAt (gpOf s t g) m).st = .barBlock) ∧
              x.st = .barBlock then
            { x with st := .ready, pc := x.pc + 8 }
          else x)

/-- R240, R245, R248, R249: TRAP, a pending enabled INTERRUPT and an illegal word take the core's trap: TPC is the address of
the instruction, TCAUSE the cause, TADDR the address, MODE supervisor with interrupts off and the old SUP and IEN saved, the
program counter TVEC. ERET restores them. Nothing but that core (and what it waited for) changes.
R218, R240, R246, R249: TRAP with an executing thread stops its group processor's block, which is counted against the context
(`gpTrap`), and only threads with a store or atomic under way are left; on a core that is in a trap handler already, TRAP halts the core. -/
def Obligations.CoreTrapsSaveAndEretRestores : Prop :=
  (
    let entry := fun (x : Core) (cause : Nat) (a : W64) =>
      { x with tpc := x.pc % 2 ^ 55, tcause := cause, taddr := a, pc := x.tvec
               mode := modeWord true false true (bit x.mode modeSup) (bit x.mode modeIen)
               waiting := false, arrived := none, fetched := none }
    let takes := fun (s : State) (c : Nat) (i : Instr) (cause : Nat) (a : W64) =>
      ∃ t, exec i s = .next t ∧ coreOf t c = entry (coreOf s c) cause a ∧
        (∀ d, d ≠ c → coreOf t d = coreOf s d) ∧ (∀ y line, l2Find t y line = l2Find s y line) ∧
        t = { s with cores := t.cores, coh := { s.coh with
          l2 := t.coh.l2, l1i := t.coh.l1i, waiters := s.coh.waiters.filter (fun v => v.who != .core c) } }
    (∀ s c w, CoreIssues s c 3 0x008 w → guardOk w (coreOf s c).p = true → bit (coreOf s c).mode modeInTrap = false →
      takes s c (.trap (.core c)) 0x07 (BitVec.ofNat 64 (bits w 15 0))) ∧
    (∀ s c, coreRuns s c = true → (coreOf s c).waiting = false → (coreOf s c).arrived = none → (coreOf s c).ipend ≠ 0 → bit (coreOf s c).mode modeIen = true →
      bit (coreOf s c).mode modeInTrap = false → takes s c (.interrupt c) 0x40 0) ∧
    (∀ s c w, coreRuns s c = true → coreHeld s c = false → interruptDue (coreOf s c) = false → coreFetch s c = .word w → legalOnCore w = false →
      bit (coreOf s c).mode modeInTrap = false → takes s c (.illegalWord c) 0x01 0) ∧
    ∀ s c w, CoreIssues s c 3 0x020 w → guardOk w (coreOf s c).p = true →
      if bit (coreOf s c).mode modeSup then
        ∃ t, exec (.eret (.core c)) s = .next t ∧
          OnlyCore s t c { (coreOf s c).onTo (coreOf s c).tpc (coreLane (coreOf s c)) with
            mode := modeWord (bit (coreOf s c).mode modePsup) (bit (coreOf s c).mode modePien) false
              (bit (coreOf s c).mode modePsup) (bit (coreOf s c).mode modePien) }
      else bit (coreOf s c).mode modeInTrap = false → takes s c (.eret (.core c)) 0x02 0) ∧
  (
    (∀ s t g k i, GpIssues s t g 3 0x008 k i → active s t g i ≠ [] →
      ∃ u, exec (.trap (.gp t g)) s = .next u ∧ (gpOf u t g).running = false ∧ (gpOf u t g).stopped = true ∧
        (∀ n, threadAt (gpOf u t g) n = if n < (gpOf s t g).blk.threads ∧ storesStill s t (gpOf s t g) n = true then threadAt (gpOf s t g) n else {}) ∧ (unitOf u t (8 + g)).cur = none ∧ u.mem = s.mem ∧ u.queues = s.queues ∧
        ((ctxOf s (unitOf s t (8 + g)).ctx).st = .live → (unitOf s t (8 + g)).ctx ≠ 0 →
          (ctxOf s (unitOf s t (8 + g)).ctx).fault = none →
          (ctxOf u (unitOf s t (8 + g)).ctx).fault = some (faultOf s stTrap 0x07 (28 * t + 8 + g)
            (BitVec.ofNat 64 (bits i.word 15 0)) (fld (gpOf s t g).blk.node 32 32 ||| fld i.pc 32 0)))) ∧
    ∀ s c w, CoreIssues s c 3 0x008 w → guardOk w (coreOf s c).p = true → bit (coreOf s c).mode modeInTrap = true →
      ∃ t, exec (.trap (.core c)) s = .next t ∧ (coreOf t c).halted = true ∧ (coreOf t c).pc = (coreOf s c).pc ∧
        (coreOf t c).tpc = (coreOf s c).tpc ∧ (coreOf t c).tcause = (coreOf s c).tcause ∧ t.mem = s.mem ∧
        t.mgmt.changes = (s.mgmt.changes + 1) % 2 ^ 48)

/-- R200, R242, R250: SREAD puts a special register of its thread or core into RD, SWRITE changes the one it names and nothing
else; CORE_ID and CUE may be read in user mode, every other read, every SWRITE and WFI are PRIVILEGED there; WFI waits unless an
enabled interrupt is pending. -/
def Obligations.SpecialRegistersAreReadAndWritten : Prop :=
  (∀ s t g k i, GpIssues s t g 1 0x010 k i → fallsOut s t g i.pc = false →
    ∃ u, exec (.sread (.gp t g)) s = .next u ∧
      OnlyThreads s u t g k (fun n x =>
        if n ∈ i.threads then
          if guardOk i.word x.p then
            { x with g := tput 0 x.g (xRd i.word) (BitVec.ofNat 64 (gpSpecial (gpOf s t g).blk n (xImm i.word))), pc := x.pc + 8 }
          else { x with pc := x.pc + 8 }
        else x)) ∧
  (∀ s c w v, CoreIssues s c 1 0x010 w → guardOk w (coreOf s c).p = true → coreSpecial s c (xImm w) = some v →
    xImm w = 0x100 ∨ xImm w = 0x108 ∨ bit (coreOf s c).mode modeSup = true →
    ∃ t, exec (.sread (.core c)) s = .next t ∧
      OnlyCore s t c ((coreOf s c).onTo ((coreOf s c).pc + 8) ((coreLane (coreOf s c)).put (xRd w) v))) ∧
  (∀ s c w v, CoreIssues s c 1 0x010 w → guardOk w (coreOf s c).p = true → coreSpecial s c (xImm w) = some v →
    xImm w ≠ 0x100 → xImm w ≠ 0x108 → bit (coreOf s c).mode modeSup = false →
    ∃ t, exec (.sread (.core c)) s = .next t ∧ (coreOf t c).g = (coreOf s c).g ∧
      (bit (coreOf s c).mode modeInTrap = false → (coreOf t c).tcause = 0x02 ∧ (coreOf t c).pc = (coreOf s c).tvec)) ∧
  (∀ s c w v, CoreIssues s c 1 0x011 w → guardOk w (coreOf s c).p = true → coreSpecial s c (xImm w) = some v →
    bit (coreOf s c).mode modeSup = true →
    let r := (coreLane (coreOf s c)).get (xRs1 w)
    let x := (coreOf s c).onTo ((coreOf s c).pc + 8) (coreLane (coreOf s c))
    ∃ t, exec (.swrite (.core c)) s = .next t ∧
      OnlyCore s t c (
        if xImm w = 0x101 then { x with mode := r.truncate 5 }
        else if xImm w = 0x102 then (if bits r 11 0 = 0 then x else { x with ctx := bits r 11 0 })
        else if xImm w = 0x103 then { x with tvec := bits r 54 3 * 8 }
        else if xImm w = 0x104 then { x with tpc := bits r 54 0 }
        else if xImm w = 0x107 then { x with tsave := r }
        else if xImm w = 0x109 then { x with ipend := x.ipend &&& ~~~ (r.truncate 16) }
        else x)) ∧
  (∀ s c w, CoreIssues s c 1 0x011 w ∧ coreSpecial s c (xImm w) ≠ none ∨ CoreIssues s c 3 0x021 w → guardOk w (coreOf s c).p = true →
    bit (coreOf s c).mode modeSup = false → bit (coreOf s c).mode modeInTrap = false →
    ∃ t, exec (if xFmt w = 1 then .swrite (.core c) else .wfi (.core c)) s = .next t ∧
      (coreOf t c).tcause = 0x02 ∧ (coreOf t c).tpc = (coreOf s c).pc % 2 ^ 55 ∧ (coreOf t c).pc = (coreOf s c).tvec) ∧
  ∀ s c w, CoreIssues s c 3 0x021 w → guardOk w (coreOf s c).p = true → bit (coreOf s c).mode modeSup = true →
    ∃ t, exec (.wfi (.core c)) s = .next t ∧
      OnlyCore s t c { (coreOf s c).onTo ((coreOf s c).pc + 8) (coreLane (coreOf s c)) with
        wfi := decide ((coreOf s c).ipend = 0) || !bit (coreOf s c).mode modeIen }

/-- R207–R212, R241: the shuffles give RD the RS1 of the lane they name, or the own one where that lane is outside 0–31 or no
member; the votes reduce the predicate over the members; BAR.GROUP moves no data; GMMA adds the 16-deep products of its tile to
C. The members execute together and nothing but their threads changes. -/
def Obligations.CollectivesExecuteTogether : Prop :=
  let arg := fun (w : W64) (l : Lane) => if bit w 16 then bits w 21 17 else bits (l.get (xRs2 w)) 4 0
  let shuffled := fun (src : Nat → Nat → Int) (w : W64) (_ : Bool) (old : Nat → Lane) (m l : Nat) =>
    let i := src l (arg w (old l))
    (old l).put (xRd w) ((old (if 0 ≤ i ∧ i < 32 ∧ m.testBit i.toNat then i.toNat else l)).get (xRs1 w))
  let vote := fun (w : W64) (l : Lane) => bit l.p (bits w 15 13)
  CollectiveDoes .shflIdx 0x000 (shuffled (fun _ i => i)) ∧
  CollectiveDoes .shflUp 0x001 (shuffled (fun l d => (l : Int) - d)) ∧
  CollectiveDoes .shflDown 0x002 (shuffled (fun l d => (l : Int) + d)) ∧
  CollectiveDoes .shflXor 0x003 (shuffled (fun l d => ((l ^^^ d : Nat) : Int))) ∧
  CollectiveDoes .voteAll 0x008 (fun w _ old m l => (old l).setP (bits w 12 10) (decide (∀ j ∈ bitList m 32, vote w (old j) = true))) ∧
  CollectiveDoes .voteAny 0x009 (fun w _ old m l => (old l).setP (bits w 12 10) (decide (∃ j ∈ bitList m 32, vote w (old j) = true))) ∧
  CollectiveDoes .voteBallot 0x00A (fun w _ old m l =>
    (old l).put (xRd w) (BitVec.ofNat 64 (maskOf ((bitList m 32).filter (fun j => vote w (old j)))))) ∧
  CollectiveDoes .barGroup 0x010 (fun _ _ old _ l => old l) ∧
  CollectiveDoes .gmma 0x020 gmmaLane

/-- R213, R225, R229, R238, R243: what a core's access does once its line is held and nothing faults. LD fills RD or its group
from the line; ST and ZLINE write their bytes, and only those, leaving the line modified; an atomic returns the old value in RD
and leaves the new one: the sum, the rounded sum, the lesser, the greater, the bitwise result, RB, or RB where the old value
is RC. No byte of the memory behind the caches changes, no line of
any L2 but that one does, and the core goes on at its next word.
R265: a core whose access misses waits, and its request goes to the home of the line once; the data of no cache or memory
changes. -/
def Obligations.CoreAccessesActOnTheirLine : Prop :=
  (
    let ready := fun (s : State) (c op : Nat) (w : W64) (pa : Nat) =>
      CoreIssues s c 2 op w ∧ guardOk w (coreOf s c).p = true ∧ ctxLive s (coreOf s c).ctx = true ∧
      globalFault s (coreOf s c).ctx w (memAddr w (coreLane (coreOf s c))) = none ∧
      pa = globalAddr s (coreOf s c).ctx (memAddr w (coreLane (coreOf s c))) w ∧ foreign pa = false ∧
      releaseWaits s w (2016 + c) (coreOf s c).ctx = false ∧ missing s (72 + c) (.core c) w [pa / 128] = []
    let does := fun (row : Agent → Instr) (op : Nat) (regs : W64 → Lane → List Byte → Lane) (start : Nat → Nat)
        (bytes : W64 → Lane → List Byte → List Byte) =>
      ∀ s c w pa, ready s c op w pa →
        let x := 72 + c
        let l := coreLane (coreOf s c)
        let old := (upFrom (pa % 128) (memLen w)).map (lineByte (l2Data s x (pa / 128)))
        let new := bytes w l old
        ∃ t, exec (row (.core c)) s = .next t ∧
          coreOf t c = (coreOf s c).onTo ((coreOf s c).pc + 8) (regs w l old) ∧ (∀ d, d ≠ c → coreOf t d = coreOf s d) ∧
          t = { s with cores := t.cores, coh := { s.coh with l2 := t.coh.l2, l1i := t.coh.l1i, l1d := t.coh.l1d } } ∧
          (∀ y n, (y ≠ x ∨ n ≠ pa / 128) → l2Find t y n = l2Find s y n) ∧
          (new ≠ [] → (l2Find t x (pa / 128)).map (fun y => y.st) = some .m) ∧
          (start (pa % 128) + new.length ≤ 128 → ∀ j, j < 128 → lineByte (l2Data t x (pa / 128)) j =
            if start (pa % 128) ≤ j ∧ j < start (pa % 128) + new.length then new.getD (j - start (pa % 128)) 0
            else lineByte (l2Data s x (pa / 128)) j)
    let kept := fun (_ : W64) (l : Lane) (_ : List Byte) => l
    let oldTo := fun (w : W64) (l : Lane) (old : List Byte) =>
      l.put (xRd w) (intTo (atomCode w) (intOf (atomCode w) (BitVec.ofNat 64 (leNat old))))
    let op := fun (f : Nat → Int → Int → Int → Int) (w : W64) (l : Lane) (old : List Byte) =>
      let c := atomCode w
      leBytes (memLen w) ((intTo c (f c (intOf c (BitVec.ofNat 64 (leNat old))) (intOf c (l.get (atomRb w)))
        (intOf c (l.get (atomRc w))))).toNat % 2 ^ (8 * memLen w))
    let ty := fun (w : W64) => if xSize w = 2 then 1 else 0
    does .load 0x000 (fun w l old => loadTo w old l) id (fun _ _ _ => []) ∧
    does .store 0x001 kept id (fun w l _ => storeFrom w l) ∧
    does .zline 0x002 kept (fun _ => 0) (fun _ _ _ => List.replicate 128 0) ∧
    does .aadd 0x010 oldTo id (op (fun _ o b _ => o + b)) ∧
    does .afadd 0x011 (fun w l old => l.put (xRd w) (BitVec.ofNat 64 (leNat old))) id (fun w l old =>
      leBytes (memLen w) ((floatTo (ty w) (vadd (floatOf (ty w) (BitVec.ofNat 64 (leNat old)))
        (floatOf (ty w) (l.get (atomRb w))))).toNat % 2 ^ (8 * memLen w))) ∧
    does .amin 0x012 oldTo id (op (fun _ o b _ => min o b)) ∧
    does .amax 0x013 oldTo id (op (fun _ o b _ => max o b)) ∧
    does .aand 0x014 oldTo id (op (fun _ o b _ => ((BitVec.ofInt 64 o &&& BitVec.ofInt 64 b).toNat : Int))) ∧
    does .aor 0x015 oldTo id (op (fun _ o b _ => ((BitVec.ofInt 64 o ||| BitVec.ofInt 64 b).toNat : Int))) ∧
    does .axor 0x016 oldTo id (op (fun _ o b _ => ((BitVec.ofInt 64 o ^^^ BitVec.ofInt 64 b).toNat : Int))) ∧
    does .aswap 0x017 oldTo id (op (fun _ _ b _ => b)) ∧
    does .acas 0x018 oldTo id (op (fun _ o b c => if o = c then b else o))) ∧
  (
    ∀ (row : Agent → Instr) (op : Nat),
      (row, op) ∈ ([(.load, 0x000), (.store, 0x001), (.zline, 0x002), (.aadd, 0x010), (.afadd, 0x011), (.amin, 0x012), (.amax, 0x013),
        (.aand, 0x014), (.aor, 0x015), (.axor, 0x016), (.aswap, 0x017), (.acas, 0x018)] : List ((Agent → Instr) × Nat)) →
      ∀ s c w pa, CoreIssues s c 2 op w → guardOk w (coreOf s c).p = true → ctxLive s (coreOf s c).ctx = true →
        globalFault s (coreOf s c).ctx w (memAddr w (coreLane (coreOf s c))) = none →
        pa = globalAddr s (coreOf s c).ctx (memAddr w (coreLane (coreOf s c))) w → foreign pa = false →
        releaseWaits s w (2016 + c) (coreOf s c).ctx = false → lineReady s (72 + c) (pa / 128) (lineUse w) = false →
        requested s (72 + c) (pa / 128) = false →
        ∃ t, exec (row (.core c)) s = .next t ∧ (coreOf t c).waiting = true ∧ (coreOf t c).pc = (coreOf s c).pc ∧
          (coreOf t c).g = (coreOf s c).g ∧ t.mem = s.mem ∧ (∀ y n, l2Find t y n = l2Find s y n) ∧
          t.coh.queue = s.coh.queue ++ [(pa / 128, .cache (72 + c) (requestFor s (72 + c) (pa / 128) (lineUse w)))] ∧
          t.coh.waiters = s.coh.waiters ++ [{ who := .core c, threads := [], lines := [pa / 128] }])

/-- R202, R213, R217, R229, R238: accesses of a group processor to local or cluster memory that are in range and aligned are
performed thread by thread in ascending lane order, each as `perform` does it, and every thread of the issue goes on; an acquire
at tile scope or wider empties the L1 behind them (R217).
R229, R238, R243, R244: FENCE and PREFETCH give no register a value and change no data; FENCE goes on at the next word (on a
group processor, at tile scope or wider with acquire, its L1 is empty afterwards); PREFETCH at most asks the homes for lines, and
goes on at the next word. Both complete on a core and on a group processor. -/
def Obligations.LocalAccessesInLaneOrder : Prop :=
  (
    ∀ (row : Agent → Instr) (op : Nat),
      (row, op) ∈ ([(.load, 0x000), (.store, 0x001), (.aadd, 0x010), (.afadd, 0x011), (.amin, 0x012), (.amax, 0x013),
        (.aand, 0x014), (.aor, 0x015), (.axor, 0x016), (.aswap, 0x017), (.acas, 0x018)] : List ((Agent → Instr) × Nat)) →
      ∀ s t g k i, GpIssues s t g 2 op k i → fallsOut s t g i.pc = false → xSpace i.word ≠ 0 → active s t g i ≠ [] →
        (∀ n ∈ active s t g i, threadFault s t g i.word (laneOf s t g n) = none) →
        releaseWaits s i.word (28 * t + 8 + g) (unitOf s t (8 + g)).ctx = false →
        let u0 := (i.threads.filter (fun n => !(active s t g i).contains n)).foldl
          (fun s n => modThread s t g n (fun x => { x with pc := x.pc + 8 })) (countIssue s t g k)
        exec (row (.gp t g)) s = .next (acquireL1 ((active s t g i).foldl (fun u n =>
          let l := laneOf u t g n
          match localPlace u t g i.word (memAddr i.word l) with
          | some p => threadOn (perform i.word u p l).1 t g n i.pc (perform i.word u p l).2
          | none => u) u0) i.word t g)) ∧
  (
    (∀ s c w, CoreIssues s c 2 0x004 w → guardOk w (coreOf s c).p = true → releaseWaits s w (2016 + c) (coreOf s c).ctx = false →
      ∃ t, exec (.memFence (.core c)) s = .next t ∧
        OnlyCore s t c ((coreOf s c).onTo ((coreOf s c).pc + 8) (coreLane (coreOf s c)))) ∧
    (∀ s c w, CoreIssues s c 2 0x003 w → guardOk w (coreOf s c).p = true →
      ∃ t, exec (.prefetch (.core c)) s = .next t ∧
        coreOf t c = (coreOf s c).onTo ((coreOf s c).pc + 8) (coreLane (coreOf s c)) ∧ (∀ d, d ≠ c → coreOf t d = coreOf s d) ∧
        (∀ y n, l2Find t y n = l2Find s y n) ∧
        t = { s with cores := t.cores, coh := { s.coh with queue := t.coh.queue, l2 := t.coh.l2, l1i := t.coh.l1i } } ∧
        (t.coh.queue = s.coh.queue ∨ ∃ n, t.coh.queue = s.coh.queue ++ [(n, .cache (72 + c) .rdShared)])) ∧
    (∀ s t g k i, GpIssues s t g 2 0x003 k i → fallsOut s t g i.pc = false →
      ∃ u, exec (.prefetch (.gp t g)) s = .next u ∧
        u = { s with eng := { s.eng with gp := u.eng.gp }, coh := { s.coh with queue := u.coh.queue } } ∧
        (∃ more, u.coh.queue = s.coh.queue ++ more ∧ ∀ q ∈ more, q.2 = .cache t .rdShared) ∧
        ∀ n, threadAt (gpOf u t g) n =
          (if n ∈ i.threads then { threadAt (gpOf s t g) n with pc := (threadAt (gpOf s t g) n).pc + 8 } else threadAt (gpOf s t g) n)) ∧
    ∀ s t g k i, GpIssues s t g 2 0x004 k i → fallsOut s t g i.pc = false → active s t g i ≠ [] →
      releaseWaits s i.word (28 * t + 8 + g) (unitOf s t (8 + g)).ctx = false →
      ∃ u, exec (.memFence (.gp t g)) s = .next u ∧ u.mem = s.mem ∧ u.coh.l2 = s.coh.l2 ∧
        (acquires i.word = true → 4 ≤ xScope i.word → l1Of u (16 * t + g) = []) ∧
        ∀ n, threadAt (gpOf u t g) n =
          (if n ∈ i.threads then { threadAt (gpOf s t g) n with pc := (threadAt (gpOf s t g) n).pc + 8 } else threadAt (gpOf s t g) n))

/-- R221, R222: a debug action is in progress until GP_DEBUG_ACTION_END clears BUSY and shows its RESULT. HALT sets the halt of the
selected live group; on a halted group RESUME clears it, STEP lets it make one step, READ brings the selected item into
GP_DEBUG_DATA and WRITE sets it; on a group that is not halted these four have RESULT 3 and no effect, without a live group every
action has RESULT 2, on a context without the debug attribute RESULT 1. An action asked for while one is in progress, or by a host
port to which the context is not bound, is ignored. Nothing but the debugger's own registers and the selected group processor changes. -/
def Obligations.DebugActionsFollowR222 : Prop :=
  let only := fun (s u : State) =>
    u = { s with eng := { s.eng with gp := u.eng.gp, dbgData := u.eng.dbgData, dbgBusy := u.eng.dbgBusy } } ∧
    (∀ t g, 16 * t + g ≠ 16 * dbgTile s + dbgGp s → gpOf u t g = gpOf s t g)
  let actions : List (Nat × (Path → Instr)) :=
    [(1, .gpDebugHalt), (2, .gpDebugResume), (3, .gpDebugStep), (4, .gpDebugRead), (5, .gpDebugWrite)]
  let sel := fun (s : State) => gpOf s (dbgTile s) (dbgGp s)
  let other := fun (s : State) (k : Nat) => k ≠ dbgGroup s
  let reached := fun (s : State) (path : Path) => s.eng.dbgBusy = none ∧ dbgReaches s path = true
  (∀ s path a, a ∈ actions → s.eng.dbgBusy ≠ none → exec (a.2 path) s = .next s) ∧
  (∀ s path a, a ∈ actions → dbgSeen s path = false → exec (a.2 path) s = .next s) ∧
  (∀ s path a, a ∈ actions → s.eng.dbgBusy = none → dbgSeen s path = true → dbgReaches s path = false →
    exec (a.2 path) s = .next { s with eng := { s.eng with dbgBusy := some 1 } }) ∧
  (∀ s path a, a ∈ actions → reached s path → dbgLive s = [] →
    exec (a.2 path) s = .next { s with eng := { s.eng with dbgBusy := some 2 } }) ∧
  (∀ s path a, a ∈ actions → a.1 ≠ 1 → reached s path → dbgLive s ≠ [] → dbgHalted s = false →
    exec (a.2 path) s = .next { s with eng := { s.eng with dbgBusy := some 3 } }) ∧
  (∀ s path, reached s path → dbgLive s ≠ [] →
    ∃ u, exec (.gpDebugHalt path) s = .next u ∧ only s u ∧ u.eng.dbgBusy = some 0 ∧
      (sel u).halted.testBit (dbgGroup s) = true ∧ (sel u).stepping.testBit (dbgGroup s) = false ∧
      (∀ k, other s k → (sel u).halted.testBit k = (sel s).halted.testBit k) ∧ (sel u).threads = (sel s).threads) ∧
  (∀ s path, reached s path → dbgLive s ≠ [] → dbgHalted s = true →
    (∃ u, exec (.gpDebugResume path) s = .next u ∧ only s u ∧ u.eng.dbgBusy = some 0 ∧
      (sel u).halted.testBit (dbgGroup s) = false ∧ (sel u).stepping.testBit (dbgGroup s) = false ∧ (sel u).threads = (sel s).threads) ∧
    (∃ u, exec (.gpDebugStep path) s = .next u ∧ only s u ∧ u.eng.dbgBusy = some 0 ∧
      (sel u).halted.testBit (dbgGroup s) = true ∧ (sel u).stepping.testBit (dbgGroup s) = true ∧ (sel u).threads = (sel s).threads) ∧
    (∀ v, dbgRead s = some v →
      exec (.gpDebugRead path) s = .next { s with eng := { s.eng with dbgData := v, dbgBusy := some 0 } }) ∧
    (∀ r, bits s.eng.dbgAddr 63 60 = 0 → bits s.eng.dbgAddr 31 0 = r → r < 64 →
      ∃ u, exec (.gpDebugWrite path) s = .next u ∧ only s u ∧ u.eng.dbgBusy = some 0 ∧ u.eng.dbgData = s.eng.dbgData ∧
        tget 0 (threadAt (sel u) (32 * dbgGroup s + bits s.eng.dbgAddr 36 32)).g r = s.eng.dbgData)) ∧
  ∀ s r, s.eng.dbgBusy = some r →
    exec .gpDebugActionEnd s = .next { s with eng := { s.eng with dbgBusy := none, dbgResult := r } }

/-- R155, R168, R187, R197, R334: a unit with no list in progress, which no fault stopped, takes its oldest waiting start: its context and record count come
from the header, the other starts stay waiting, and its record count is in range. Only that unit (and the registers of a vector
engine, which are cleared) changes.
R199–R201: a block of a cluster of one that is due and whose record is in order begins: its threads stand at ENTRY with all
registers and predicates 0, the argument bytes lie in its local memory, the rest of which reads 0, and its L1 is empty. A
record in error stops the list with INSTRUCTION_TRAP, cause RECORD. -/
def Obligations.WorkListsAreTakenInOrder : Prop :=
  (
    let takes := fun (row : Instr) (t u most : Nat) (legacy debug : W64 → Bool) (seeded : Bool) =>
      ∀ s st rest, tileRuns s t = true → (unitOf s t u).cur = none → (unitOf s t u).waiting = st :: rest → (unitOf s t u).broken = false →
        1 ≤ bits (tileWord s t st.desc) 47 40 → bits (tileWord s t st.desc) 47 40 ≤ most →
        ∃ v, exec row s = .next v ∧
          unitOf v t u = { waiting := rest, cur := some st, ctx := bits (tileWord s t st.desc) 59 48
                           count := bits (tileWord s t st.desc) 47 40, legacy := legacy (tileWord s t st.desc)
                           debug := debug (tileWord s t st.desc), seed := if seeded then tileWord s t (st.desc + 8) else 0 } ∧
          (∀ t' u', 28 * t' + u' ≠ 28 * t + u → unitOf v t' u' = unitOf s t' u') ∧
          v = { s with eng := { s.eng with units := v.eng.units, vxe := v.eng.vxe } } ∧
          (∀ t' m, 4 ≤ u → u < 8 → seeded = true → 4 * t' + m = 4 * t + (u - 4) → vxeOf v t' m = {}) ∧
          (seeded = false → v.eng.vxe = s.eng.vxe)
    let no := fun (_ : W64) => false
    let leg := fun (w : W64) => bit w 39
    ∀ t u,
      (u < 4 → takes (.mxeWorkList t u) t u 64 leg no false) ∧
      (u < 4 → takes (.vxeWorkList t u) t (4 + u) 128 leg no true) ∧
      (u < 16 → takes (.gpWorkList t u) t (8 + u) 16 leg (fun w => bit w 38) false) ∧
      (u < 4 → takes (.moverWorkList t u) t (24 + u) 64 no no false)) ∧
  (
    (∀ s t g ws, tileRuns s t = true → g < 16 → blockDue s t g = some ws → blockError ws = false → (blockOf ws).cluster = 1 →
      ∃ u, exec (.blockRelease t g) s = .next u ∧ (gpOf u t g).running = true ∧ (gpOf u t g).blk = blockOf ws ∧
        (∀ n, n < (blockOf ws).threads → threadAt (gpOf u t g) n = { pc := bits (wordAt ws 1) 63 32 }) ∧
        (∀ a, tget 0 (gpOf u t g).mem a = if a < bits (wordAt ws 3) 31 16 then
          tget 0 s.mem.cells (tileBase s t + bits (wordAt ws 3) 63 32 + a) else 0) ∧
        l1Of u (16 * t + g) = [] ∧ (∀ t' g', 16 * t' + g' ≠ 16 * t + g → gpOf u t' g' = gpOf s t' g') ∧
        u = { s with eng := { s.eng with gp := u.eng.gp }, coh := { s.coh with l1 := u.coh.l1, waiters := u.coh.waiters } }) ∧
    ∀ s t g ws, tileRuns s t = true → g < 16 → blockDue s t g = some ws → blockError ws = true →
      ∃ u, exec (.blockRelease t g) s = .next u ∧ (unitOf u t (8 + g)).cur = none ∧ gpOf u t g = gpOf s t g ∧ u.mem = s.mem ∧
        ((unitOf s t (8 + g)).ctx ≠ 0 → (ctxOf s (unitOf s t (8 + g)).ctx).st = .live → (ctxOf s (unitOf s t (8 + g)).ctx).fault = none →
          ((ctxOf u (unitOf s t (8 + g)).ctx).fault.map (fun f => (f.status, f.cause, f.agent))) = some (0x0108, 0x10, 28 * t + 8 + g)))

/-- R174, R175, R177–R179, R189: an elementwise record writes, for every element of its strip that its mask keeps (SELECT: for
every element), the operation's exact result on the working values, rounded once to the working format, into OUT; then the list
goes on (`vecNext`). CMP gives 1 or 0, or the bits of a mask register.
Frame of the vector engine's outputs (R171, R174, R189): an output to a register changes that engine's registers alone; an
unscaled output to the tile store changes no byte outside the bits of its elements, whose addresses `elemBit` gives; a mask write
changes masks alone; and going on to the next record changes the engine's own place in its list alone. -/
def Obligations.ElementwiseRowsWriteOut : Prop :=
  (
    let does := fun (row : Nat → Nat → Instr) (code : Nat) (f : Bool → Val → Val → Val → Val → Val → Bool → Val) =>
      ∀ s t u w, VecDue s t u code w →
        let a := immVal w.r.wide w.r.imm0
        let b := immVal w.r.wide w.r.imm1
        let arg := fun (i e : Nat) => if i < vecInputs code then slotVal s t w i (operandBlock s t w.x i) e else vzero false
        let es := (w.elems.filter (fun e => decide (code = 0x0C) || w.keep e)).map (fun e =>
          (e, rnd w.r.wide (f w.r.wide a b (arg 0 e) (arg 1 e) (arg 2 e) (vmaskGet w.v w.r.mask e))))
        exec (row t u) s = .next (vecNext (putOut s t u w 3 es) t u w)
    does .vectorAdd 0x01 (fun wide a b x y z m => vadd x y) ∧
    does .vectorSub 0x02 (fun wide a b x y z m => vsub x y) ∧
    does .vectorMul 0x03 (fun wide a b x y z m => vmul x y) ∧
    does .vectorFma 0x04 (fun wide a b x y z m => vfma x y z) ∧
    does .vectorDiv 0x05 (fun wide a b x y z m => vdiv x y) ∧
    does .vectorMin 0x06 (fun wide a b x y z m => vmin x y) ∧
    does .vectorMax 0x07 (fun wide a b x y z m => vmax x y) ∧
    does .vectorAbs 0x08 (fun wide a b x y z m => vabs x) ∧
    does .vectorNeg 0x09 (fun wide a b x y z m => vneg x) ∧
    does .scaleAdd 0x0A (fun wide a b x y z m => vfma x a b) ∧
    does .vectorClamp 0x0B (fun wide a b x y z m => vclamp x a b) ∧
    does .vectorSelect 0x0C (fun wide a b x y z m => if m then x else y) ∧
    does .vectorConvert 0x0D (fun wide a b x y z m => x) ∧
    does .vectorSqrt 0x10 (fun wide a b x y z m => vsqrt x) ∧
    does .vectorRsqrt 0x11 (fun wide a b x y z m => vrsqrt x) ∧
    does .vectorRcp 0x12 (fun wide a b x y z m => vrcp x) ∧
    does .vectorExp 0x13 (fun wide a b x y z m => vexp (rnd wide) x) ∧
    does .vectorLog 0x14 (fun wide a b x y z m => vlog (rnd wide) x) ∧
    does .vectorTanh 0x15 (fun wide a b x y z m => vtanh (rnd wide) x) ∧
    does .vectorSigmoid 0x16 (fun wide a b x y z m => vsigmoid (rnd wide) x) ∧
    does .vectorErf 0x17 (fun wide a b x y z m => verf (rnd wide) x) ∧
    ∀ s t u w, VecDue s t u 0x20 w →
      let holds := fun (e : Nat) => cmpHolds w.r.imm0 (slotVal s t w 0 (operandBlock s t w.x 0) e) (slotVal s t w 1 (operandBlock s t w.x 1) e)
      let es := w.elems.filter w.keep
      exec (.vectorCmp t u) s = .next (vecNext (
        if w.r.maskWr then putMask s t u w (es.map (fun e => (e, holds e)))
        else putOut s t u w 3 (es.map (fun e => (e, if holds e then .fin false 1 0 else vzero false)))) t u w)) ∧
  (
    (∀ s t u w i es, (w.r.slot i).reg = true →
      putOut s t u w i es = { s with eng := { s.eng with vxe := (putOut s t u w i es).eng.vxe } } ∧
      (∀ t' u', 4 * t' + u' ≠ 4 * t + u → vxeOf (putOut s t u w i es) t' u' = vxeOf s t' u') ∧
      (vxeOf (putOut s t u w i es) t u).masks = (vxeOf s t u).masks) ∧
    (∀ s t u w i es, (w.r.slot i).reg = false → fmtScaled (w.r.fmt i) = false →
      let at_ := fun (e : Nat) => elemBit (w.r.slot i) (fmtBits (w.r.fmt i)) w.counts e
      putOut s t u w i es = { s with mem := { s.mem with cells := (putOut s t u w i es).mem.cells } } ∧
      ∀ a, (∀ x ∈ es, a < tileBase s t + at_ x.1 / 8 ∨
          tileBase s t + at_ x.1 / 8 + (at_ x.1 % 8 + fmtBits (w.r.fmt i) + 7) / 8 ≤ a) →
        tget 0 (putOut s t u w i es).mem.cells a = tget 0 s.mem.cells a) ∧
    (∀ s t u w es, putMask s t u w es = { s with eng := { s.eng with vxe := (putMask s t u w es).eng.vxe } } ∧
      (vxeOf (putMask s t u w es) t u).regs = (vxeOf s t u).regs) ∧
    ∀ s t u w, vecNext s t u w = { s with eng := { s.eng with units := (vecNext s t u w).eng.units, vxe := (vecNext s t u w).eng.vxe } } ∧
      (∀ t' u', 28 * t' + u' ≠ 28 * t + (4 + u) → unitOf (vecNext s t u w) t' u' = unitOf s t' u') ∧
      (unitOf (vecNext s t u w) t (4 + u)).waiting = (unitOf s t (4 + u)).waiting)

/-- R141, R143, R144, R180, R182: a reduction gathers the terms of its strip behind those that wait and writes one result for
every set that ends: the sum of the reference order, the greatest or least term, the index of the greatest, the sum of squares,
the mean and variance, the scaled elements, or the exponentials with their sum; then the list goes on.
R183–R186, R188: MASK_LOAD sets the mask bits of the kept elements that are not zero, or
writes them as 1 and 0 (the model's choice where MASK_WR is 0, log 103). GATHER, SCATTER and SCATTER_ADD work row by
row and go on when every row is done; a row of GATHER whose index is past the table is zero, any other is the table's; a row of
SCATTER past the table has no effect, any other replaces or adds to the table's, where no
mask leaves an element out. A weight update writes its new state to OUT2 and
its new weight to OUT, from its parameters. -/
def Obligations.ReductionsWriteTheirSets : Prop :=
  (
    let does := fun (row : Nat → Nat → Instr) (code : Nat) (term : State → Nat → VWork → Nat → Val)
        (emit : State → Nat → Nat → VWork → Nat × List (Option Val) → State) (after : State → State → Nat → Nat → VWork → State) =>
      ∀ s t u w, VecDue s t u code w →
        let n := (w.counts.take w.k).foldl (· * ·) 1
        let ts := w.elems.map (fun e => (e, if w.keep e then some (term s t w e) else none))
        ∃ ended waiting, gatherTerms w.r.wide n (tget [] w.v.terms w.x.recNo) ts = (ended, waiting) ∧
          let s1 := modVxe s t u (fun v => { v with terms := tput [] v.terms w.x.recNo waiting })
          exec (row t u) s = .next (vecNext (after s (ended.foldl (fun s d => emit s t u w d) s1) t u w) t u w)
    let x := fun (s : State) (t : Nat) (w : VWork) (e : Nat) => slotVal s t w 0 (operandBlock s t w.x 0) e
    let one := fun (f : VWork → List (Option Val) → Val) (s : State) (t u : Nat) (w : VWork) (d : Nat × List (Option Val)) =>
      putReduced s t u w 3 [(d.1, f w d.2)]
    let cls := fun (w : VWork) => fmtClass (w.r.fmt 0)
    let set := fun (w : VWork) => (w.counts.take w.k).foldl (· * ·) 1
    let done := fun (_ s : State) (_ _ : Nat) (_ : VWork) => s
    does .reduceSum 0x30 x (one (fun w ts => sumTerms w.x.legacy (cls w) ts)) done ∧
    does .reduceMax 0x31 x (one (fun _ ts => extremeTerm true ts)) done ∧
    does .reduceMin 0x32 x (one (fun _ ts => extremeTerm false ts)) done ∧
    does .reduceArgmax 0x33 x (fun s t u w d =>
      if (w.r.slot 3).reg then modVxe s t u (fun v => vregPut v false (w.r.slot 3).num d.1 (BitVec.ofNat 64 (argmaxTerm d.2)))
      else putBits s t (reducedBit (w.r.slot 3) 1 w.counts w.k d.1) 32 (argmaxTerm d.2)) done ∧
    does .reduceSumsq 0x34 x (one (fun w ts => sumTerms w.x.legacy (cls w) (squares w.r.wide ts))) done ∧
    does .expSubSum 0x38
      (fun s t w e => rnd w.r.wide (vexp (rnd w.r.wide) (vsub (x s t w e) (setVal s t w 1 (operandBlock s t w.x 1) (e / set w) e))))
      (fun s t u w d => putReduced s t u w 4 [(d.1, sumTerms w.x.legacy (cls w) d.2)])
      (fun s0 s t u w => putOut s t u w 3 ((w.elems.filter w.keep).map (fun e =>
        (e, rnd w.r.wide (vexp (rnd w.r.wide) (vsub (x s0 t w e) (setVal s0 t w 1 (operandBlock s0 t w.x 1) (e / set w) e))))))) ∧
    does .rmsScale 0x39 x (fun s t u w d =>
      let r := rmsOf w.x.legacy w.r.wide (cls w) (immVal w.r.wide w.r.imm0) d.2
      putOut s t u w 3 ((d.2.zip (upFrom (set w * d.1) (set w))).filterMap (fun y => y.1.map (fun v =>
        (y.2, rnd w.r.wide (vmul (rnd w.r.wide (vmul v r)) (slotVal s t w 1 (operandBlock s t w.x 1) y.2))))))) done ∧
    does .meanVar 0x3A x (fun s t u w d =>
      let mv := meanVar w.x.legacy w.r.wide (cls w) d.2
      putReduced (putReduced s t u w 3 [(d.1, mv.1)]) t u w 4 [(d.1, mv.2)]) done) ∧
  (
    (∀ s t u w, VecDue s t u 0x0F00 w →
      let es := (w.elems.filter w.keep).map (fun e => (e, vtrue (slotExact s t w 0 (operandBlock s t w.x 5) e)))
      exec (.maskLoad t u) s = .next (vecNext (
        if w.r.maskWr then putMask s t u w es
        else putOut s t u w 3 (es.map (fun x => (x.1, if x.2 then .fin false 1 0 else vzero false)))) t u w)) ∧
    (∀ s t u w s1, VecDue s t u 0x40 w → tableRows 0 true false s t w (overRows (gatherRow t u w) s w.rows) = .ok s1 →
      exec (.gather t u) s = .next (vecNext s1 t u w)) ∧
    (∀ s t u w s1, VecDue s t u 0x41 w → tableRows 3 false true s t w (overRows (scatterRow false t w) s w.rows) = .ok s1 →
      exec (.scatter t u) s = .next (vecNext s1 t u w)) ∧
    (∀ s t u w s1, VecDue s t u 0x42 w → tableRows 3 true true s t w (overRows (scatterRow true t w) s w.rows) = .ok s1 →
      exec (.scatterAdd t u) s = .next (vecNext s1 t u w)) ∧
    (∀ s t u w i, (w.r.slot 0).rows ≤ indexVal s t w i → fmtScaled (w.r.fmt 0) = false →
      gatherRow t u w s i = .ok (putOut s t u w 3 (((upFrom (i * w.counts.headD 1) (w.counts.headD 1)).filter w.keep).map (fun e => (e, vzero false))))) ∧
    (∀ s t u w i ps, indexVal s t w i < (w.r.slot 0).rows → fmtScaled (w.r.fmt 0) = false →
      rowAccess s w.x.ctx [((w.r.slot 0).va + indexVal s t w i * (w.r.slot 0).rowStride, (w.r.slot 0).rowBytes)] needRead = .ok ps →
      badPiece s ps = none →
      gatherRow t u w s i = .ok (putOut s t u w 3 (((upFrom (i * w.counts.headD 1) (w.counts.headD 1)).zip
        ((unpackRow (fmtBits (w.r.fmt 0)) (readPieces s ps) (w.counts.headD 1)).map (fun v => rnd w.r.wide (decodeElem (w.r.fmt 0) v)))).filter
          (fun x => w.keep x.1)))) ∧
    (∀ add s t w i, (w.r.slot 3).rows ≤ indexVal s t w i → scatterRow add t w s i = .ok s) ∧
    (∀ s t w i ps, indexVal s t w i < (w.r.slot 3).rows →
      rowAccess s w.x.ctx [((w.r.slot 3).va + indexVal s t w i * (w.r.slot 3).rowStride, (w.r.slot 3).rowBytes)] needWrite = .ok ps →
      badPartial s ps = none → (∀ e ∈ upFrom (i * w.counts.headD 1) (w.counts.headD 1), w.keep e = true) →
      scatterRow false t w s i = .ok (writePieces s ps ((upFrom (i * w.counts.headD 1) (w.counts.headD 1)).flatMap (fun e =>
        leBytes (fmtBits (w.r.fmt 3) / 8) (encodeElem (w.r.fmt 3) (slotVal s t w 0 (operandBlock s t w.x 0) e)))))) ∧
    (∀ s t w i ps, indexVal s t w i < (w.r.slot 3).rows →
      rowAccess s w.x.ctx [((w.r.slot 3).va + indexVal s t w i * (w.r.slot 3).rowStride, (w.r.slot 3).rowBytes)] (needRead + needWrite) = .ok ps →
      badPiece s ps = none → (∀ e ∈ upFrom (i * w.counts.headD 1) (w.counts.headD 1), w.keep e = true) →
      let old := unpackRow (fmtBits (w.r.fmt 3)) (readPieces s ps) (w.counts.headD 1)
      scatterRow true t w s i = .ok (writePieces s ps ((old.zip (upFrom (i * w.counts.headD 1) (w.counts.headD 1))).flatMap (fun x =>
        leBytes (fmtBits (w.r.fmt 3) / 8) (encodeElem (w.r.fmt 3)
          (rnd w.r.wide (vadd (rnd w.r.wide (decodeElem (w.r.fmt 3) x.1)) (slotVal s t w 0 (operandBlock s t w.x 0) x.2)))))))) ∧
    (∀ s t u w ps, VecDue s t u 0x50 w → paramsAt s t w = .ok ps → badPiece s (ps.filter (fun p => cacheable p.1)) = none →
      let p := (paramsRead s ps).map (fun v => immVal w.r.wide v)
      let es := w.elems.filter w.keep
      let get := fun (i e : Nat) => slotVal s t w i (operandBlock s t w.x i) e
      let step := fun (e : Nat) => sgdElem w.r.wide p (get 0 e) (get 1 e) (get 2 e)
      exec (.sgdMomentum t u) s = .next (vecNext (putWeights (putState s t u w (es.map (fun e => (e, (step e).2)))) t u w
        (es.map (fun e => (e, (step e).1)))) t u w)) ∧
    ∀ s t u w ps, VecDue s t u 0x51 w → paramsAt s t w = .ok ps → badPiece s (ps.filter (fun p => cacheable p.1)) = none →
      let p := (paramsRead s ps).map (fun v => immVal w.r.wide v)
      let es := w.elems.filter w.keep
      let get := fun (i e : Nat) => slotVal s t w i (operandBlock s t w.x i) e
      let v := fun (e : Nat) => slotVal s t (withSlot w 2 (outerSlot w 2 (operandBlock s t w.x 2))) 2 (operandBlock s t w.x 2) e
      let step := fun (e : Nat) => adamElem w.r.wide p (get 0 e) (get 1 e) (get 2 e) (v e)
      exec (.adamw t u) s = .next (vecNext (putWeights
        (putState (putState s t u w (es.map (fun e => (e, (step e).2.1)))) t u (withSlot w 4 (outerSlot w 4 (blockLen w.r.kind2)))
          (es.map (fun e => (e, (step e).2.2)))) t u w (es.map (fun e => (e, (step e).1)))) t u w))

/-- R140–R144, R152, R156, R157, R162–R164: a PASS in order streams its panels into its bank: cell (i, j) takes row i of A and column j
of B in ascending K behind what it held (a FRESH cell begins as the class and order say); with KEEP the record is done, otherwise
its output is due. COMBINE adds two partials cell by cell. Only the engine's banks and its place in its list change.
R157, R161, R165, R166: the output that is due ends its record and frees its bank or sums. SAVE writes the bank's 589,888-byte
state image at ACC_OFFSET; PARTIAL writes the 65,536 bytes of the binary32 sums there; FINISH writes D, element (i, j) being C plus
the sum, scaled, biased and clipped. No byte of memory outside those regions changes. -/
def Obligations.PassesAccumulate : Prop :=
  (
    (∀ s t u x r, curRecord s t u = some (x, r) → tileRuns s t = true → u < 4 → x.outDue = false → r.op = 1 →
      passError s t u x.legacy r = false →
      ∃ v, exec (.pass t u) s = .next v ∧
        v = { s with eng := { s.eng with mxe := v.eng.mxe, units := v.eng.units } } ∧
        (∀ t' u', 4 * t' + u' ≠ 4 * t + u → mxeOf v t' u' = mxeOf s t' u') ∧
        (∀ t' u', 28 * t' + u' ≠ 28 * t + u → unitOf v t' u' = unitOf s t' u') ∧
        bankOf v t u (!r.bank) = bankOf s t u (!r.bank) ∧
        (bankOf v t u r.bank).k = r.kStart + r.kLen ∧
        (∀ i j, i < 128 → j < 128 →
          tget {} (bankOf v t u r.bank).cells (128 * i + j) =
            cellPass x.legacy r.cls (r.kStart / sumBlock x.legacy r.cls) (tget {} (startBank s t u x r).cells (128 * i + j))
              ((panelRow s t r.aFmt r.aAt r.aScale r.aL r.aM r.kLen i).zip (panelRow s t r.bFmt r.bAt r.bScale r.bL r.bN r.kLen j))) ∧
        (r.accIn = 0 → (startBank s t u x r).blocks = 0 ∧ ∀ i j, i < 128 → j < 128 → tget {} (startBank s t u x r).cells (128 * i + j) =
          freshCell x.legacy r.cls (if (r.cls = 64 ∨ x.legacy = true) ∧ r.cFmt ≠ 15 ∧ i < r.rows ∧ j < r.cols then
            some (panelElem s t r.cFmt r.cAt r.cL r.cM i j) else none)) ∧
        (r.accIn = 1 → (startBank s t u x r).cells = (bankOf s t u r.bank).cells ∧ (startBank s t u x r).blocks = (bankOf s t u r.bank).blocks) ∧
        (unitOf v t u).outDue = decide (r.accOut ≠ 0)) ∧
    ∀ s t u x r, curRecord s t u = some (x, r) → tileRuns s t = true → u < 4 → x.outDue = false → r.op = 2 →
      combineError x.legacy r = false →
      ∃ v, exec (.combine t u) s = .next v ∧
        v = { s with eng := { s.eng with mxe := v.eng.mxe, units := v.eng.units } } ∧
        (∀ i, i < 16384 → tget 0 (mxeOf v t u).sums i =
          add32 (BitVec.ofNat 64 (leNat (tileBytes s t (r.aAt + 4 * i) 4))) (BitVec.ofNat 64 (leNat (tileBytes s t (r.bAt + 4 * i) 4)))) ∧
        (mxeOf v t u).b0 = (mxeOf s t u).b0 ∧ (mxeOf v t u).b1 = (mxeOf s t u).b1 ∧ (unitOf v t u).outDue = true) ∧
  (
    let ends := fun (s v : State) (t u : Nat) (r : PassRec) =>
      (if r.op = 2 then (mxeOf v t u).sums = [] else bankOf v t u r.bank = {}) ∧
      v = { s with eng := { s.eng with mxe := v.eng.mxe, units := v.eng.units }, mem := { s.mem with cells := v.mem.cells } } ∧
      (∀ t' u', 4 * t' + u' ≠ 4 * t + u → mxeOf v t' u' = mxeOf s t' u') ∧
      (unitOf v t u).outDue = false
    let window := fun (s v : State) (t at_ : Nat) (bs : List Byte) =>
      ∀ a, tget 0 v.mem.cells a =
        if tileBase s t + at_ ≤ a ∧ a < tileBase s t + at_ + bs.length then bs.getD (a - (tileBase s t + at_)) 0 else tget 0 s.mem.cells a
    let word := fun (s : State) (t u : Nat) (x : EngUnit) (r : PassRec) (i : Nat) =>
      let v := if r.op = 2 then tget 0 (mxeOf s t u).sums i else cellSum x.legacy r.cls (tget {} (bankOf s t u r.bank).cells i)
      if r.cls = 64 ∧ r.op ≠ 2 then bits32 (rnd false (ofBits true v)) else v
    (∀ s t u x r, curRecord s t u = some (x, r) → tileRuns s t = true → x.outDue = true → r.accOut = 1 →
      ∃ v, exec (.save t u) s = .next v ∧ ends s v t u r ∧ window s v t r.accAt (bankImage (decide (r.cls = 64)) (bankOf s t u r.bank))) ∧
    (∀ s t u x r, curRecord s t u = some (x, r) → tileRuns s t = true → x.outDue = true → r.accOut = 3 →
      ∃ v, exec (.partialSum t u) s = .next v ∧ ends s v t u r ∧
        window s v t r.accAt ((upFrom 0 16384).flatMap (fun i => leBytes 4 (word s t u x r i).toNat))) ∧
    (∀ s t u x r, curRecord s t u = some (x, r) → tileRuns s t = true → x.outDue = true → r.accOut = 2 → fmtScaled r.dFmt = false →
      ∃ v, exec (.finish t u) s = .next v ∧ ends s v t u r ∧
        v.mem = (finishPlain s t r (fun i c => stage3 s t u x.legacy r i c)).mem ∧
        ∀ a, (∀ i, i < r.rows → a < tileBase s t + (r.dAt + i * 16 * fmtBits r.dFmt) ∨
            tileBase s t + (r.dAt + i * 16 * fmtBits r.dFmt) + ceilDiv (fmtBits r.dFmt * r.cols) 8 ≤ a) →
          tget 0 v.mem.cells a = tget 0 s.mem.cells a) ∧
    ∀ s t u x r, curRecord s t u = some (x, r) → tileRuns s t = true → x.outDue = true → r.accOut = 2 → fmtScaled r.dFmt = true →
      ∃ v, exec (.finish t u) s = .next v ∧ ends s v t u r ∧
        v.mem = (finishScaled s t r (fun i c => stage3 s t u x.legacy r i c)).mem)

/-- R387: NOP has no effect, and its words are ignored. ORDER has the next write issued to its context's port go out without
Relaxed Ordering, behind every earlier write of that port; on a cores-bound queue it has no effect. -/
def Obligations.NopAndOrderFollowR387 : Prop :=
  (∀ s q c, CmdDue s q 0x00 c → exec (.nop q) s = .next (outcome s q c 0 0)) ∧
  (∀ s q c, CmdDue s q 0x03 c → cmdCtx s q c ≠ 0 →
    exec (.order q) s = .next (
      if (ctxOf s (cmdCtx s q c)).binding < 2 then
        outcome (modPort s (ctxOf s (cmdCtx s q c)).binding (fun x => { x with orderNext := true })) q c 0 0
      else outcome s q c 0 0)) ∧
  ∀ s p b, (portOf s p).orderNext = true → (portOf s p).silent = false → (portOf s p).lost = false →
    let t := postOne s p b
    (portOf t p).orderNext = false ∧
      (if (portOf s p).holding then (portOf t p).held = (portOf s p).held ++ [{ b with relaxed := false }]
        else (portOf t p).out = (portOf s p).out ++ [{ b with relaxed := false }]) ∧
      ∀ b', ∃ r, r.relaxed = b'.relaxed ∧ (if (portOf s p).holding then (portOf (postOne t p b') p).held = (portOf t p).held ++ [r]
        else (portOf (postOne t p b') p).out = (portOf t p).out ++ [r])

/-- R388, R389, R390: a FENCE_SIGNAL leaves its fence at max(current, VALUE), unsigned, and answers FENCE_STALE below the value it
finds; no other byte changes. A FENCE_WAIT begins to poll; a read that finds TARGET or more ends it with that value, a lower one is
only remembered. ORDER on a house queue with CONTEXT 0 acts on that queue's own port, on the jack on none (the model's choice,
log 76). -/
def Obligations.FencesAndWaitsFollowR389 : Prop :=
  (∀ s q c pa, CmdDue s q 0x01 c → bits (wordAt c.words 1) 54 0 % 8 = 0 →
    fenceAt s (cmdCtx s q c) (bits (wordAt c.words 1) 54 0) needSignal = .at pa → pa % 8 = 0 → dirOf s (pa / 128) = {} → s.coh.queue = [] →
    ∃ t, exec (.fenceSignal q) s = .next (outcome t q c (if (wordAt c.words 2).toNat < (readWord s pa).toNat then 1 else 0) (readWord s pa)) ∧
      readWord t pa = (if (readWord s pa).toNat < (wordAt c.words 2).toNat then wordAt c.words 2 else readWord s pa) ∧
      (∀ a, a < pa ∨ pa + 8 ≤ a → readByte t a = readByte s a) ∧
      t = { s with mem := { s.mem with cells := t.mem.cells, bad := t.mem.bad }, coh := { s.coh with llm := t.coh.llm, stale := t.coh.stale } }) ∧
  (∀ s q c pa, CmdDue s q 0x02 c → bits (wordAt c.words 1) 54 0 % 8 = 0 →
    fenceAt s (cmdCtx s q c) (bits (wordAt c.words 1) 54 0) needRead = .at pa →
    exec (.fenceWait q) s = .next (modCmd s q c.idx (fun x => { x with stage := 1 }))) ∧
  (∀ s q c pa, headCmd (queueOf s q) = some c → cmdOf s q c.idx = some c → c.stage = 1 → c.fin = none → pktOp (wordAt c.words 0) = 0x02 →
    (ctxOf s (cmdCtx s q c)).fault = none →
    fenceAt s (cmdCtx s q c) (bits (wordAt c.words 1) 54 0) needRead = .at pa →
    let read := modCmd s q c.idx (fun x => { x with last := readWord s pa })
    exec (.fenceWaitRead q) s = .next (
      if (wordAt c.words 2).toNat ≤ (readWord s pa).toNat then outcome read q { c with last := readWord s pa } 0 (readWord s pa) else read)) ∧
  ∀ s q c, CmdDue s q 0x03 c → cmdCtx s q c = 0 → isHouse q = true →
    exec (.order q) s = .next (if q < 2 then outcome (modPort s q (fun x => { x with orderNext := true })) q c 0 0 else outcome s q c 0 0)

/-- R401: ENERGY_QUERY answers with one µJ counter: of a queue of its context (of any queue, on a house queue), of the context, or of
its partition; SCOPE 3 is BAD_FORMAT. Nothing else changes.
R380, R382, R383: a packet whose opcode no table defines is recorded at once with BAD_OPCODE; nothing of its words is performed:
clocks, links, power, security, engines and the panel stay as they are.
R402–R404: an ABORT waits for its effect boundary (a house ABORT counts as complete for the order of its queue from its take on);
there a target that has been taken and not started is recorded with ABORTED and the ABORT with OK. No engine, link or power state
changes. -/
def Obligations.EnergyQueryReadsOneCounter : Prop :=
  (
    ∀ s q c, CmdDue s q 0x60 c →
      let w := wordAt c.words 1
      let say := fun (e : Nat) => outcome s q c 0 (BitVec.ofNat 64 (e / 1024))
      (bits w 1 0 = 0 → queueUsed s (bits w 41 32) = true → (isHouse q = true ∨ (queueOf s (bits w 41 32)).ctx = cmdCtx s q c) →
        exec (.energyQuery q) s = .next (say (queueOf s (bits w 41 32)).energy)) ∧
      (bits w 1 0 = 1 → cmdCtx s q c ≠ 0 → exec (.energyQuery q) s = .next (say (ctxOf s (cmdCtx s q c)).energy)) ∧
      (bits w 1 0 = 2 → cmdCtx s q c ≠ 0 → exec (.energyQuery q) s = .next (say (partOf s (ctxOf s (cmdCtx s q c)).part).energy)) ∧
      (bits w 1 0 = 3 → exec (.energyQuery q) s = .next (reject s q c stBadFormat 1))) ∧
  (
    ∀ s q c, headCmd (queueOf s q) = some c → cmdOf s q c.idx = some c → c.stage = 0 → c.fin = none → c.started = some s.clk.cue →
      pktOp (wordAt c.words 0) ∉ knownOps → s.sec.limp = false → (isHouse q = true ∨ houseOnly (pktOp (wordAt c.words 0)) = false) →
      ∃ t, exec (.badOpcodePacket q) s = .next t ∧ Recorded t q c 0x0200 ∧
        t.clk = s.clk ∧ t.net = s.net ∧ t.pow = s.pow ∧ t.sec = s.sec ∧ t.eng = s.eng ∧ t.panel = s.panel ∧ t.parts = s.parts) ∧
  (
    (∀ s q idx c, cmdOf s q idx = some c → pktOp (wordAt c.words 0) = 0x50 → c.stage = 0 → c.fin = none → isHouse q = true →
      deskCheck s q (wordAt c.words 0) = none → mayAbort s q (bits (wordAt c.words 1) 9 0) = true →
      exec (.abort q idx) s = .next (modCmd s q idx (fun x => { x with stage := 1, passed := true, started := some c.taken }))) ∧
    (∀ s q c, CmdDue s q 0x50 c → isHouse q = false → mayAbort s q (bits (wordAt c.words 1) 9 0) = true →
      exec (.abort q c.idx) s = .next (modCmd s q c.idx (fun x => { x with stage := 1 }))) ∧
    ∀ s q idx c n x, cmdOf s q idx = some c → c.idx = idx → pktOp (wordAt c.words 0) = 0x50 → c.stage = 1 → c.fin = none →
      (if isHouse q then c.taken + 2 else c.started.getD s.clk.cue + 1) ≤ s.clk.cue → bit (wordAt c.words 1) 63 = false →
      n = bits (wordAt c.words 1) 9 0 → n ≠ q → ctxFalling s (queueOf s q).ctx = false → ctxFalling s (queueOf s n).ctx = false →
      (queueOf s n).recent.find? (fun r => r.1 == bits (wordAt c.words 2) 31 0 && r.2.2 == s.clk.cue) = none →
      (queueOf s n).cmds.find? (fun y => pktSeq (wordAt y.words 0) == bits (wordAt c.words 2) 31 0 && (n, y.idx) != (q, idx)) = some x →
      cmdOf s n x.idx = some x → x.started = none → x.fin = none →
      ∃ t, exec (.abortEffect q idx) s = .next t ∧ Recorded t n x 4 ∧ Recorded t q c 0 ∧
        t.clk = s.clk ∧ t.net = s.net ∧ t.pow = s.pow ∧ t.sec = s.sec ∧ t.eng = s.eng ∧ t.panel = s.panel ∧ t.parts = s.parts)

/-- R345, R346, R391: a well-formed copy command starts its transfer, from its packet's fields, on mover q mod 4 of the tile at place
q mod n among the partition's n in-service tiles; COPY_COMPLETE, after the last write, ends it: the queue keeps no transfer.
R335–R338, R391: a sound record of a mover's list starts when none is in progress; a TRANSFER_TILE of a record between tile stores
(or from a pattern) writes the next 8,192 stream bytes at most, in stream order, at its destination and nowhere else, and the record
ends with its last tile, where the slot runs of the entry in force grant the tile what it needs (R53); one of a FILL command writes its pattern through the context's pages. -/
def Obligations.CopyCommandsStartAndComplete : Prop :=
  (
    (∀ (row : Nat → Instr) (op : Nat), (row, op) ∈ [(Instr.copy, 0x10), (Instr.fill, 0x11), (Instr.copyChecked, 0x12)] →
      ∀ s q c, CmdDue s q op c →
        let tiles := liveTiles s (ctxOf s (queueOf s q).ctx).part
        let x := packetTransfer (queueOf s q).ctx (tiles.getD (q % tiles.length) 0) op c.words
        (copyFormat s x = none → tiles ≠ [] →
          ∃ t, exec (row q) s = .next t ∧ t = { modCmd s q c.idx (fun y => { y with stage := 1 }) with eng := t.eng } ∧
            t.eng = { s.eng with copies := t.eng.copies } ∧ tget none t.eng.copies q = some x ∧
            (∀ k, k ≠ q → tget none t.eng.copies k = tget none s.eng.copies k) ∧
            x.src = bits (wordAt c.words 1) 54 0 ∧ x.dst = bits (wordAt c.words 2) 54 0 ∧ x.at_ = 0 ∧
            x.counts = [bits (wordAt c.words 3) 63 32, bits (wordAt c.words 3) 31 0, bits (wordAt c.words 4) 63 32, bits (wordAt c.words 4) 31 0] ∧
            (op = 0x11 → x.srcKind = 2 ∧ x.pattern = wordAt c.words 11) ∧ (op ≠ 0x12 → x.mode = 0 ∧ x.save = false)) ∧
        (∀ w, copyFormat s x = some w → exec (row q) s = .next (reject s q c stBadFormat w)) ∧
        (copyFormat s x = none → tiles = [] → exec (row q) s = .next (reject s q c stNoResource 0))) ∧
    ∀ s q c x e, headCmd (queueOf s q) = some c → cmdOf s q c.idx = some c → c.stage = 1 → c.fin = none → tget none s.eng.copies q = some x →
      x.ended = some e → e < s.clk.cue → s.net.xfers.any (fun kv => kv.2.used && kv.2.kind == 1 && kv.2.owner.1 == q) = false →
      ∃ t, exec (.copyComplete q) s = .next t ∧ Recorded t q c 0 ∧ tget none t.eng.copies q = none ∧
        (∀ k, k ≠ q → tget none t.eng.copies k = tget none s.eng.copies k) ∧
        t = { t with clk := s.clk, pow := s.pow, sec := s.sec, panel := s.panel, parts := s.parts } ∧
        t.eng = { s.eng with copies := t.eng.copies }) ∧
  (
    (∀ s t u st, (unitOf s t (24 + u)).cur = some st → tileRuns s t = true → tget none s.eng.mover (4 * t + u) = none →
      (unitOf s t (24 + u)).recNo < (unitOf s t (24 + u)).count →
      let ws := tileWords s t (st.desc + 64 + 128 * (unitOf s t (24 + u)).recNo) 16
      badRecord s t ws = false →
      ∃ v, exec (.transferRecord t u) s = .next v ∧
        v = { s with eng := { s.eng with units := v.eng.units, mover := v.eng.mover } } ∧
        tget none v.eng.mover (4 * t + u) = some (recordTransfer s t (unitOf s t (24 + u)).ctx ws) ∧
        (∀ k, k ≠ 4 * t + u → tget none v.eng.mover k = tget none s.eng.mover k) ∧
        unitOf v t (24 + u) = { unitOf s t (24 + u) with recNo := (unitOf s t (24 + u)).recNo + 1 } ∧
        (∀ t' u', 28 * t' + u' ≠ 28 * t + (24 + u) → unitOf v t' u' = unitOf s t' u')) ∧
    (∀ s t m x, tget none s.eng.mover (4 * t + m) = some x → tileRuns s t = true → (ctxOf s x.ctx).fault = none →
      x.srcKind ≠ 0 → x.srcTile < 72 → x.dstKind = 1 → x.dstTile < 72 → x.mode = 0 → x.save = false → x.at_ < streamLen x →
      (∀ r ∈ srcRuns x x.at_ (tileLen x), r.1 + r.2 ≤ tileSize) → (∀ r ∈ dstRuns x x.at_ (tileLen x), r.1 + r.2 ≤ tileSize) →
      x.srcPlace = [] → x.dstPlace = [] → x.xfer = none → x.fetch = none → portsTake s [] = true →
      transferGranted s t (if x.srcKind = 1 then (srcRuns x x.at_ (tileLen x)).map (fun r => (tileBase s x.srcTile + r.1, r.2)) else [])
        ((dstRuns x x.at_ (tileLen x)).map (fun r => (tileBase s x.dstTile + r.1, r.2))) = true →
      let bytes := if x.srcKind = 2 then (upFrom x.at_ (tileLen x)).map (fun i => x.pattern.extractLsb' (8 * (i % 8)) 8)
        else (srcRuns x x.at_ (tileLen x)).flatMap (fun r => (upFrom r.1 r.2).map (fun a => tget 0 s.mem.cells (tileBase s x.srcTile + a)))
      let addrs := (dstRuns x x.at_ (tileLen x)).flatMap (fun r => upFrom (tileBase s x.dstTile + r.1) r.2)
      x.srcKind < 3 →
      ∃ v, exec (.transferTile (.sched t m)) s = .next v ∧
        v = { s with mem := { s.mem with cells := v.mem.cells }, eng := { s.eng with mover := v.eng.mover } } ∧
        v.mem.cells = (addrs.zip bytes).foldl (fun z y => tput 0 z y.1 y.2) s.mem.cells ∧
        (tget none v.eng.mover (4 * t + m) =
          if x.at_ + tileLen x < streamLen x then some { x with at_ := x.at_ + tileLen x } else none) ∧
        ∀ k, k ≠ 4 * t + m → tget none v.eng.mover k = tget none s.eng.mover k) ∧
    ∀ s q c x ps, tget none s.eng.copies q = some x → headCmd (queueOf s q) = some c → c.stage = 1 → c.fin = none → x.ended = none →
      tileServes s x.tile = true → (ctxOf s x.ctx).fault = none → x.srcKind = 2 → x.dstKind = 0 → x.mode = 0 → x.save = false →
      x.srcPlace = [] → x.dstPlace = [] → x.xfer = none → x.xferIn = none → x.fetch = none → x.at_ < streamLen x →
      resolveRuns s x.ctx (dstRuns x x.at_ (tileLen x)) needWrite = .ok ps → (∀ p ∈ ps, cacheable p.1 = true) → badPartial s ps = none →
      portsTake s [] = true →
      let w := writePieces s ps ((upFrom x.at_ (tileLen x)).map (fun i => x.pattern.extractLsb' (8 * (i % 8)) 8))
      ∃ v, exec (.transferTile (.cmd q)) s = .next v ∧ v = { w with eng := v.eng } ∧
        v.eng = { s.eng with copies := v.eng.copies, moved := s.eng.moved ++ [(x.tile, q, tileLen x)] } ∧
        tget none v.eng.copies q = some { x with
          at_ := x.at_ + tileLen x, ended := if x.at_ + tileLen x < streamLen x then none else some s.clk.cue } ∧
        ∀ k, k ≠ q → tget none v.eng.copies k = tget none s.eng.copies k)

/-- R75, R85–R88, R389: once the nodes it waits for are complete, a SIGNAL node raises its fence to max(current, VALUE); a WINDOW_GET,
a WINDOW_PUT and a COPY that no step of the plan carries out become transfers of their run; the node counts as carried out. The
packets of a put go to the link that its route names, in order, and carry the tensor's packed bytes. -/
def Obligations.NodesThatLeaveTheEnginesAreCarriedOut : Prop :=
  (∀ s p run node r sc ws pa, nodeDue s p run node 7 = some (r, sc, ws) → earlierDone s p r node = true →
    fenceAt s r.ctx (bits (wordAt ws 1) 54 0) needSignal = .at pa → pa % 8 = 0 → dirOf s (pa / 128) = {} → s.coh.queue = [] →
    ∃ t, exec (.signalNode p run node) s = .next t ∧
      readWord t pa = (if (readWord s pa).toNat < (wordAt ws 2).toNat then wordAt ws 2 else readWord s pa) ∧
      (∀ a, a < pa ∨ pa + 8 ≤ a → readByte t a = readByte s a) ∧
      runOf t p run = some { r with done := r.done ++ [node] } ∧
      t = { s with parts := t.parts, mem := { s.mem with cells := t.mem.cells, bad := t.mem.bad }, coh := { s.coh with llm := t.coh.llm, stale := t.coh.stale } }) ∧
  (∀ s p run node x r sc ws, nodeDue s p run node 4 = some (r, sc, ws) → (xferOf s x).used = false →
    let a := bits (wordAt ws 1) 63 48
    let b := bits (wordAt ws 1) 47 32
    let n := tensorPacked (sc.tensors.getD a []) + tensorScales (sc.tensors.getD a [])
    sourceReady r sc node a = true → nodeSteps sc node = [] →
    ∃ t, exec (.copyLeavingPartition p run node x) s = .next t ∧ t = { s with parts := t.parts, net := { s.net with xfers := t.net.xfers } } ∧
      runOf t p run = some { r with xfers := r.xfers ++ [x], done := r.done ++ [node] } ∧
      (∀ y, y ≠ x → xferOf t y = xferOf s y) ∧ (∀ k, k ≠ p → partOf t k = partOf s k) ∧
      let v := xferOf t x
      v.used = true ∧ v.ctx = r.ctx ∧ v.len = n ∧ v.owner = (p, run) ∧ v.node = node ∧ v.data.counts = [n, 1, 1, 1] ∧
        v.data.srcTensor = sc.tensors.getD a [] ∧ v.data.dstTensor = sc.tensors.getD b [] ∧
        v.data.srcPlace = placeOf sc a ∧ v.data.dstPlace = placeOf sc b ∧ v.data.checkLen = some (tensorPacked (sc.tensors.getD a []))) ∧
  (∀ s p run node x r sc ws l, nodeDue s p run node 6 = some (r, sc, ws) → (xferOf s x).used = false →
    let tn := bits (wordAt ws 1) 63 48
    let n := tensorPacked (sc.tensors.getD tn [])
    routeOf s s.clk.cueMaster (bits (wordAt ws 1) 47 24) = l → l < 48 → (linkOf s l).state = 4 →
    ∃ t qs, exec (.windowGet p run node x) s = .next t ∧ (linkOf t l).out = (linkOf s l).out ++ qs ∧
      runOf t p run = some { r with xfers := r.xfers ++ [x], done := r.done ++ [node] } ∧
      (xferOf t x).used = true ∧ (xferOf t x).get = true ∧ (xferOf t x).len = n ∧
      (qs.map (fun q => hLength q.1)).sum = n ∧
      (∀ q ∈ qs, hType q.1 = 1 ∧ hDst q.1 = bits (wordAt ws 1) 47 24 ∧ hWindow q.1 = bits (wordAt ws 1) 23 12 ∧
        hEpoch q.1 = bits (wordAt ws 2) 63 48 ∧ q.2 = []) ∧
      t.mem = s.mem ∧ t.coh = s.coh ∧ t.ctxs = s.ctxs ∧ t.queues = s.queues ∧ t.pow = s.pow ∧ t.eng = s.eng) ∧
  ∀ s p run node x r sc ws l ps, nodeDue s p run node 5 = some (r, sc, ws) → (xferOf s x).used = false →
    let tn := bits (wordAt ws 1) 63 48
    let n := tensorPacked (sc.tensors.getD tn [])
    sourceReady r sc node tn = true → leaves s r.ctx (sc.tensors.getD tn []) = false →
    resolveRuns s r.ctx (tensorRuns (sc.tensors.getD tn []) 0 n) needRead = .ok ps → badPiece s ps = none → bit (wordAt ws 3) 63 = false →
    routeOf s s.clk.cueMaster (bits (wordAt ws 1) 47 24) = l → l < 48 → (linkOf s l).state = 4 →
    ∃ t qs, exec (.windowPut p run node x) s = .next t ∧ (linkOf t l).out = (linkOf s l).out ++ qs ∧
      runOf t p run = some { r with xfers := r.xfers ++ [x], done := r.done ++ [node] } ∧
      qs.flatMap (fun q => q.2) = readPieces s ps ∧
      (∀ q ∈ qs, hType q.1 = 0 ∧ hDst q.1 = bits (wordAt ws 1) 47 24 ∧ hWindow q.1 = bits (wordAt ws 1) 23 12 ∧
        hEpoch q.1 = bits (wordAt ws 2) 63 48 ∧ hLength q.1 = q.2.length ∧ q.2.length ≤ 256) ∧
      t.mem = s.mem ∧ t.coh = s.coh ∧ t.ctxs = s.ctxs ∧ t.queues = s.queues ∧ t.pow = s.pow ∧ t.eng = s.eng

/-- R263, R264, R267: the home of a line takes the first request for it, while it is not BUSY. RD_SHARED of a line that no cache holds is
granted E, otherwise S; RD_OWN is granted M, both with home data; OWN_NODATA, and UPGRADE of a cache that shares the line, are granted
M without data; an UPGRADE of another cache is an RD_OWN. Where other caches must first give the line up, snoops go to each: DOWNGRADE
(0) for RD_SHARED of an owned line, INVALIDATE (1) otherwise. No memory and no other line's entry changes.
R266, R268, R325: an uncached request that lies in one line, passes the owner check and is first for its line is performed at once
where no cache must answer: READ_ONCE returns home data, WRITE_INV merges the bytes that its mask lets through at home, HOME_ATOMIC leaves its new value and returns
the old one. Otherwise snoops go out: READ_ONCE to an owner, INVALIDATE to every holder of a line to be written. -/
def Obligations.HomesAnswerRequestsOfCaches : Prop :=
  (
    ∀ s x line (r : Req) (row : Nat → Nat → Instr),
      (r, row) ∈ [(Req.rdShared, Instr.rdShared), (.rdOwn, .rdOwn), (.ownNodata, .ownNodata), (.upgrade, .upgrade)] →
      homeServes s line = true → nextAsker s line = some (.cache x r) →
      let e := dirOf s line
      (e.sharers ≠ 0 ∨ (s.coh.dir.filter (fun kv => kv.1 % 131072 == line % 131072 && homeHub (128 * kv.1) == homeHub (128 * line))).length < 16) →
      let r' := if r = .upgrade ∧ e.sharers.testBit x = false then Req.rdOwn else r
      let snoops := othersOf e x ≠ [] ∧ (r' = .rdShared → e.owned = true)
      let nodata := r' = .ownNodata ∨ r' = .upgrade
      let alone := r' ≠ .rdShared ∨ e.sharers = 0
      (snoops ∨ nodata ∨ (e.data = none ∧ badBurst s (128 * line) 128 = none)) →
      ∃ t, exec (row x line) s = .next t ∧
        t = { s with coh := { s.coh with
          dir := t.coh.dir, llm := t.coh.llm, stale := t.coh.stale, age := t.coh.age, queue := s.coh.queue.erase (line, .cache x r) } } ∧
        (∀ k, k ≠ line → dirOf t k = dirOf s k) ∧
        (snoops → dirOf t line = { e with
          busy := some (.cache x r'), awaiting := (othersOf e x).map (fun y => (y, if r' = .rdShared then 0 else 1)) }) ∧
        (¬ snoops → dirOf t line = { e with
          busy := some (.cache x r'), awaiting := [], data := if r' = .ownNodata then e.data else none, age := if e.sharers = 0 then s.coh.age else e.age
          granted := some (x, if r' = .rdShared then (if e.sharers = 0 then .e else .s) else .m, if nodata then none else some (homeLine s line))
          owned := decide alone, sharers := if alone then 2 ^ x else e.sharers ||| 2 ^ x })) ∧
  (
    let first := fun (s : State) (c pa : Nat) => (dirOf s (pa / 128)).busy = none ∧ (∀ q ∈ s.coh.queue, q.1 ≠ pa / 128) ∧
      homeServes s (pa / 128) = true ∧ ownerOk s c pa = true ∧ deadAddr s pa = none
    let waits := fun (s : State) (line k : Nat) (row : Instr) (a : Asker) =>
      ∃ t, exec row s = .next t ∧ t = { s with coh := { s.coh with dir := t.coh.dir } } ∧ (∀ j, j ≠ line → dirOf t j = dirOf s j) ∧
        dirOf t line = { dirOf s line with busy := some a, awaiting := (bitList (dirOf s line).sharers 200).map (fun y => (y, k)) }
    let free := fun (s t : State) (line : Nat) => (∀ j, j ≠ line → dirOf t j = dirOf s j) ∧
      dirOf t line = if (dirOf s line).sharers = 0 then {} else { dirOf s line with busy := none, awaiting := [], data := none }
    (∀ s c pa len, 0 < len → pa % 128 + len ≤ 128 → first s c pa →
      ((dirOf s (pa / 128)).owned = true → waits s (pa / 128) 2 (.readOnce c pa len) (.read c pa len)) ∧
      ((dirOf s (pa / 128)).owned = false → (dirOf s (pa / 128)).data = none →
        (∀ b, b / 4 = pa / 128 → tget false s.mem.bad b = false) →
        ∃ t, exec (.readOnce c pa len) s = .next t ∧ free s t (pa / 128) ∧
          t = { s with coh := { s.coh with dir := t.coh.dir, replies := s.coh.replies ++ [(upFrom pa len).map (tget 0 s.mem.cells)] } })) ∧
    (∀ s c pa mask bs, bs ≠ [] → pa % 128 + bs.length ≤ 128 → first s c pa →
      (bitList (dirOf s (pa / 128)).sharers 200 ≠ [] → waits s (pa / 128) 1 (.writeInv c pa mask bs) (.write c pa mask bs)) ∧
      ((dirOf s (pa / 128)).sharers = 0 → (∀ b, b / 4 = pa / 128 → tget false s.mem.bad b = false) →
        ∃ t, exec (.writeInv c pa mask bs) s = .next t ∧ t = { s with mem := { s.mem with cells := t.mem.cells, bad := t.mem.bad }, coh := t.coh } ∧
          t.coh.replies = s.coh.replies ∧ t.coh.l2 = s.coh.l2 ∧ (dirOf t (pa / 128)).sharers = 0 ∧ (dirOf t (pa / 128)).busy = none ∧
          ∀ a, tget 0 t.mem.cells a = if pa ≤ a ∧ a < pa + bs.length ∧ mask.testBit (a - pa) = true then bs.getD (a - pa) 0 else tget 0 s.mem.cells a)) ∧
    ∀ s c pa op size u v, 0 < size → pa % size = 0 → pa % 128 + size ≤ 128 → first s c pa →
      (bitList (dirOf s (pa / 128)).sharers 200 ≠ [] → waits s (pa / 128) 1 (.homeAtomic c pa op size u v) (.atomic c pa op size u v)) ∧
      ((dirOf s (pa / 128)).sharers = 0 → (∀ b, b / 4 = pa / 128 → tget false s.mem.bad b = false) →
        let old := leNat ((upFrom pa size).map (tget 0 s.mem.cells))
        let new := if op = 0 then old + u.toNat else if op = 1 then u.toNat else if old = v.toNat % 2 ^ (8 * size) then u.toNat else old
        ∃ t, exec (.homeAtomic c pa op size u v) s = .next t ∧ t = { s with mem := { s.mem with cells := t.mem.cells, bad := t.mem.bad }, coh := t.coh } ∧
          t.coh.replies = s.coh.replies ++ [leBytes size old] ∧ t.coh.l2 = s.coh.l2 ∧
          ∀ a, tget 0 t.mem.cells a = if pa ≤ a ∧ a < pa + size then (leBytes size (new % 2 ^ (8 * size))).getD (a - pa) 0 else tget 0 s.mem.cells a))

/-- R265, R267: a PUT is acknowledged: the writeback buffer lets its oldest copy of the line with that state go. From a cache that the
entry does not record, or that holds the line again, it changes nothing else. A sharer leaves the entry; the PUT_E or PUT_M of an owner,
whose copy no snoop has taken, leaves it UNCACHED, and the data of a PUT_M is written to its home. No other byte of memory changes.
R251, R252, R265: a GRANT puts the line, with the state and data granted (its own copy for an UPGRADE, zeros for an OWN_NODATA),
first in the cache that asked, and the line is no longer BUSY. With room in its set nothing leaves; a seventeenth line of the set leaves
for the writeback buffer, reports its eviction to its home, and leaves the L1s of a core with its L2. -/
def Obligations.PutsAreAcknowledged : Prop :=
  (
    ∀ s x line (r : Req) (row : Nat → Nat → Instr), (r, row) ∈ [(Req.putS, Instr.putS), (.putE, .putE), (.putM, .putM)] →
      homeServes s line = true → nextAsker s line = some (.cache x r) →
      let e := dirOf s line
      let l := (tget [] s.coh.wb x).find? (fun l => l.line == line && putOf l.st == r)
      let held := e.sharers.testBit x = true ∧ l2Find s x line = none
      ∃ t, exec (row x line) s = .next t ∧
        t = { s with
          mem := { s.mem with cells := t.mem.cells, bad := t.mem.bad }
          coh := { s.coh with wb := t.coh.wb, dir := t.coh.dir, llm := t.coh.llm, stale := t.coh.stale
                              queue := s.coh.queue.erase (line, .cache x r) } } ∧
        tget [] t.coh.wb x = (match l with
          | some v => (tget [] s.coh.wb x).erase v
          | none => tget [] s.coh.wb x) ∧
        (∀ y, y ≠ x → tget [] t.coh.wb y = tget [] s.coh.wb y) ∧
        (∀ k, k ≠ line → dirOf t k = dirOf s k) ∧
        (held → e.owned = false → dirOf t line = (if e.sharers = 2 ^ x then {} else { e with sharers := e.sharers - 2 ^ x }) ∧ t.mem = s.mem) ∧
        (∀ v, held → e.owned = true → l = some v → v.taken = false → r ≠ .putS → dirOf t line = {} ∧
          ∀ a, tget 0 t.mem.cells a = if r = .putM ∧ a / 128 = line then lineByte v.data (a % 128) else tget 0 s.mem.cells a) ∧
        ((¬ held ∨ (e.owned = true ∧ (r = .putS ∨ ∀ v, l = some v → v.taken = true))) → dirOf t line = e ∧ t.mem = s.mem)) ∧
  (
    ∀ s x line st data, (dirOf s line).granted = some (x, st, data) →
      (∀ v ∈ s.coh.waiters, ¬ (l2Number v.who = x ∧ line ∈ v.lines)) →
      let old := (l2Of s x).filter (fun l => l.line != line)
      let set := old.filter (fun l => l.line % l2Sets x == line % l2Sets x)
      let new : Line := { line, st, data := data.getD (
        if (dirOf s line).busy = some (.cache x .ownNodata) then 0
        else match l2Find s x line with
          | some l => l.data
          | none => (((tget [] s.coh.wb x).reverse.find? (fun l => l.line == line)).map (fun l => l.data)).getD 0) }
      (set.length < 16 →
        ∃ t, exec (.grant x line) s = .next t ∧ t = { s with coh := { s.coh with l2 := t.coh.l2, dir := t.coh.dir } } ∧
          l2Of t x = new :: old ∧ (∀ y, y ≠ x → l2Of t y = l2Of s y) ∧
          dirOf t line = { dirOf s line with busy := none, granted := none, data := none } ∧ ∀ k, k ≠ line → dirOf t k = dirOf s k) ∧
      ∀ v, set.length = 16 → set.getLast? = some v →
        ∃ t, exec (.grant x line) s = .next t ∧
          t = { s with coh := { s.coh with l2 := t.coh.l2, l1d := t.coh.l1d, l1i := t.coh.l1i, dir := t.coh.dir, wb := t.coh.wb
                                           queue := s.coh.queue ++ [(v.line, .cache x (putOf v.st))] } } ∧
          l2Of t x = new :: old.filter (fun l => l.line != v.line) ∧ tget [] t.coh.wb x = tget [] s.coh.wb x ++ [v] ∧
          (∀ c, tget [] t.coh.l1d c = (if c + 72 = x then (tget [] s.coh.l1d c).filter (fun y => y.1 != v.line) else tget [] s.coh.l1d c) ∧
            tget [] t.coh.l1i c = if c + 72 = x then (tget [] s.coh.l1i c).filter (fun y => y != v.line) else tget [] s.coh.l1i c) ∧
          (∀ y, y ≠ x → l2Of t y = l2Of s y ∧ tget [] t.coh.wb y = tget [] s.coh.wb y))

/-- R265, R267: the last answer to a snoop completes the request that waits. DOWNGRADE: an M line goes to the requester and to home,
the line is then S, and the requester is granted S. INVALIDATE: the cache loses the line; an M line goes to an RD_OWN's requester
without reaching home, and is dropped for OWN_NODATA. READ_ONCE: an M line's bytes are returned and the line stays as it is. -/
def Obligations.CachesAnswerSnoops : Prop :=
  (∀ s x y line l, (dirOf s line).busy = some (.cache x .rdShared) → (dirOf s line).awaiting = [(y, 0)] → (dirOf s line).sharers ≠ 0 →
    copyOf s y line = some l → (l.st = .m ∨ ((dirOf s line).data = none ∧ ∀ b, b / 4 = line → tget false s.mem.bad b = false)) →
    ∃ t, exec (.downgrade y line) s = .next t ∧
      t = { s with mem := { s.mem with cells := t.mem.cells, bad := t.mem.bad }
                   coh := { s.coh with l2 := t.coh.l2, wb := t.coh.wb, dir := t.coh.dir, llm := t.coh.llm, stale := t.coh.stale } } ∧
      (l2Find s y line ≠ none → t.coh.wb = s.coh.wb) ∧ (∀ z, z ≠ y → tget [] t.coh.wb z = tget [] s.coh.wb z) ∧
      dirOf t line = { dirOf s line with
        owned := false, sharers := (dirOf s line).sharers ||| 2 ^ x, awaiting := [], data := none
        granted := some (x, .s, some (if l.st = .m then l.data else homeLine s line)) } ∧
      l2Find t y line = (l2Find s y line).map (fun v => { v with st := .s }) ∧
      (∀ a, tget 0 t.mem.cells a = if l.st = .m ∧ a / 128 = line then lineByte l.data (a % 128) else tget 0 s.mem.cells a) ∧
      (∀ k, k ≠ line → dirOf t k = dirOf s k) ∧ ∀ z, z ≠ y → l2Of t z = l2Of s z) ∧
  (∀ s x y line l (r : Req), (r = .rdOwn ∨ r = .ownNodata ∨ r = .upgrade) →
    (dirOf s line).busy = some (.cache x r) → (dirOf s line).awaiting = [(y, 1)] → (dirOf s line).data = none →
    copyOf s y line = some l → (l.st = .m → (dirOf s line).owned = true) → (r = .rdOwn → l.st ≠ .m → ∀ b, b / 4 = line → tget false s.mem.bad b = false) →
    ∃ t, exec (.invalidate y line) s = .next t ∧
      t = { s with coh := { s.coh with
        l2 := t.coh.l2, wb := t.coh.wb, l1d := t.coh.l1d, l1i := t.coh.l1i, dir := t.coh.dir, llm := t.coh.llm, stale := t.coh.stale } } ∧
      (l2Find s y line ≠ none → t.coh.wb = s.coh.wb) ∧ (∀ z, z ≠ y → tget [] t.coh.wb z = tget [] s.coh.wb z) ∧
      (∀ c, c + 72 ≠ y → tget [] t.coh.l1d c = tget [] s.coh.l1d c ∧ tget [] t.coh.l1i c = tget [] s.coh.l1i c) ∧
      (dirOf t line).owned = true ∧ (dirOf t line).sharers = 2 ^ x ∧ (dirOf t line).awaiting = [] ∧ (dirOf t line).busy = (dirOf s line).busy ∧
      (dirOf t line).granted = some (x, .m, if r = .rdOwn then some (if l.st = .m then l.data else homeLine s line) else none) ∧
      l2Find t y line = none ∧ (∀ k, k ≠ line → dirOf t k = dirOf s k) ∧ ∀ z, z ≠ y → l2Of t z = l2Of s z) ∧
  (∀ s y line l c pa len, (dirOf s line).busy = some (.read c pa len) → (dirOf s line).awaiting = [(y, 2)] → (dirOf s line).sharers ≠ 0 →
    copyOf s y line = some l → l.st = .m →
    ∃ t, exec (.readOnceSnoop y line) s = .next t ∧
      t = { s with coh := { s.coh with
        dir := t.coh.dir, replies := s.coh.replies ++ [(upFrom (pa % 128) len).map (lineByte l.data)] } } ∧
      dirOf t line = { dirOf s line with busy := none, awaiting := [], data := none } ∧ ∀ k, k ≠ line → dirOf t k = dirOf s k) ∧
  ∀ s (row : Nat → Nat → Instr) k y line, (row, k) ∈ [(Instr.downgrade, 0), (Instr.invalidate, 1), (Instr.readOnceSnoop, 2)] →
    ((y, k) ∉ (dirOf s line).awaiting → exec (row y line) s = .next s) ∧
    ((y, k) ∈ (dirOf s line).awaiting → (dirOf s line).awaiting.erase (y, k) ≠ [] →
      ∃ t, exec (row y line) s = .next t ∧ (dirOf t line).awaiting = (dirOf s line).awaiting.erase (y, k) ∧
        (dirOf t line).busy = (dirOf s line).busy ∧ (dirOf t line).granted = (dirOf s line).granted ∧ t.coh.replies = s.coh.replies)

/-- R59, R60, R436, R446, R447, R450: after 8 consecutive over cues ACLK, or PCLK once ACLK is at 0, is decided one step lower; after
1,024 under cues PCLK, then ACLK, one step higher up to its ceiling; an ACLK decision is in force from the second boundary, a PCLK
decision from the next. Shed and low flow decide both steps 0 and suspend the law (the second of them decides nothing anew); their
release leaves the steps. Only the clock state, and the flow reading, change.
R451: in a running partition with a cap, 8 consecutive cues over it raise the dilution level by 1 from the next boundary, or set
AT_LIMIT at level 7; 1,024 at most 95 % of it lower it; at level L an idle cue becomes pending after 8 − L advance cues. Nothing else
of the state changes, but that the cues are counted again from the first at the new level (the model's reading, log 128). -/
def Obligations.ModuleLawMovesTheSteps : Prop :=
  (
    let only := fun (s t : State) => t = { s with clk := t.clk, pow := { s.pow with flow := t.pow.flow } } ∧
      t.clk = { s.clk with aclkTarget := t.clk.aclkTarget, aclkDue := t.clk.aclkDue, pclkTarget := t.clk.pclkTarget, pclkDue := t.clk.pclkDue
                           overCount := 0, underCount := 0, lawFrom := t.clk.lawFrom, shed := t.clk.shed, flowLow := t.clk.flowLow }
    let open' := fun (s : State) => s.clk.shed = false ∧ s.clk.flowLow = false ∧ s.clk.stopped = false
    let down := fun (s t : State) => t.clk.aclkTarget = 0 ∧ t.clk.aclkDue = some (s.clk.cue + 2) ∧ t.clk.pclkTarget = 0 ∧
      t.clk.pclkDue = some (s.clk.cue + 2)
    (∀ s, open' s → 8 ≤ s.clk.overCount → ∃ t, exec .stepDownDecision s = .next t ∧ only s t ∧ t.pow = s.pow ∧
      (0 < s.clk.aclk → t.clk.aclkTarget = s.clk.aclk - 1 ∧ t.clk.aclkDue = some (s.clk.cue + 2) ∧ t.clk.pclkDue = s.clk.pclkDue) ∧
      (s.clk.aclk = 0 → 0 < s.clk.pclk → t.clk.pclkTarget = s.clk.pclk - 1 ∧ t.clk.pclkDue = some (s.clk.cue + 1) ∧ t.clk.aclkDue = s.clk.aclkDue)) ∧
    (∀ s, open' s → 1024 ≤ s.clk.underCount → ∃ t, exec .stepUpDecision s = .next t ∧ only s t ∧ t.pow = s.pow ∧
      (s.clk.pclk < s.clk.pclkMax → t.clk.pclkTarget = s.clk.pclk + 1 ∧ t.clk.pclkDue = some (s.clk.cue + 1) ∧ t.clk.aclkDue = s.clk.aclkDue) ∧
      (s.clk.pclkMax ≤ s.clk.pclk → s.clk.aclk < s.clk.aclkMax →
        t.clk.aclkTarget = s.clk.aclk + 1 ∧ t.clk.aclkDue = some (s.clk.cue + 2) ∧ t.clk.pclkDue = s.clk.pclkDue)) ∧
    (∀ s b, s.clk.aclkDue = some b → b ≤ s.clk.cue →
      exec .dvfsStepChange s = .next { s with clk := { s.clk with aclk := s.clk.aclkTarget, aclkDue := none } }) ∧
    (∀ s b, s.clk.pclkDue = some b → b ≤ s.clk.cue →
      exec .pclkStepChange s = .next { s with clk := { s.clk with pclk := s.clk.pclkTarget, pclkDue := none } }) ∧
    (∀ s, s.clk.shed = false → s.clk.flowLow = true → exec .shedAssert s = .next { s with clk := { s.clk with shed := true } }) ∧
    (∀ s, s.clk.shed = false → s.clk.flowLow = false → ∃ t, exec .shedAssert s = .next t ∧ only s t ∧ t.pow = s.pow ∧ t.clk.shed = true ∧
      t.clk.flowLow = false ∧ down s t) ∧
    (∀ s, s.clk.shed = true → ∃ t, exec .shedRelease s = .next t ∧ only s t ∧ t.pow = s.pow ∧ t.clk.shed = false ∧
      t.clk.aclkTarget = s.clk.aclkTarget ∧ t.clk.pclkTarget = s.clk.pclkTarget) ∧
    (∀ s n, s.clk.flowLow = false → s.clk.shed = true → n < 60 → exec (.flowLow n) s =
      .next { s with clk := { s.clk with flowLow := true }, pow := { s.pow with flow := n } }) ∧
    (∀ s n, s.clk.flowLow = false → s.clk.shed = false → n < 60 → ∃ t, exec (.flowLow n) s = .next t ∧ only s t ∧ t.clk.flowLow = true ∧ t.pow.flow = n ∧
      t.clk.shed = false ∧ down s t) ∧
    ∀ s n, s.clk.flowLow = true → 80 < n → ∃ t, exec (.flowRestored n) s = .next t ∧ only s t ∧ t.clk.flowLow = false ∧ t.pow.flow = n ∧
      t.clk.aclkTarget = s.clk.aclkTarget ∧ t.clk.pclkTarget = s.clk.pclkTarget) ∧
  (
    (∀ s p, (partOf s p).cap ≠ 0 → 8 ≤ (partOf s p).overCount → partRuns s p = true →
      exec (.dilutionRise p) s = .next (setPart s p { partOf s p with
        overCount := 0, underCount := 0
        levelDue := if (partOf s p).level < 7 then some ((partOf s p).level + 1) else (partOf s p).levelDue
        lawFrom := if (partOf s p).level < 7 then s.clk.cue + 1 else (partOf s p).lawFrom
        atLimit := if (partOf s p).level < 7 then (partOf s p).atLimit else true })) ∧
    (∀ s p, (partOf s p).cap ≠ 0 → 1024 ≤ (partOf s p).underCount → partRuns s p = true →
      exec (.dilutionFall p) s = .next (setPart s p { partOf s p with
        overCount := 0, underCount := 0, levelDue := some ((partOf s p).level - 1), lawFrom := s.clk.cue + 1, atLimit := false })) ∧
    (∀ s p, (partOf s p).cap ≠ 0 → (partOf s p).level ≠ 0 → (partOf s p).idlePending = false →
      8 - (partOf s p).level ≤ (partOf s p).advances → partCues s p = true →
      exec (.idleCuePending p) s = .next (setPart s p { partOf s p with idlePending := true })) ∧
    ∀ s p, (partOf s p).cap = 0 →
      exec (.dilutionRise p) s = .next s ∧ exec (.dilutionFall p) s = .next s ∧ exec (.idleCuePending p) s = .next s)

/-- R437–R441, R444: a warden reports the cue before the present one once: its die takes the hottest corrected reading, the energy of the
cue and the power that this gives at the cue's step; an unpowered die reports none from the cue after its trip on. The energy goes to runs, queues and contexts, and
that of a partition's die, the prompter core's apart, to the partition. 64 cues after its powering, and its report of the last of
them, a die's full-load period ends.
R452: a reading of 115 °C or more on a powered die is counted, logged, and removes power: from a tile, whose position goes out of
service; from the active tiles of a hub's or stack's bay, the cores of a hub halting and the die due to be read again; from an FOH, which
fails. A hub or stack that reads 115 °C or more again is powered off and fails; one that does not goes on. -/
def Obligations.WardensReportTheirDie : Prop :=
  (
    (∀ s die counts temps, s.clk.cue ≠ 0 → (dieOf s die).estCue ≠ s.clk.cue → die < 106 →
      ∃ t e, exec (.wardenEstimate die counts temps) s = .next t ∧
        e = estimateOf s die counts (hottest (correctedTemps s.pow.inUse die 0 temps)) ∧
        t = { s with pow := { s.pow with dies := t.pow.dies }, parts := t.parts, queues := t.queues, ctxs := t.ctxs } ∧
        dieOf t die = { dieOf s die with
          temp := hottest (correctedTemps s.pow.inUse die 0 temps), energy := e.total, watts := e.total * periodMHz s
          estCue := s.clk.cue, pool := if die < 80 then 0 else e.total - e.app - e.prompter } ∧
        ((dieOf s die).unpowered = true → (∀ n, (dieOf s die).tripped = some n → n + 1 < beat s) → e.total = 0) ∧
        (∀ d, d ≠ die → dieOf t d = dieOf s d) ∧
        (∀ p, (partOf t p).energy = (partOf s p).energy +
          if (dieBay die).bind (bayPart s) = some p then e.total - e.prompter else 0) ∧
        ∀ p, (partOf t p).state = (partOf s p).state ∧ (partOf t p).level = (partOf s p).level ∧ (partOf t p).scripts = (partOf s p).scripts) ∧
    ∀ s die f, (dieOf s die).fullFrom = some f →
      exec (.fullLoadPeriodEnd die) s = .next (if f + 64 < beat s ∨ (f + 64 = beat s ∧ (dieOf s die).estCue = s.clk.cue)
        then modDie s die (fun d => { d with fullFrom := none }) else s)) ∧
  (
    (∀ s die c, 115 ≤ c → (dieOf s die).unpowered = false → die < 106 →
      ∃ t, exec (.thermalTrip die c) s = .next t ∧ t.pow.trips = min 65535 (s.pow.trips + 1) ∧
        tget 0 t.mgmt.counters 6 = tget 0 s.mgmt.counters 6 + 1 ∧
        (die < 80 → (dieOf t die).unpowered = true ∧ ((posTile s die).isSome = true → posIsOut t die = true)) ∧
        (80 ≤ die → die < 88 → (dieOf t die).recheck = true ∧ (∀ n ∈ activePositions s (die - 80), posIsOut t n = true) ∧
          ∀ k, 16 * (die - 80) ≤ k → k < 16 * (die - 80) + 16 → (coreOf t k).halted = true) ∧
        (88 ≤ die → die < 90 → (dieOf t die).unpowered = true ∧ (dieOf t die).failed = true ∧ t.panel = s.panel) ∧
        (90 ≤ die → (dieOf t die).recheck = true ∧ ∀ n ∈ activePositions s ((die - 90) / 2), posIsOut t n = true) ∧
        t.clk = s.clk ∧ t.net = { s.net with xfers := t.net.xfers } ∧ t.sec = s.sec ∧ t.queues = s.queues ∧ t.objs = s.objs) ∧
    (∀ s die c, c < 115 ∨ (dieOf s die).unpowered = true → exec (.thermalTrip die c) s = .next s) ∧
    ∀ s die c, (dieOf s die).recheck = true → 80 ≤ die → die < 106 → ¬ (88 ≤ die ∧ die < 90) →
      (c < 115 → exec (.tripRecheck die c) s = .next (modDie s die (fun d => { d with recheck := false }))) ∧
      (115 ≤ c → ∃ t, exec (.tripRecheck die c) s = .next t ∧ (dieOf t die).unpowered = true ∧ (dieOf t die).recheck = false ∧
        (die < 88 → hubIsUp t (die - 80) = false) ∧ (90 ≤ die → (stackOf t (die - 90)).state = 2) ∧
        t.clk = s.clk ∧ t.sec = s.sec ∧ t.queues = s.queues ∧ t.objs = s.objs))

/-- R40, R42, R44, R52, R54–R56, R58, R61, R440: while the module is on and the counter runs, a boundary after the call point, or the first after
a restart, increments the cue counter and applies each partition's verdict: a hold keeps the entry in force and counts, an advance brings the next position into
force, an idle cue takes none, a reset stops the partition. At the call point each partition that takes cues forms the verdict by the
first condition that applies; nothing else changes there.
R24, R40, R42, R289, R428, R492: once at each boundary whose number is a multiple of 2 ^ 20 the house-cycle work runs: truss error
counts begin again, quarantined links and unauthenticated peers may be retried, the health snapshot is rebuilt. An idle tick counts,
and restarts the boundaries if a command waits; neither moves the cue counter, and of the power figures only the estimates and the
energy counter may change there. -/
def Obligations.BoundariesApplyTheVerdicts : Prop :=
  (
    (∀ s, s.mgmt.off = false → (s.clk.stopped = true → s.clk.restarting = true) → (s.clk.called = true ∨ s.clk.cue = 0 ∨ s.clk.stopped = true) →
      ∃ t, exec .cueBoundary s = .next t ∧ t.clk.cue = s.clk.cue + 1 ∧ t.clk.called = false ∧ t.clk.restarting = false ∧
        t.clk.aclk = s.clk.aclk ∧ t.clk.aclkPrev = s.clk.aclk ∧ t.clk.cueMaster = lowestHub s ∧
        (t.clk.houseCycleDue = true ↔ (s.clk.cue + 1) % 2 ^ 20 = 0) ∧ t.eng.moved = [] ∧ t.eng.movedPrev = s.eng.moved ∧
        ∀ p, p < 8 → partCues s p = true →
          let o := (partOf s p).order
          let v := (partOf t p).order
          v.verdict = none ∧
          (o.verdict = some .hold → v.kind = .hold ∧ v.pos = o.pos ∧ v.entered = o.entered ∧ v.holdCount = o.holdCount + 1) ∧
          (o.verdict = some .advance → v.kind = .advance ∧ v.pos = o.entered ∧ v.entered = o.entered + 1 ∧ v.live = true ∧ v.holdCount = 0) ∧
          (o.verdict = some .idle → v.kind = .idle ∧ v.entered = o.entered ∧ v.live = false ∧ (partOf t p).idlePending = false) ∧
          (o.verdict = some .reset → (partOf t p).state = 1 ∧ (partOf t p).resetBegun = true)) ∧
    (∀ s, isOff s = false → s.clk.called = false → s.clk.cue ≠ 0 → s.clk.stopped = false →
      ∃ t, exec .callPoint s = .next t ∧ t = { s with parts := t.parts, clk := { s.clk with called := true } } ∧
        (∀ p, p < 8 → partCues s p = true → partOf t p = { partOf s p with resetCause := dueReset s p, order := { (partOf s p).order with
          late := lateMask s p
          verdict := some (if (dueReset s p).isSome then .reset else if lateMask s p ≠ 0 then .hold
            else if (partOf s p).idlePending then .idle else .advance) } }) ∧
        ∀ p, 8 ≤ p ∨ partCues s p = false → partOf t p = partOf s p) ∧
    (∀ s, s.clk.called = false → s.clk.cue ≠ 0 → s.clk.stopped = false → exec .cueBoundary s = .next s) ∧
    ∀ s, s.clk.called = true → exec .callPoint s = .next s) ∧
  (
    (∀ s, s.clk.houseCycleDue = true → twf {} s.net.links = true → twf {} s.net.peers = true →
      ∃ t, exec .houseCycleBoundary s = .next t ∧ t.clk = { s.clk with houseCycleDue := false, cycleCues := [] } ∧ t.mgmt.snapshot = snapshotBytes t ∧
        t.sec.retryIndex = false ∧ (∀ l, (trussOf t l).a.errored = 0 ∧ (trussOf t l).b.errored = 0) ∧
        (∀ l, linkOf t l = { linkOf s l with hand := { (linkOf s l).hand with retryDue := decide ((linkOf s l).state = 3) } }) ∧
        (∀ k, (tget {} t.net.peers k).hand.retryDue = ((tget {} s.net.peers k).valid && !(tget {} s.net.peers k).auth)) ∧
        t.parts = s.parts ∧ t.ctxs = s.ctxs ∧ t.queues = s.queues ∧ t.objs = s.objs ∧ t.eng = s.eng ∧ t.coh = s.coh ∧
        t.mem.cells = s.mem.cells ∧ t.mem.owner = s.mem.owner) ∧
    (∀ s, s.clk.houseCycleDue = false → exec .houseCycleBoundary s = .next s) ∧
    ∀ s, isOff s = false → s.clk.stopped = true →
      ∃ t, exec .idleTick s = .next t ∧ t.clk.ticks = s.clk.ticks + 1 ∧ t.clk.idle = s.clk.idle + 1 ∧ t.clk.cue = s.clk.cue ∧ t.clk.stopped = true ∧
        (anyTaken t = true → t.clk.restarting = true ∧ t.clk.quiet = 0) ∧
        t.eng = s.eng ∧ t.sec = s.sec ∧ t.pow = { s.pow with dies := t.pow.dies, est := t.pow.est, energy := t.pow.energy })

/-- R57, R110, R455: when 256 hold cues of one entry have passed and another would follow, every context with late work, debug contexts
apart, is lost with GROUP_STALL, its units stop, and the partition advances at the boundary if no late work remains. The composer fixes
its next position, at most 15 behind the one that comes into force next (the model's choice, log 110), and writes a VALID entry of that
position for every tile. A partition idle for 1,024 cues enters IDLE. Other partitions are as they were.
R87, R88, R113, R118, R373, R501: a run whose last step has left force, that has begun every node which no step carries out and has
no transfer out leaves the run list, and its PLAY_RUN is recorded with status 0. A live context whose fault arose in an earlier cue is lost: it holds its fault record, no run of it is on its
partition's list, and no fault is pending for it. -/
def Obligations.SequencersOfAPartition : Prop :=
  (
    (∀ s p, partCues s p = true → 256 ≤ (partOf s p).order.holdCount → (partOf s p).order.kind = .hold →
      (partOf s p).order.verdict = some .hold →
      ∃ t, exec (.stallWatchdog p) s = .next t ∧
        partOf t p = { partOf s p with order := { (partOf s p).order with
          late := lateMask t p, verdict := some (if lateMask t p ≠ 0 then .hold else .advance) } } ∧
        (∀ x ∈ stalled s p, x.1 ≠ 0 → (ctxOf s x.1).st = .live → (ctxOf s x.1).fault = none →
          ∃ f, (ctxOf t x.1).fault = some f ∧ f.status = 0x0105 ∧ f.agent = x.2 ∧ f.cue = s.clk.cue ∧
            f.address = fld (partOf s p).order.pos 16 0) ∧
        (∀ c, (∀ x ∈ stalled s p, x.1 ≠ c) → ctxOf t c = ctxOf s c) ∧ (∀ k, k ≠ p → partOf t k = partOf s k) ∧
        t = { s with parts := t.parts, ctxs := t.ctxs, ports := t.ports, coh := { s.coh with l1 := t.coh.l1, waiters := t.coh.waiters }
                     eng := t.eng, net := { s.net with xfers := t.net.xfers } }) ∧
    (∀ s p, partRuns s p = true → (partOf s p).resetBegun = false → (partOf s p).order.nextPos < (partOf s p).order.entered + 15 →
      (∀ x ∈ (partOf s p).order.fixed, (partOf s p).order.nextPos ≤ x.pos → x.written = false) →
      (∀ x ∈ (partOf s p).order.fixed, x.pos % 1024 = (partOf s p).order.nextPos % 1024 → x.pos = (partOf s p).order.nextPos) →
      ∃ t, exec (.composePosition p) s = .next t ∧ (partOf t p).order.nextPos = (partOf s p).order.nextPos + 1 ∧
        (partOf t p).order.entered = (partOf s p).order.entered ∧ (partOf t p).order.pos = (partOf s p).order.pos ∧
        (∀ n ∈ partTiles s p, ∃ w ws, tget [] t.eng.prog (progKey n (partOf s p).order.nextPos) = w :: ws ∧ bit w 63 = true ∧
          bits w 15 0 = (partOf s p).order.nextPos % 65536 ∧ ws.length = 15) ∧
        (∀ k, k ≠ p → partOf t k = partOf s k) ∧
        t = { s with parts := t.parts, eng := { s.eng with prog := t.eng.prog, runs := t.eng.runs, allot := t.eng.allot } }) ∧
    (∀ s p, partCues s p = true → 1024 ≤ (partOf s p).emptyCues → partBusy s p = false → (partOf s p).resetCause = none →
      exec (.partitionIdle p) s = .next (setPart s p { partOf s p with power := 1, emptyCues := 0 })) ∧
    ∀ s p, (partOf s p).emptyCues < 1024 → exec (.partitionIdle p) s = .next s) ∧
  (
    (∀ s p run r c, runOf s p run = some r → r.left = true → r.xfers = [] →
      (∀ n < (scriptOf s p r.slot).nodes.length, n ∈ r.done ∨ nodeSteps (scriptOf s p r.slot) n ≠ []) → (partOf s p).order.loads = [] →
      cmdOf s r.queue r.idx = some c → c.fin = none →
      ∃ t, exec (.runComplete p run) s = .next t ∧ runOf t p run = none ∧ Recorded t r.queue c 0 ∧
        (∀ k, k ≠ run → (runOf t p k).isSome = (runOf s p k).isSome) ∧ (∀ k, k ≠ p → partOf t k = partOf s k) ∧
        t.clk = s.clk ∧ t.pow = s.pow ∧ t.sec = s.sec ∧ t.panel = s.panel) ∧
    (∀ s c f, (ctxOf s c).st = .live → (ctxOf s c).fault = some f → f.cue < s.clk.cue →
      ∃ t, exec (.contextLoss c) s = .next t ∧ (ctxOf t c).st = .lost ∧ (ctxOf t c).record = recordMasks f (ctxOf s c).agents ∧
        (ctxOf t c).fault = none ∧ (∀ r ∈ (partOf t (ctxOf s c).part).order.runs, r.ctx ≠ c) ∧
        (∀ k, k ≠ (ctxOf s c).part → partOf t k = partOf s k) ∧ t.clk = s.clk ∧ t.pow = s.pow ∧ t.sec = s.sec ∧ t.panel = s.panel) ∧
    ∀ s c f, (ctxOf s c).fault = some f → s.clk.cue ≤ f.cue → exec (.contextLoss c) s = .next s)

/-- R309–R312, R320, R393, R394: a MAP whose pages can be provided stores a leaf for each and answers (the slot's number for target 3);
mapping one free page onto a host window writes exactly that leaf. An UNMAP empties its range; that of one host page clears its leaf
and drops the context's cached translations. AS_INVALIDATE drops those alone. -/
def Obligations.MappingsFollowTheirCommands : Prop :=
  (∀ s q picks c ks u rest, CmdDue s q 0x30 c → cmdCtx s q c ≠ 0 → mapFormat s (cmdCtx s q c) (wordAt c.words) = none →
    let w := wordAt c.words
    let x := cmdCtx s q c
    let big := bit (w 1) 63
    let target := bits (w 2) 63 62
    let pages := bits (w 2) 31 0
    let slot := (upFrom 0 4096).find? (fun d => !(slotOf s d).valid)
    let d := slot.getD 0
    let base := if target = 1 then bits (w 3) 17 0
      else if target = 2 then (if (ctxOf s x).binding = 0 then 0x800000000000 else 0xC00000000000) + bits (w 3) 45 0
      else 0x100000000000 + d * 0x100000000
    let s' := if target = 3 then modSlot s d (fun _ => {
        valid := true, owner := x, gid := bits (w 3) 47 24, window := bits (w 3) 23 12
        epoch := bits (w 4) 63 48, base := bits (w 4) 39 0, pages := 0 }) else s
    (target = 1 → mappable s x (bits (w 3) 17 0) (bits (w 3) 63 32) c.taken = true) → (target = 2 → (ctxOf s x).binding < 2) →
    (target = 3 → slot.isSome = true) → pinnedRange s x (bits (w 1) 54 0) (pages * (if big then 2 ^ 29 else 65536)) = false →
    chooseStacks s (ctxOf s x).part (if target = 0 then bits (w 2) 47 32 else 0) = some ks →
    mapPages x (ctxOf s x).part big target base (bits (w 1) 62 59) ks (bits (w 1) 54 0)
      (if target = 1 then bits (w 4) 39 0 / 65536 else 0) pages 0 s' picks = .got () u rest →
    exec (.map q picks) s = .next (outcome u q c 0 (if target = 3 then fld d 12 0 else 0))) ∧
  (∀ s q picks c a, CmdDue s q 0x30 c → cmdCtx s q c ≠ 0 → mapFormat s (cmdCtx s q c) (wordAt c.words) = none →
    let w := wordAt c.words
    let x := cmdCtx s q c
    let va := bits (w 1) 54 0
    bit (w 1) 63 = false → bits (w 2) 63 62 = 2 → bits (w 2) 31 0 = 1 → (ctxOf s x).binding < 2 → pinnedRange s x va 65536 = false →
    walk s (ctxOf s x).root va = none → nodeAt s (ctxOf s x).root va 1 = some a → a % 8 = 0 → dirOf s (a / 128) = {} → s.coh.queue = [] →
    ∃ t, exec (.map q picks) s = .next (outcome t q c 0 0) ∧
      readWord t a = leafWord (bits (w 1) 62 59) ((if (ctxOf s x).binding = 0 then 0x800000000000 else 0xC00000000000) + bits (w 3) 45 0) ∧
      (∀ b, b < a ∨ a + 8 ≤ b → readByte t b = readByte s b) ∧
      t = { s with mem := { s.mem with cells := t.mem.cells, bad := t.mem.bad }, coh := { s.coh with llm := t.coh.llm, stale := t.coh.stale } }) ∧
  (∀ s q c, CmdDue s q 0x31 c → cmdCtx s q c ≠ 0 →
    let w := wordAt c.words
    let x := cmdCtx s q c
    let va := bits (w 1) 54 0
    let unit := if bit (w 1) 63 then 2 ^ 29 else 65536
    let bytes := bits (w 2) 31 0 * unit
    va % unit = 0 → va + bytes ≤ 2 ^ 55 → (bit (w 1) 63 = false → cutsBig s x va bytes = false) → pinnedRange s x va bytes = false →
    exec (.unmap q) s = .next (outcome (clearRange s x va (bytes / 65536)) q c 0 0)) ∧
  (∀ s q c w a, CmdDue s q 0x31 c → cmdCtx s q c ≠ 0 →
    let x := cmdCtx s q c
    let va := bits (wordAt c.words 1) 54 0
    bit (wordAt c.words 1) 63 = false → bits (wordAt c.words 2) 31 0 = 1 → va % 65536 = 0 → va + 65536 ≤ 2 ^ 55 →
    cutsBig s x va 65536 = false → pinnedRange s x va 65536 = false → walk s (ctxOf s x).root va = some (w, false) → (hostOf (entryPa w)).isSome →
    nodeAt s (ctxOf s x).root va 1 = some a → a % 8 = 0 → dirOf s (a / 128) = {} → s.coh.queue = [] →
    ∃ t, exec (.unmap q) s = .next (outcome t q c 0 0) ∧ readWord t a = 0 ∧ (∀ e ∈ t.mem.tlb, e.ctx ≠ x) ∧
      (∀ b, b < a ∨ a + 8 ≤ b → readByte t b = readByte s b) ∧
      t = { s with mem := { s.mem with cells := t.mem.cells, bad := t.mem.bad, tlb := t.mem.tlb }
                   coh := { s.coh with llm := t.coh.llm, stale := t.coh.stale } }) ∧
  ∀ s q c, CmdDue s q 0x32 c → cmdCtx s q c ≠ 0 →
    exec (.asInvalidate q) s = .next (outcome { s with mem := { s.mem with
      tlb := s.mem.tlb.filter (fun e => e.ctx != cmdCtx s q c) } } q c 0 0)

/-- R312, R371, R372, R376, R467, R469: CONTEXT_CREATE makes a FREE number LIVE with the partition, binding, attributes and seed given
and a root node; a debug context is remembered and extends measurement register 7. A CONTEXT_DESTROY that passes its checks takes effect
at the next boundary: the number is FREE, its queues are gone, and the record is written. QUEUE_CREATE makes a free queue with the fields of its packet; QUEUE_DESTROY has later tails ignored and waits for the effect
of its abort. -/
def Obligations.ContextsAndQueuesAreMadeAndDestroyed : Prop :=
  (∀ s q picks c u rest, CmdDue s q 0x42 c → isHouse q = true →
    let w := wordAt c.words
    let n := bits (w 1) 11 0
    let p := bits (w 1) 18 16
    pktCtx (w 0) = 0 → n ≠ 0 → (ctxOf s n).st = .free → (partOf s p).state = 2 → (q < 2 → pathMay s q p = true) →
    createContext s n p (partOf s p).shape.binding (bit (w 1) 21) (bit (w 1) 20) (w 2) picks = .got () u rest →
    ∃ t, exec (.contextCreate q picks) s = .next (outcome t q c 0 0) ∧ (bit (w 1) 20 = false → t = u) ∧
      (bit (w 1) 20 = true → t = { u with sec := t.sec } ∧ t.sec.debugSeen = true ∧
        measureOf t 7 = shake256 (measureOf s 7 ++ shake256 ((wordBytes c.words).take 64))) ∧
      (ctxOf t n).st = .live ∧ (ctxOf t n).part = p ∧ (ctxOf t n).binding = (partOf s p).shape.binding ∧ (ctxOf t n).legacy = bit (w 1) 21 ∧
      (ctxOf t n).debug = bit (w 1) 20 ∧ (ctxOf t n).seed = w 2 ∧ (∀ d, d ≠ n → ctxOf t d = ctxOf s d)) ∧
  (∀ s q c, CmdDue s q 0x43 c → isHouse q = true →
    let n := bits (wordAt c.words 1) 11 0
    n ≠ 0 → (ctxOf s n).st ≠ .free → pathOwns s q n = true →
    exec (.contextDestroy q) s = .next (modCmd s q c.idx (fun x => { x with stage := 1 }))) ∧
  (∀ s q c, cmdOf s q c.idx = some c → isHouse q = true → pktOp (wordAt c.words 0) = 0x43 → c.stage = 1 → c.fin = none → twf {} s.queues = true →
    let n := bits (wordAt c.words 1) 11 0
    let t := settleContext s q c
    n ≠ 0 → (ctxOf s n).st ≠ .free →
    ctxOf t n = {} ∧ (∀ d, d ≠ n → ctxOf t d = ctxOf s d) ∧ Recorded t q c 0 ∧
      (∀ k, k ∈ ctxQueues s n → queueOf t k = {}) ∧ (∀ k, k ∉ ctxQueues s n → k ≠ q → queueOf t k = queueOf s k) ∧
      t.clk = s.clk ∧ t.pow = s.pow ∧ t.sec = s.sec ∧ t.panel = s.panel) ∧
  (∀ s q c, CmdDue s q 0xA0 c → isHouse q = true →
    let w := wordAt c.words
    let x := bits (w 1) 63 52
    let n := bits (w 1) 9 0
    let ord := bits (w 1) 49 46
    let cores := (ctxOf s x).binding = 2
    bits (w 1) 51 50 < 2 → ord ≤ 10 → bits (w 2) 54 0 % 64 = 0 → bits (w 3) 54 0 % 32 = 0 → bits (w 4) 3 0 ≤ 13 →
    (cores → bits (w 5) 54 0 % 8 = 0) → (¬ cores → bits (w 5) 54 0 = 0) → 2 ≤ n → (queueOf s n).used = false → x ≠ 0 → (ctxOf s x).st = .live →
    ((ctxOf s x).binding < 2 → q < 2 → (ctxOf s x).binding = q) →
    ringMapped s x (bits (w 2) 54 0) (64 * 2 ^ (ord + 6)) needRead = true → ringMapped s x (bits (w 3) 54 0) (32 * 2 ^ (ord + 6)) needWrite = true →
    (cores → ringMapped s x (bits (w 5) 54 0) 8 needRead = true) →
    exec (.queueCreate q) s = .next (outcome (setQueue s n {
      used := true, ctx := x, kind := bits (w 1) 51 50, binding := (ctxOf s x).binding, ord, ring := bits (w 2) 54 0, doneVa := bits (w 3) 54 0
      intEn := bit (w 4) 63, core := bits (w 4) 50 44, vector := bits (w 4) 42 32, line := bits (w 4) 3 0, tailVa := bits (w 5) 54 0 }) q c 0 0)) ∧
  ∀ s q c, CmdDue s q 0xA1 c →
    let n := bits (wordAt c.words 1) 9 0
    2 ≤ n → (queueOf s n).used = true →
    exec (.queueDestroy q) s = .next (modCmd (modQueue s n (fun x => { x with closing := true })) q c.idx (fun x => { x with stage := 1 }))

/-- R283, R326, R395–R399: OBJ_CREATE makes the lowest free number LIVE with the next generation, its granules on the stacks in turn,
and answers generation and number. OBJ_RELEASE makes it RELEASING and lets its queue go on; once neither the host nor the device
counts it, its granules are free and the release is recorded, DEFERRED unless both counts were 0 at its start.
R400, R424, R425: a WINDOW_OPEN that passes its checks opens its window, with the fields of its packet, from its completion on;
a WINDOW_CLOSE by the context that opened it closes it at the next boundary. -/
def Obligations.ObjectsFollowTheirCommands : Prop :=
  (
    (∀ s q picks c mstacks i gs u rest, CmdDue s q 0x40 c → cmdCtx s q c ≠ 0 →
      let w := wordAt c.words 1
      let x := cmdCtx s q c
      bits w 23 0 ≠ 0 → bits w 23 0 ≤ 131072 → chooseStacks s (ctxOf s x).part (bits w 47 32) = some mstacks → mstacks ≠ [] →
      freeNumber s.objs (s.objs.length + 1) 0 = some i →
      takeObject (ctxOf s x).part x (bit w 63) mstacks (bits w 23 0) 0 s picks [] = .got gs u rest →
      ∃ t, exec (.objCreate q picks) s = .next (outcome t q c 0 (fld (((objOf s i).gen + 1) % 2 ^ 32) 32 32 ||| fld i 18 0)) ∧
        objOf t i = { state := 1, shared := bit w 63, creator := x, mstacks := maskOf mstacks, binding := (ctxOf s x).binding
                      granules := gs, gen := ((objOf s i).gen + 1) % 2 ^ 32, part := (ctxOf s x).part } ∧
        (objOf s i).state = 0 ∧ gs.length = bits w 23 0 ∧ (∀ j, j ≠ i → objOf t j = objOf s j) ∧
        (∀ k g, gs[k]? = some g → g * 0x200000 / stackBytes = mstacks.getD (k % mstacks.length) 0 ∧ tget 0 t.mem.owner g = ownedBy x (bit w 63)) ∧
        t = { s with objs := t.objs, mem := t.mem, coh := t.coh }) ∧
    (∀ s q c, CmdDue s q 0x41 c →
      let w := wordAt c.words 1
      let i := bits w 17 0
      let o := objOf s i
      o.state = 1 → o.gen = bits w 63 32 → (isHouse q = true ∨ o.creator = cmdCtx s q c ∨ (o.shared = true ∧ o.part = (ctxOf s (cmdCtx s q c)).part)) →
      ∃ t, exec (.objRelease q) s = .next t ∧
        objOf t i = { o with state := 2, released := s.clk.cue, waiter := some (q, c.idx)
                             zeroAtStart := decide (o.hostCount = 0 ∧ o.pages = 0 ∧ o.maps = 0) } ∧
        (∃ v, cmdOf t q c.idx = some v ∧ v.passed = true ∧ v.stage = 1 ∧ v.fin = none) ∧ (∀ j, j ≠ i → objOf t j = objOf s j) ∧
        t = { s with objs := t.objs, queues := t.queues, ports := t.ports, mgmt := t.mgmt }) ∧
    ∀ s i q idx c, (objOf s i).state = 2 → (objOf s i).hostCount = 0 → (objOf s i).pages = 0 → (objOf s i).maps = 0 →
      (objOf s i).waiter = some (q, idx) → cmdOf s q idx = some c → c.fin = none → c.counted = none →
      (objOf s i).moved = [] →
      ∃ t, exec (.objectReleaseEnd i) s = .next t ∧ objOf t i = { gen := (objOf s i).gen } ∧ (∀ j, j ≠ i → objOf t j = objOf s j) ∧
        Recorded t q c (if (objOf s i).zeroAtStart then 0 else 3) ∧
        (∀ g ∈ (objOf s i).granules, bits (tget 0 s.mem.owner g) 14 13 < 2 → tget 0 t.mem.owner g = 0) ∧
        t.clk = s.clk ∧ t.pow = s.pow ∧ t.sec = s.sec ∧ t.panel = s.panel ∧ t.parts = s.parts ∧ t.eng = s.eng) ∧
  (
    (∀ s q c, CmdDue s q 0x70 c → cmdCtx s q c ≠ 0 →
      let w := wordAt c.words
      let n := bits (w 2) 63 52
      let size := (bits (w 2) 23 0 + 1) * 65536
      bits (w 1) 54 0 % 65536 = 0 → (windowOf s n).opened = false → (windowOf s n).epoch < bits (w 3) 63 48 → bits (w 3) 47 24 ≤ bits (w 3) 23 0 →
      rangeMapped s (cmdCtx s q c) (bits (w 1) 54 0) size (windowNeed (bit (w 2) 51) (bit (w 2) 50) (bit (w 2) 49)) = true →
      ∃ t, exec (.windowOpen q) s = .next (outcome t q c 0 0) ∧
        t = { s with net := { s.net with windows := t.net.windows } } ∧ (∀ k, k ≠ n → windowOf t k = windowOf s k) ∧
        windowOf t n = { opened := true, openFrom := s.clk.cue + 1, ctx := cmdCtx s q c, va := bits (w 1) 54 0, size, read := bit (w 2) 51
                         write := bit (w 2) 50, atomic := bit (w 2) 49, epoch := bits (w 3) 63 48, lo := bits (w 3) 47 24, hi := bits (w 3) 23 0 }) ∧
    ∀ s q c, CmdDue s q 0x71 c → cmdCtx s q c ≠ 0 →
      let n := bits (wordAt c.words 1) 63 52
      ((windowOf s n).opened = true → (windowOf s n).ctx = cmdCtx s q c →
        ∃ t, exec (.windowClose q) s = .next (outcome t q c 0 0) ∧
          t = { s with net := { s.net with windows := t.net.windows } } ∧ (∀ k, k ≠ n → windowOf t k = windowOf s k) ∧
          windowOf t n = { windowOf s n with closeAt := some (s.clk.cue + 1) }) ∧
      (((windowOf s n).opened = false ∨ (windowOf s n).ctx ≠ cmdCtx s q c) → exec (.windowClose q) s = .next (reject s q c stBadObject 0)))

/-- R466, R467, R472: an OWNER_KEY from the jack takes the lowest free of four slots with the hash of its key, and extends measurement
register 7 with the hash of its packet; with four in use, or from another path, it is rejected. Register i takes
SHAKE256(old ‖ new).
R468, R469: an ATTEST with an index at hand uses it once and writes, at DST, the quote of the registers, versions and states with its
nonce, then its signature by the identity key, and with CERT the factory certificate; nothing else of the security state changes. -/
def Obligations.OwnerKeysTakeASlot : Prop :=
  (
    (∀ s c, CmdDue s 1024 0x93 c → s.sec.ownerSlots.length < 4 →
      ∃ t, exec (.ownerKey 1024) s = .next (outcome t 1024 c 0 0) ∧
        t = { s with sec := { s.sec with ownerSlots := s.sec.ownerSlots ++ [shake256 (((wordBytes c.words).drop 8).take 68)], measure := t.sec.measure } } ∧
        measureOf t 7 = shake256 (measureOf s 7 ++ shake256 ((wordBytes c.words).take 64)) ∧ ∀ i, i ≠ 7 → measureOf t i = measureOf s i) ∧
    (∀ s c, CmdDue s 1024 0x93 c → 4 ≤ s.sec.ownerSlots.length → exec (.ownerKey 1024) s = .next (reject s 1024 c stNoResource 0)) ∧
    ∀ s q c, CmdDue s q 0x93 c → q ≠ 1024 → exec (.ownerKey q) s = .next (reject s q c stBadObject 0)) ∧
  (
    ∀ s q c pas, CmdDue s q 0x92 c →
      let w := wordAt c.words
      let dst := bits (w 5) 54 0
      dst % 64 = 0 →
      resolveRuns s (cmdCtx s q c) ((dst, 10341) :: (if bit (w 6) 0 then [(dst + 10368, 2948)] else [])) needWrite = .ok pas →
      badPartial s (pas.filter (fun x => cacheable x.1)) = none → s.sec.left ≠ 0 → piecesTaken s pas = true →
      (∀ x ∈ pas, inRemote x.1 = false) →
      let body := quoteBody s s.sec.next (((wordBytes c.words).drop 8).take 32)
      ∃ t, exec (.attest q) s = .next (outcome t q c 0 0) ∧
        t = putBytes { s with sec := { s.sec with left := s.sec.left - 1, next := s.sec.next + 1 } } (cmdCtx s q c) pas
          (body ++ fixedBytes 9893 (Config.xmssmtSign s.sec.next body) ++ (if bit (w 6) 0 then factoryCert else [])) ∧
        (((wordBytes c.words).drop 8).take 32) <+: body.drop 32 ∧
        t = { s with sec := { s.sec with left := s.sec.left - 1, next := s.sec.next + 1 }
                     mem := { s.mem with cells := t.mem.cells, bad := t.mem.bad, badDue := t.mem.badDue }, coh := t.coh, ports := t.ports })

/-- R459, R474: a chunk of the open session whose bytes have come goes to the copy that ACTIVE does not name, at its offset, and its 64 KiB
blocks count as written; with BEGIN that copy is erased first and the session opens with a number of the device's own. No other byte
of flash changes. On a house queue the bytes are first asked of the port's host.
R459, R460, R465, R466, R467, R473, R475: a commit whose copy passes the boot checks names that copy in ACTIVE with a new record, is PENDING
unless it is the copy in force, closes the session, and in limp mode has the device reset at the next boundary; a copy that fails
shows its code and is BAD_OBJECT. RAISE_FLOOR lifts the floor to the version in force. Each performed commit extends register 7. -/
def Obligations.StagedChunksReachTheIdleCopy : Prop :=
  (
    let wrote := fun (s t : State) (q : Nat) (c : Cmd) (bs : List Byte) =>
      let w := wordAt c.words
      let x := bits (w 1) 62 62
      let b := copyBase x (1 - activeCopy s x)
      let off := bits (w 2) 31 0
      let begin' := bit (w 1) 63
      t = { s with sec := { s.sec with flash := t.sec.flash, stage := t.sec.stage, draws := if begin' then s.sec.draws + 1 else s.sec.draws } } ∧
      (∀ a, tget 0xFF t.sec.flash a = if b + off ≤ a ∧ a < b + off + bs.length then bs.getD (a - (b + off)) 0
        else if begin' = true ∧ b ≤ a ∧ a < b + copySize x then 0xFF else tget 0xFF s.sec.flash a) ∧
      t.sec.stage.opened = true ∧ t.sec.stage.target = x ∧ (begin' = false → t.sec.stage.session = s.sec.stage.session) ∧
      (begin' = true → t.sec.stage.session = leNat (fixedBytes 4 (Config.random s.sec.draws))) ∧
      ∀ k, tget false t.sec.stage.blocks k = (decide (k ∈ chunkBlocks off bs.length) || (!begin' && tget false s.sec.stage.blocks k))
    let fresh := fun (s : State) (c : Cmd) => stageReject s c = none ∧
      (bit (wordAt c.words 1) 63 = true ∨ ∀ k ∈ chunkBlocks (bits (wordAt c.words 2) 31 0) (bits (wordAt c.words 2) 63 32),
        tget false s.sec.stage.blocks k = false)
    (∀ s c, CmdDue s 1024 0x90 c → fresh s c → bits (wordAt c.words 2) 63 32 ≤ (gotBytes c).length →
      ∃ t, exec (.fwStage 1024) s = .next (outcome t 1024 c 0 0) ∧ wrote s t 1024 c ((gotBytes c).take (bits (wordAt c.words 2) 63 32))) ∧
    (∀ s q c, headCmd (queueOf s q) = some c → cmdOf s q c.idx = some c → pktOp (wordAt c.words 0) = 0x90 → c.stage = 1 → c.fin = none →
      c.asked = true → (gotBytes c).length = bits (wordAt c.words 2) 63 32 → fresh s c →
      ∃ t, exec (.fwStage q) s = .next (outcome t q c 0 0) ∧ wrote s t q c (gotBytes c)) ∧
    ∀ s q c pas, CmdDue s q 0x90 c → q < 2 → stageReject s c = none → stageSource s q c = .ok pas →
      (∀ x ∈ pas, ∃ bus, hostOf x.1 = some (q, bus)) → c.got = [] →
      ∃ t v, exec (.fwStage q) s = .next t ∧ cmdOf t q c.idx = some v ∧ v.stage = 1 ∧ v.asked = true ∧ v.fin = none ∧
        t = { s with queues := t.queues, ports := t.ports }) ∧
  (
    let event := fun (s t : State) (c : Cmd) => measureOf t 7 = shake256 (measureOf s 7 ++ shake256 ((wordBytes c.words).take 64))
    (∀ s q c, CmdDue s q 0x91 c →
      let w := wordAt c.words 1
      let x := bits w 61 61
      let k := 1 - activeCopy s x
      (bits w 63 62 = 1 ∨ (bits w 63 62 = 0 ∧ s.sec.stage.opened = true ∧ s.sec.stage.session = bits w 31 0 ∧ s.sec.stage.target = x)) →
      (copyPasses s x k = true →
        ∃ t, exec (.fwCommit q) s = .next (outcome t q c 0 0) ∧ event s t c ∧
          t = { s with sec := { s.sec with journal := t.sec.journal, pend := t.sec.pend, seqCopy := t.sec.seqCopy
                                           stage := { s.sec.stage with opened := false, check := 0 }, measure := t.sec.measure }
                       mgmt := { s.mgmt with resetDue := if s.sec.limp then some (s.clk.cue + 1) else s.mgmt.resetDue } } ∧
          (∃ v, t.sec.journal = s.sec.journal ++ [{ seq := s.sec.seq + 1, kind := 2, value := v }]) ∧ activeCopy t x = k ∧ activeCopy t (1 - x) = activeCopy s (1 - x) ∧
          t.sec.pend = decide (k ≠ if x = 0 then s.sec.copy else s.sec.ownerCopy)) ∧
      (copyPasses s x k = false →
        exec (.fwCommit q) s = .next (reject (modSec s (fun y => { y with stage := { y.stage with check := checkCopy s x k } })) q c stBadObject 0))) ∧
    (∀ s q c, CmdDue s q 0x91 c → bits (wordAt c.words 1) 63 62 = 2 → s.sec.pend = false → s.sec.limp = false →
      (bits (wordAt c.words 1) 61 61 = 1 → s.sec.ownerOk = true) →
      ∃ t, exec (.fwCommit q) s = .next (outcome t q c 0 0) ∧ event s t c ∧ t = { s with sec := t.sec } ∧
        (bits (wordAt c.words 1) 61 61 = 0 → t.sec.floor = max s.sec.floor s.sec.svn ∧ t.sec.ownerFloor = s.sec.ownerFloor) ∧
        (bits (wordAt c.words 1) 61 61 = 1 → t.sec.ownerFloor = ownerSvn s s.sec.ownerCopy ∧ t.sec.floor = s.sec.floor)) ∧
    ∀ s q c, CmdDue s q 0x91 c → bits (wordAt c.words 1) 63 62 = 3 → exec (.fwCommit q) s = .next (reject s q c stBadFormat 1))

/-- R90, R94, R95, R97, R116: a PLAY_LOAD waits for its turn among the loads of its partition; at its turn, with the play's bytes there, a
play that validation rejects answers BAD_FORMAT with the reason, and one with a valid plan becomes the script of the next slot: its
steps, nodes, tensors, memory, priority, tag and generation, answered with the handle and the number of steps. Other scripts stay. -/
def Obligations.PlaysAreLoadedInTurn : Prop :=
  (∀ s q plan c h l k, CmdDue s q 0x20 c →
    let p := (ctxOf s (queueOf s q).ctx).part
    (partOf s p).order.loads = h :: l → h ≠ (q, c.idx) → cmdOf s h.1 h.2 = some k → k.asked = true → h.1 ≠ q →
    ∃ t, exec (.playLoad q plan) s = .next t ∧ cmdOf t q c.idx = some { c with stage := 1 } ∧
      (q, c.idx) ∈ (partOf t p).order.loads ∧ (partOf t p).order.loads.head? = some h ∧
      t = { s with queues := t.queues, parts := t.parts } ∧ (∀ j, j ≠ p → partOf t j = partOf s j) ∧
      (∀ j, j ≠ q → queueOf t j = queueOf s j)) ∧
  ∀ s q plan c, loadTurn s q 0x20 = some c → cmdOf s q c.idx = some c → c.asked = true →
    let x := (queueOf s q).ctx
    let p := (ctxOf s x).part
    let b := gotBytes c
    b.length = loadLen (bits (wordAt c.words 2) 31 0) →
    (∀ r, validatePlay b (bits (wordAt c.words 1) 54 0) (bits (wordAt c.words 2) 31 0) = some r →
      ∃ t, exec (.playLoad q plan) s = .next (outcome t q c stBadFormat (BitVec.ofNat 64 (rejectWord r))) ∧
        t = { s with parts := t.parts } ∧ (∀ k, scriptOf t p k = scriptOf s p k) ∧ (q, c.idx) ∉ (partOf t p).order.loads) ∧
    (validatePlay b (bits (wordAt c.words 1) 54 0) (bits (wordAt c.words 2) 31 0) = none →
      planFails s p x (ctxBusy s x q c.idx) b plan = none → planValid s p x (ctxBusy s x q c.idx) b plan = true →
      (plan.moves = [] ∨ ∀ k, tget false s.mem.bad k = false) →
      ∃ t g m, exec (.playLoad q plan) s = .next (outcome t q c 0 (loadWord plan.steps.length
          ((partOf s p).order.histories.any (fun h => h.tag == playTag b && h.crc == playCrc b && h.bays == bayMask s p))
          (ctxBusy s x q c.idx) (!(ctxBusy s x q c.idx) && !plan.moves.isEmpty) g (nextSlot (partOf s p)))) ∧
        scriptOf t p (nextSlot (partOf s p)) = {
          used := true, gen := g, reused := true, ctx := x, steps := plan.steps, prio := playPriority (playConstraints b), tag := playTag b
          crc := playCrc b, nodes := playNodes b, tensors := playTensors b, uses := playUses b, granules := plan.granules, places := plan.places
          regions := plan.regions, linear := plan.linear, made := m } ∧
        (∀ k, k ≠ nextSlot (partOf s p) → scriptOf t p k = scriptOf s p k) ∧ (q, c.idx) ∉ (partOf t p).order.loads ∧
        (partOf t p).order.runs = (partOf s p).order.runs ∧ (∀ j, j ≠ p → partOf t j = partOf s j) ∧
        t = { s with parts := t.parts, mem := t.mem, coh := t.coh, objs := t.objs, mgmt := { s.mgmt with plans := t.mgmt.plans } })

/-- R95, R112, R116, R117: a PLAY_RUN of a resident handle of its context puts a new run of that script last on the run list; of any other
handle it is BAD_OBJECT. A PLAY_UNLOAD at its turn empties the slot and answers at the next boundary; while a run of the script is left
it waits. -/
def Obligations.RunsAndUnloadsFollowTheHandle : Prop :=
  (∀ s q c, CmdDue s q 0x21 c →
    let x := (queueOf s q).ctx
    let p := (ctxOf s x).part
    let handle := bits (wordAt c.words 1) 15 0
    (namedScript s x handle c.taken (q, c.idx) = none → exec (.playRun q) s = .next (reject s q c stBadObject 0)) ∧
    ∀ slot, namedScript s x handle c.taken (q, c.idx) = some slot →
      ∃ t, exec (.playRun q) s = .next t ∧ slot = handle % 256 ∧ (scriptOf s p slot).used = true ∧ (scriptOf s p slot).ctx = x ∧
        cmdOf t q c.idx = some { c with stage := 1 } ∧
        partOf t p = { partOf s p with order := { (partOf s p).order with
          nextRun := (partOf s p).order.nextRun + 1
          runs := (partOf s p).order.runs ++ [{ id := (partOf s p).order.nextRun, queue := q, idx := c.idx, ctx := x, slot
                                                prio := (scriptOf s p slot).prio, sampled := c.taken }] } } ∧
        t = { s with queues := t.queues, parts := t.parts } ∧ (∀ j, j ≠ p → partOf t j = partOf s j) ∧
        (∀ j, j ≠ q → queueOf t j = queueOf s j)) ∧
  ∀ s q c slot, CmdDue s q 0x22 c →
    let x := (queueOf s q).ctx
    let p := (ctxOf s x).part
    namedScript s x (bits (wordAt c.words 1) 15 0) c.taken (q, c.idx) = some slot → (partOf s p).order.loads = [] → (ctxOf s x).fault = none →
    ((∀ r ∈ (partOf s p).order.runs, r.slot ≠ slot) →
      ∃ t, exec (.playUnload q) s = .next t ∧ (scriptOf t p slot).used = false ∧ (scriptOf t p slot).gen = (scriptOf s p slot).gen ∧
        cmdOf t q c.idx = some { c with stage := 1, fin := some (plainDone (s.clk.cue + 1) 0 0) } ∧
        (∀ k, k ≠ slot → scriptOf t p k = scriptOf s p k) ∧ (partOf t p).order.loads = [] ∧
        (∀ g ∈ (scriptOf s p slot).granules, bits (tget 0 s.mem.owner g) 14 13 < 2 → tget 0 t.mem.owner g = 0) ∧
        t = { s with queues := t.queues, parts := t.parts, mem := t.mem, coh := t.coh }) ∧
    ((∃ r ∈ (partOf s p).order.runs, r.slot = slot) →
      ∃ t, exec (.playUnload q) s = .next t ∧ scriptOf t p slot = { scriptOf s p slot with unloading := (scriptOf s p slot).unloading ++ [(q, c.idx)] } ∧
        cmdOf t q c.idx = some { c with stage := 1 } ∧ (partOf t p).order.loads = [(q, c.idx)] ∧
        t = { s with queues := t.queues, parts := t.parts })

/-- R21–R24, R26, R27, R31, R34, R36, R278, R491: in a flit time of a truss direction the next flit arrives. A good one is accepted in
sequence; one with a bad CRC is discarded and counted as errored, and the sender goes back to it. A retried flit that is accepted is
counted in the health record; the 16th retry without acceptance fails the link. A declared failure takes effect once: of a brace, its
position goes out of service; of one of an FOH's two braces, nothing; of a live joist, the contexts that depend on it are lost with
TILE_LOST.
R27, R31, R34, R278, R368, R494: a position out of service has no engine state, and the contexts that depend on its tile are lost with
TILE_LOST. A failed hub takes its cores, its links and its partition with it: the partition's reset is requested. Of two FOHs in
service one whose 16th heartbeat is missed, or that tripped, leaves the other primary; its port is lost, and the contexts bound to it with HOST_PORT_RESET. -/
def Obligations.TrussLinksFailAsDeclared : Prop :=
  (
    let crcBad := fun (q : BitVec 8) (d : BitVec 1024) (err : BitVec 1064) =>
      flitCrc q d ^^^ err.extractLsb' 1032 32 ≠ flitCrc (q ^^^ err.extractLsb' 1024 8) (d ^^^ err.extractLsb' 0 1024)
    (∀ s l dir data err back, isTruss l = true → (trussOf s l).failed = false →
      let side := fun (x : Truss) (d : Bool) => if d then x.a else x.b
      let d := decide (dir = 0)
      let r := flitTime (side (trussOf s l) d) data err back
      ∃ t, exec (.flitRetry l dir data err back) s = .next t ∧
        side (trussOf t l) d = r.1 ∧ side (trussOf t l) (!d) = side (trussOf s l) (!d) ∧ ((trussOf t l).failed = true ↔ r.2.2 = true) ∧
        (∀ k, k ≠ l → trussOf t k = trussOf s k) ∧ tget 0 t.mgmt.counters 0 = tget 0 s.mgmt.counters 0 + (if r.2.1 = true then 1 else 0) ∧
        t.clk = s.clk ∧ t.parts = s.parts ∧ t.ctxs = s.ctxs ∧ t.mem = s.mem ∧ t.eng = s.eng ∧ t.net = s.net) ∧
    (∀ (f : Flits) data, f.replay = [] → f.cursor = 0 → f.expect = f.send → f.retries = 0 →
      flitTime f data 0 true = ({ f with send := f.send + 1, expect := f.send + 1, discard := false }, false, false)) ∧
    (∀ (f : Flits) data err, f.replay = [] → f.cursor = 0 → f.expect = f.send → f.retries = 0 → crcBad f.send data err →
      flitTime f data err true = ({ f with send := f.send + 1, replay := [(f.send, data)], errored := f.errored + 1, discard := true
                                           bad := f.send, retries := 1 }, false, false)) ∧
    (∀ (f : Flits) data err d rest, f.replay = (f.bad, d) :: rest → f.cursor = 0 → f.expect = f.bad → 0 < f.retries →
      (err = 0 → (flitTime f data err false).2 = (true, false) ∧ (flitTime f data err false).1.expect = f.bad + 1 ∧ (flitTime f data err false).1.retries = 0) ∧
      (crcBad f.bad d err → (flitTime f data err true).2 = (false, decide (16 ≤ f.retries)) ∧
        (flitTime f data err true).1 = { f with errored := f.errored + 1, discard := true, retries := f.retries + 1 })) ∧
    (∀ s l t', (trussOf s l).failed = true → (trussOf s l).pending = true → l < 80 → posTile s l = some t' → posIsOut s l = false →
      ∃ t, exec (.trussLinkFailure l) s = .next t ∧ (trussOf t l).pending = false ∧ posIsOut t l = true ∧
        (∀ u, u < 28 → unitOf t t' u = {}) ∧ t.clk = s.clk ∧ t.net = { s.net with xfers := t.net.xfers } ∧ t.sec = s.sec ∧ t.queues = s.queues) ∧
    (∀ s l, (trussOf s l).failed = true → (trussOf s l).pending = true → (l = 80 ∧ (trussOf s 81).failed = false ∨ l = 81 ∧ (trussOf s 80).failed = false ∨
        l = 82 ∧ (trussOf s 83).failed = false ∨ l = 83 ∧ (trussOf s 82).failed = false) →
      exec (.trussLinkFailure l) s = .next (modTruss s l (fun x => { x with pending := false }))) ∧
    (∀ s l c, (trussOf s l).failed = true → (trussOf s l).pending = true → 96 ≤ l → l < 176 → joistLive s l = true →
      c ∈ joistDependents s l → c ≠ 0 → (ctxOf s c).st = .live → (ctxOf s c).fault = none →
      ∃ t f, exec (.trussLinkFailure l) s = .next t ∧ (trussOf t l).pending = false ∧ (ctxOf t c).fault = some f ∧ f.status = 0x0107 ∧
        f.cue = s.clk.cue ∧ t.clk = s.clk ∧ t.net = { s.net with xfers := t.net.xfers } ∧ t.sec = s.sec ∧ t.queues = s.queues) ∧
    (∀ s l, (trussOf s l).failed = false ∨ (trussOf s l).pending = false → exec (.trussLinkFailure l) s = .next s) ∧
    (∀ s, exec .mirrorLinkDown s = .next { s with panel := { s.panel with mirrorDown := true } }) ∧
    ∀ s n, exec (.modulePartFault n) s = .next { s with panel := { s.panel with partFaults := s.panel.partFaults ||| 2 ^ n } }) ∧
  (
    (∀ s n t', posTile s n = some t' → posIsOut s n = false →
      ∃ t, exec (.tileOutOfService n) s = .next t ∧ posIsOut t n = true ∧ (∀ u, u < 28 → unitOf t t' u = {}) ∧
        (∀ c ∈ tileDependents s t', c ≠ 0 → (ctxOf s c).st = .live → (ctxOf s c).fault = none → ∃ f, (ctxOf t c).fault = some f ∧ f.status = 0x0107 ∧ f.cue = s.clk.cue) ∧
        t.clk = s.clk ∧ t.net = { s.net with xfers := t.net.xfers } ∧ t.sec = s.sec ∧ t.queues = s.queues) ∧
    (∀ s n, posIsOut s n = true → exec (.tileOutOfService n) s = .next s) ∧
    (∀ s h, h < 8 → hubIsUp s h = true →
      ∃ t, exec (.hubFailure h) s = .next t ∧ hubIsUp t h = false ∧ (∀ k, 16 * h ≤ k → k < 16 * h + 16 → (coreOf t k).halted = true) ∧
        (∀ l, 6 * h ≤ l → l < 6 * h + 6 → (linkOf t l).state = 0) ∧ (∀ l, l < 6 * h ∨ 6 * h + 6 ≤ l → linkOf t l = linkOf s l) ∧
        (∀ p, bayPart s h = some p → (partOf t p).resetCause = some ((partOf s p).resetCause.getD 2)) ∧
        (∀ n ∈ activePositions s h, posIsOut t n = true) ∧ t.clk = s.clk ∧ t.sec = s.sec ∧ t.queues = s.queues) ∧
    (∀ s h, hubIsUp s h = false → exec (.hubFailure h) s = .next s) ∧
    (∀ s f, tget 0 s.panel.missed f < 16 → (dieOf s (fohDie f)).unpowered = false →
      exec (.fohFailover f) s = .next (modDie s (fohDie f) (fun d => { d with failed := true }))) ∧
    ∀ s f, f < 2 → fohIsUp s f = true → fohIsUp s (1 - f) = true → (16 ≤ tget 0 s.panel.missed f ∨ (dieOf s (fohDie f)).unpowered = true) → twf {} s.ctxs = true →
      ∃ t, exec (.fohFailover f) s = .next t ∧ fohIsUp t f = false ∧ fohIsUp t (1 - f) = true ∧ t.panel.primary = 1 - f ∧
        (portOf t f).lost = true ∧ (portOf t f).linkUp = false ∧ (portOf t f).held = [] ∧ (portOf t f).reads = [] ∧
        (∀ c, c ≠ 0 → (ctxOf s c).st = .live → (ctxOf s c).binding = f → (ctxOf s c).fault = none →
          ∃ x, (ctxOf t c).fault = some x ∧ x.status = 0x0106) ∧
        (∀ c, (ctxOf s c).binding ≠ f → ctxOf t c = ctxOf s c) ∧ t.clk = s.clk ∧ t.mem = s.mem ∧ t.coh = s.coh ∧ t.eng = s.eng)

/-- R19, R119, R258, R368, R482–R484: a partition reset that has begun loses the partition's live contexts, gives it its new shape, no
power state, level, energy or order, and ends it running, held for a failed hub, or undefined; the house commands that wait for it
answer at the next boundary. -/
def Obligations.PartitionResetsRunToTheirEnd : Prop :=
  (∀ s p tr, (partOf s p).resetBegun = true →
    let new := (partOf s p).newShape.getD (partOf s p).shape
    ∃ t, exec (.partitionReset p tr) s = .next t ∧ (partOf t p).shape = new ∧ (partOf t p).newShape = none ∧
      (partOf t p).resets = min 65535 ((partOf s p).resets + 1) ∧ (partOf t p).resetBegun = false ∧ (partOf t p).resetCause = none ∧
      (partOf t p).power = 0 ∧ (partOf t p).level = 0 ∧ (partOf t p).energy = 0 ∧ (partOf t p).order.runs = [] ∧
      (partOf t p).state = (if new.defined = false then 0 else if (shapeBays new).all (hubIsUp s) then 2 else 3) ∧
      (∀ c, c ≠ 0 → (ctxOf s c).st = .live → (ctxOf s c).part = p → c ≠ new.coreCtx → (ctxOf t c).st = .lost) ∧
      (∀ q idx c, (q, idx) ∈ (partOf s p).waiters → isHouse q = true → cmdOf s q idx = some c → c.fin = none → (partOf t p).state ≠ 3 →
        ∃ v, cmdOf t q idx = some v ∧ v.fin = some (plainDone (s.clk.cue + 1) 0 0)) ∧
      t.clk = s.clk ∧ t.sec.flash = s.sec.flash ∧ t.sec.floor = s.sec.floor) ∧
  ∀ s p tr, (partOf s p).resetBegun = false → exec (.partitionReset p tr) s = .next s

/-- R40, R41, R43, R385, R446, R460, R461, R476, R495, R497, R498: a cold reset from power-off, and a device reset once due, boot with the cue
counter at 0, ACLK step 10, PCLK step 4, no queue and no link trained, and keep fuses, flash and the failures of the panel; limp mode
ends at PHASE 3. Once every defined partition has come up the device is ready, at PHASE 6. A loss of power leaves only fuses and flash.
While the cue counter is stopped, the work of a house cycle runs on WCLK. -/
def Obligations.ResetsLeaveTheirValues : Prop :=
  let booted := fun (s t : State) => t.clk.cue = 0 ∧ t.queues = [] ∧ t.objs = [] ∧ t.mgmt.ready = false ∧
    t.mgmt.phase = (if t.sec.limp then 3 else 5) ∧ t.sec.floor = s.sec.floor ∧ t.sec.ownerSlots = s.sec.ownerSlots ∧
    t.sec.flash = s.sec.flash ∧ t.net.gid = s.net.gid ∧ (∀ h, hubIsUp t h = true → hubIsUp s h = true) ∧ t.panel.partFaults = s.panel.partFaults ∧
    t.pow.cap = s.pow.cap ∧ t.pending = s.pending
  (∀ s tr, s.mgmt.phase = 0 →
    ∃ t, exec (.coldReset tr) s = .next t ∧ booted s t ∧ t.clk.aclk = 10 ∧ t.clk.pclk = 4 ∧ t.clk.shed = false ∧ t.mgmt.lastReset = 0) ∧
  (∀ s tr, s.mgmt.phase ≠ 0 → exec (.coldReset tr) s = .next s) ∧
  (∀ s tr d, s.mgmt.resetDue = some d → d ≤ s.clk.cue →
    ∃ t, exec (.deviceReset tr) s = .next t ∧ booted s t ∧ t.clk.aclk = 10 ∧ t.clk.shed = s.clk.shed ∧ t.mgmt.lastReset = 1 ∧
      t.mgmt.replies = s.mgmt.replies ∧ (s.clk.shed = true → t.clk.aclkTarget = 0 ∧ t.clk.aclkDue = some 2)) ∧
  (∀ s tr, s.mgmt.resetDue = none → exec (.deviceReset tr) s = .next s) ∧
  (∀ s, s.mgmt.phase = 5 → s.sec.limp = false → (∀ p, p < 8 → (partOf s p).shape.defined = true → (partOf s p).state ≠ 1) →
    exec .deviceReady s = .next { s with mgmt := { s.mgmt with ready := true, phase := 6 } }) ∧
  (∀ s, exec .busbarPowerLoss s = .next (let k := kept s
      { k with sec := { k.sec with sigCopy := [], seqCopy := [] }, mgmt := { k.mgmt with off := true } })) ∧
  (∀ s t, exec .busbarPowerLoss s = .next t → t.mgmt.off = true ∧ t.mgmt.phase = 0 ∧ t.mem.cells = [] ∧ t.queues = [] ∧ t.ctxs = [] ∧
    t.sec.floor = s.sec.floor ∧ t.sec.flash = s.sec.flash ∧ t.panel.hubFailed = s.panel.hubFailed) ∧
  ∀ s, isOff s = false → s.clk.stopped = true → twf {} s.net.links = true →
    ∃ t, exec .wclkHouseCycle s = .next t ∧ t.clk = { s.clk with cycleCues := [] } ∧ t.mgmt.snapshot = snapshotBytes t ∧ t.sec.retryIndex = false ∧
      (∀ l, linkOf t l = { linkOf s l with hand := { (linkOf s l).hand with retryDue := decide ((linkOf s l).state = 3) } }) ∧
      t.parts = s.parts ∧ t.ctxs = s.ctxs ∧ t.queues = s.queues ∧ t.eng = s.eng ∧ t.mem.cells = s.mem.cells

/-- R17: a tile-map word is valid only if every bound index names a slot 0 to 9 that is not retired, no two indices name the same
slot, UNDERSTUDY is 0xF or names a slot that is neither retired nor bound, and every slot is bound, retired or the understudy. A
TILE_MAP with an invalid word is rejected with BAD_FORMAT and leaves the pending maps as they are; with a valid one the pending map
of its bay takes it, and nothing else changes. -/
def Obligations.TileMapWordsAreCheckedFirst : Prop :=
  let slot := fun (w : W64) (i : Nat) => bits w (4 * i + 3) (4 * i)
  let retired := fun (w : W64) (k : Nat) => bit w (54 + k) = true
  let bound := fun (w : W64) (k : Nat) => ∃ i, i < 9 ∧ slot w i = k
  let valid := fun (w : W64) =>
    (∀ i, i < 9 → slot w i ≠ 0xF → slot w i < 10 ∧ ¬ retired w (slot w i)) ∧
    (∀ i j, i < 9 → j < 9 → i ≠ j → slot w i ≠ 0xF → slot w i ≠ slot w j) ∧
    (bits w 53 50 ≠ 0xF → bits w 53 50 < 10 ∧ ¬ retired w (bits w 53 50) ∧ ¬ bound w (bits w 53 50)) ∧
    (∀ k, k < 10 → bound w k ∨ retired w k ∨ bits w 53 50 = k)
  ∀ s q c n, CmdDue s q 0x84 c → c.started = some n → n ≤ s.clk.cue →
    let w := wordAt c.words 2
    let b := bits (wordAt c.words 1) 2 0
    (valid w → ∃ t, exec (.tileMap q) s = .next (outcome t q c 0 0) ∧ tget none t.panel.mapPending b = some (w &&& 0xFFFC000FFFFFFFFF) ∧
      (∀ d, d ≠ b → tget none t.panel.mapPending d = tget none s.panel.mapPending d) ∧
      t = { s with panel := { s.panel with mapPending := t.panel.mapPending } }) ∧
    (¬ valid w → ∃ t, exec (.tileMap q) s = .next t ∧ Recorded t q c 0x0205 ∧ t.panel = s.panel ∧ ∀ b, pendingMap t b = pendingMap s b)

/-- R30, R481, R482, R485, R496, R506: PARTITION_SET with a sound shape asks for its partition's reset, which will bring the shape in, and
waits for it; a misaligned or overlapping shape, a reserved binding or a share of 8 or more is BAD_FORMAT. RESET_PARTITION waits the
same way, and is BAD_OBJECT for a partition that is not defined. RESET_DEVICE answers and is due at the next boundary, unless a host
path meets a partition of the other port. TILE_RESET trains the tile's links at a new epoch with its engines cleared; in a partition
that resets it is absorbed, and for a tile without a position BAD_OBJECT. -/
def Obligations.PartitionsAndTilesAreResetOnCommand : Prop :=
  let waits := fun (s t : State) (q p cause : Nat) (c : Cmd) (sh : Option Shape) =>
    partOf t p = { partOf s p with newShape := sh, resetCause := some ((partOf s p).resetCause.getD cause)
                                   waiters := (partOf s p).waiters ++ [(q, c.idx)] } ∧
    (∀ o, o ≠ p → partOf t o = partOf s o) ∧ cmdOf t q c.idx = some { c with stage := 1 } ∧
    t = { s with parts := t.parts, queues := t.queues }
  (∀ s q c, CmdDue s q 0x80 c →
    let w := wordAt c.words 1
    let p := bits w 62 60
    let sh : Shape := { defined := true, first := bits w 59 57, sizeLog := bits w 56 55, binding := bits w 54 53
                        scratch := bits w 52 49, coreCtx := bits w 11 0 }
    let format := sh.binding = 3 ∨ 8 ≤ sh.scratch ∨ sh.first % 2 ^ sh.sizeLog ≠ 0 ∨
      ∃ o, o < 8 ∧ o ≠ p ∧ ∃ b ∈ shapeBays (nextShape s o), b ∈ shapeBays sh
    (bit w 63 = true → format → exec (.partitionSet q) s = .next (reject s q c stBadFormat 1)) ∧
    (bit w 63 = true → ¬ format → (∃ b ∈ shapeBays sh, hubIsUp s b = false) → exec (.partitionSet q) s = .next (reject s q c stBadObject 0)) ∧
    (bit w 63 = true → ¬ format → shapeBarred s q p sh = false →
      ∃ t, exec (.partitionSet q) s = .next t ∧ waits s t q p 1 c (some sh)) ∧
    (bit w 63 = false → (nextShape s p).defined = true → pathBarred s q p = false →
      ∃ t, exec (.partitionSet q) s = .next t ∧ waits s t q p 1 c (some {}))) ∧
  (∀ s q c, CmdDue s q 0x81 c →
    let p := bits (wordAt c.words 1) 2 0
    ((partOf s p).shape.defined = true → pathBarred s q p = false →
      ∃ t, exec (.resetPartition q) s = .next t ∧ waits s t q p 0 c (partOf s p).newShape) ∧
    ((partOf s p).shape.defined = false ∨ pathBarred s q p = true → exec (.resetPartition q) s = .next (reject s q c stBadObject 0))) ∧
  (∀ s q c, CmdDue s q 0x82 c →
    let other := q < 2 ∧ ∃ p, p < 8 ∧ (partOf s p).shape.defined = true ∧ (partOf s p).shape.binding = 1 - q
    (¬ other → exec (.resetDevice q) s =
      .next (outcome { s with mgmt := { s.mgmt with resetDue := some (s.clk.cue + 1) } } q c 0 0)) ∧
    (other → exec (.resetDevice q) s = .next (reject s q c stBadObject 0))) ∧
  ∀ s q tr c, CmdDue s q 0x83 c →
    let n := bits (wordAt c.words 1) 6 0
    (72 ≤ n ∨ tilePos s n = none → exec (.tileReset q tr) s = .next (reject s q c stBadObject 0)) ∧
    (∀ pos, n < 72 → tilePos s n = some pos →
      (∀ p, bayPart s (n / 9) = some p → pathBarred s q p = false → (partOf s p).resetCause.isSome = true →
        exec (.tileReset q tr) s = .next (outcome s q c 0 0)) ∧
      ((∀ p, bayPart s (n / 9) = some p → pathBarred s q p = false ∧ (partOf s p).resetCause = none) →
        ∃ t, exec (.tileReset q tr) s = .next (outcome t q c 0 0) ∧
        (trussOf t pos).epoch = ((trussOf s pos).epoch + 1) % 65536 ∧ (∀ u, u < 28 → unitOf t n u = {}) ∧
        (tr.links = [] → (dieOf s pos).unpowered = false → (trussOf t pos).failed = false ∧ posIsOut t pos = false) ∧
        (∀ x ∈ tileDependents s n, x ≠ 0 → (ctxOf s x).st = .live → (ctxOf s x).fault = none →
          ∃ f, (ctxOf t x).fault = some f ∧ f.status = 0x0107 ∧ f.cue = s.clk.cue) ∧
        t.clk = s.clk ∧ t.queues = s.queues ∧ t.net = s.net ∧ t.sec = s.sec))

/-- R441, R449, R451, R455, R487, R488: POWER_CAP within the ranges sets the module's cap and limit and the caps of the partitions it
names, whose counts start over. CLOCK_STEP sets the ceilings; a decided step above one comes down to it. CALIBRATE from the jack stores
its offset under the value it names. POWER_STATE takes an idle partition to NAP, its tiles unpowered and its stacks in self-refresh,
wakes one that is in NAP and then waits for its first cue, and from the jack with no context turns the module off. -/
def Obligations.PowerCommandsSetTheirValues : Prop :=
  (∀ s q c, CmdDue s q 0x85 c →
    let w := wordAt c.words
    let m := bits (w 1) 63 48
    let l := bits (w 1) 47 40
    let cap := fun (p : Nat) => bits (w (2 + p / 4)) (16 * (p % 4) + 15) (16 * (p % 4))
    1500 ≤ m → m ≤ 5000 → 85 ≤ l → l ≤ 110 → (∀ p, p < 8 → bit (w 1) p = true → cap p = 0 ∨ (100 ≤ cap p ∧ cap p ≤ 5000) ) →
    (∀ p, p < 8 → bit (w 1) p = true → pathBarred s q p = false) →
    ∃ t, exec (.powerCap q) s = .next (outcome t q c 0 0) ∧
      t = { s with pow := { s.pow with cap := m, tLim := l }, clk := { s.clk with overCount := 0, underCount := 0 }, parts := t.parts } ∧
      (∀ p, ¬ (p < 8 ∧ bit (w 1) p = true) → partOf t p = partOf s p) ∧
      ∀ p, p < 8 → bit (w 1) p = true →
        (cap p ≠ 0 → partOf t p = { partOf s p with cap := cap p, overCount := 0, underCount := 0 }) ∧
        (cap p = 0 → partOf t p = { partOf s p with cap := 0, overCount := 0, underCount := 0, level := 0, levelDue := none
                                                    atLimit := false, idlePending := false })) ∧
  (∀ s q c, CmdDue s q 0x85 c → bits (wordAt c.words 1) 63 48 < 1500 ∨ 5000 < bits (wordAt c.words 1) 63 48 ∨
      bits (wordAt c.words 1) 47 40 < 85 ∨ 110 < bits (wordAt c.words 1) 47 40 →
    exec (.powerCap q) s = .next (reject s q c stBadFormat 1)) ∧
  (∀ s q c, CmdDue s q 0x86 c →
    let a := bits (wordAt c.words 1) 63 60
    let p := bits (wordAt c.words 1) 59 57
    ∃ t, exec (.clockStep q) s = .next (outcome t q c 0 0) ∧ t = { s with clk := t.clk } ∧ t.clk.aclkMax = a ∧ t.clk.pclkMax = p ∧
      t.clk.aclk = s.clk.aclk ∧ t.clk.pclk = s.clk.pclk ∧
      (shedding s = true → t.clk = { s.clk with aclkMax := a, pclkMax := p }) ∧
      (shedding s = false → t.clk.aclkTarget = min s.clk.aclkTarget a ∧ t.clk.pclkTarget = min s.clk.pclkTarget p ∧
        t.clk.aclkDue = (if a < s.clk.aclkTarget then some (s.clk.cue + 2) else s.clk.aclkDue) ∧
        t.clk.pclkDue = (if p < s.clk.pclkTarget then some (s.clk.cue + 1) else s.clk.pclkDue))) ∧
  (∀ s q c, CmdDue s q 0x87 c →
    let w := wordAt c.words 1
    (calibrationBad w = true → exec (.calibrate q) s = .next (reject s q c stBadFormat 1)) ∧
    (calibrationBad w = false → q ≠ 1024 → exec (.calibrate q) s = .next (reject s q c stBadObject 0)) ∧
    (calibrationBad w = false → q = 1024 → ∃ t, exec (.calibrate q) s = .next (outcome t q c 0 0) ∧
      tget 0 t.pow.offsets (calibrationKey w) = bits w 7 0 ∧
      (∀ k, k ≠ calibrationKey w → tget 0 t.pow.offsets k = tget 0 s.pow.offsets k) ∧
      t = { s with pow := { s.pow with offsets := t.pow.offsets } })) ∧
  ∀ s q c, CmdDue s q 0x88 c →
    let w := wordAt c.words 1
    let p := bits w 2 0
    (bits w 63 62 = 1 → exec (.powerState q) s = .next (reject s q c stBadFormat 1)) ∧
    (bits w 63 62 = 0 → pathBarred s q p = false → (partOf s p).power ≠ 2 → exec (.powerState q) s = .next (outcome s q c 0 0)) ∧
    (bits w 63 62 = 0 → pathBarred s q p = false → (partOf s p).power = 2 →
      ∃ t, exec (.powerState q) s = .next t ∧ cmdOf t q c.idx = some { c with stage := 1 } ∧
        partOf t p = { partOf s p with power := 0, emptyCues := 0, wakers := (partOf s p).wakers ++ [(q, c.idx)] } ∧
        (∀ d ∈ partPositions s p, (dieOf t d).unpowered = false ∧ (dieOf t d).fullFrom = some (beat s)) ∧
        (∀ k ∈ partStacks s p, (stackOf t k).state = if (stackOf s k).state = 3 then 1 else (stackOf s k).state)) ∧
    (bits w 63 62 = 2 → pathBarred s q p = false → (partOf s p).state = 2 → (partOf s p).order.runs = [] → partBusy s p = false →
      ∃ t, exec (.powerState q) s = .next (outcome t q c 0 0) ∧ partOf t p = { partOf s p with power := 2, emptyCues := 0 } ∧
        (∀ d ∈ partPositions s p, (dieOf t d).unpowered = true) ∧
        (∀ k ∈ partStacks s p, (stackOf t k).state = if (stackOf s k).state = 1 then 3 else (stackOf s k).state) ∧
        t.cores = s.cores ∧ t.eng = s.eng ∧ t.mem.cells = s.mem.cells) ∧
    (bits w 63 62 = 3 → q = 1024 → (∀ kv ∈ s.ctxs, kv.2.st = .free) →
      exec (.powerState q) s = .next (outcome { s with mgmt := { s.mgmt with off := true } } q c 0 0)) ∧
    (bits w 63 62 = 3 → q ≠ 1024 → exec (.powerState q) s = .next (reject s q c stBadObject 0))

/-- R418, R427, R430, R467, R486, R489–R491: HEALTH_READ gives the health record, which begins with its version and CHANGES. ROUTE_SET
writes one route for every hub. LINK_TRUST installs or clears an anchor, or installs an own certificate whose GID then takes the own
route, and extends measurement register 7. ETH_SET, PEER_SET and QP_SET write their entry from their words; a replaced peer is not
authenticated, a replaced pair has no error. -/
def Obligations.RoutesTrustAndPeersAreConfigured : Prop :=
  (∀ s c, CmdDue s 1024 0x89 c → bits (wordAt c.words 1) 54 0 = 0 →
    ∃ t, exec (.healthRead 1024) s = .next t ∧ t = { s with queues := t.queues } ∧
      cmdOf t 1024 c.idx = some { c with got := tput [] [] 0 (healthRecord s), fin := some (plainDone (s.clk.cue + 1) 0 0) } ∧
      (healthRecord s).take 8 = leBytes 8 (2 ^ 48 + s.mgmt.changes % 2 ^ 48)) ∧
  (∀ s q c pas, CmdDue s q 0x89 c → q ≠ 1024 →
    let dst := bits (wordAt c.words 1) 54 0
    dst % 64 = 0 → resolve s (cmdCtx s q c) dst 4096 needWrite = .ok pas → badPartial s (pas.filter (fun x => cacheable x.1)) = none →
    piecesTaken s pas = true → (∀ x ∈ pas, inRemote x.1 = false) →
    exec (.healthRead q) s = .next (outcome (putBytes s (cmdCtx s q c) pas (healthRecord s)) q c 0 0)) ∧
  (∀ s q c, CmdDue s q 0x8A c →
    let g := bits (wordAt c.words 1) 47 24
    let v := bits (wordAt c.words 1) 7 0
    let format := (0x30 ≤ v ∧ v ≤ 0xFD) ∨ (g = s.net.gid ∧ v ≠ 0xFE)
    (format → exec (.routeSet q) s = .next (reject s q c stBadFormat 1)) ∧
    (¬ format → ∃ t, exec (.routeSet q) s = .next (outcome t q c 0 0) ∧ (∀ hub, routeOf t hub g = v) ∧
      (∀ hub g', g' ≠ g → routeOf t hub g' = routeOf s hub g') ∧
      t = { s with net := { s.net with routes := t.net.routes, routeCache := t.net.routeCache } })) ∧
  (∀ s c, CmdDue s 1024 0x8B c →
    let w := wordAt c.words
    let slot := bits (w 1) 2 0
    let data := gotBytes c
    let event := fun (t : State) => measureOf t 7 = shake256 (measureOf s 7 ++ shake256 ((wordBytes c.words).take 64)) ∧
      ∀ i, i ≠ 7 → measureOf t i = measureOf s i
    (bits (w 1) 63 62 = 0 → 68 ≤ data.length → ∃ t, exec (.linkTrust 1024) s = .next (outcome t 1024 c 0 0) ∧ event t ∧
      tget none t.sec.anchors slot = some (data.take 68, bits (w 2) 31 0) ∧
      (∀ k, k ≠ slot → tget none t.sec.anchors k = tget none s.sec.anchors k) ∧
      t = { s with sec := { s.sec with anchors := t.sec.anchors, measure := t.sec.measure } }) ∧
    (bits (w 1) 63 62 = 1 → ∃ t, exec (.linkTrust 1024) s = .next (outcome t 1024 c 0 0) ∧ event t ∧
      tget none t.sec.anchors slot = none ∧ (∀ k, k ≠ slot → tget none t.sec.anchors k = tget none s.sec.anchors k) ∧
      t = { s with sec := { s.sec with anchors := t.sec.anchors, measure := t.sec.measure } }) ∧
    (bits (w 1) 63 62 = 2 → 2948 ≤ data.length → ownCertOk s (data.take 2948) = true →
      ∃ t, exec (.linkTrust 1024) s = .next (outcome t 1024 c 0 0) ∧ event t ∧ t.sec.cert = some (data.take 2948) ∧
        t.net.gid = certGid (data.take 2948) ∧
        (certGid (data.take 2948) = s.net.gid → t.net = s.net) ∧
        (certGid (data.take 2948) ≠ s.net.gid → tget 0xFF t.net.routes s.net.gid = 0xFF ∧ tget 0xFF t.net.routes t.net.gid = 0xFE ∧
          ∀ l, l < 48 → (linkOf s l).state = 4 → (linkOf t l).state ≠ 4)) ∧
    (bits (w 1) 63 62 = 3 → exec (.linkTrust 1024) s = .next (reject s 1024 c stBadFormat 1))) ∧
  (∀ s c, CmdDue s 1024 0x8C c →
    let port := bits (wordAt c.words 1) 63 60
    (port ≤ 8 → ∃ t, exec (.ethSet 1024) s = .next (outcome t 1024 c 0 0) ∧
      (ethOf t port).words = [wordAt c.words 1, wordAt c.words 2, wordAt c.words 3, wordAt c.words 4, wordAt c.words 5] ∧
      (∀ p, p ≠ port → ethOf t p = ethOf s p) ∧ t = { s with net := { s.net with eth := t.net.eth } }) ∧
    (8 < port → exec (.ethSet 1024) s = .next (reject s 1024 c stBadFormat 1))) ∧
  (∀ s c, CmdDue s 1024 0x8D c →
    let w := wordAt c.words
    let port := bits (w 1) 63 60
    let k := 1024 * port + bits (w 1) 57 48
    (port ≤ 7 → ∃ t, exec (.peerSet 1024) s = .next (outcome t 1024 c 0 0) ∧
      (peerOf t k).valid = bit (w 1) 47 ∧ (peerOf t k).gid = bits (w 1) 23 0 ∧ (peerOf t k).mac = bits (w 2) 47 0 ∧
      (peerOf t k).ip = (w 3).toNat * 2 ^ 64 + (w 4).toNat ∧ (peerOf t k).auth = false ∧
      (∀ j, j ≠ k → peerOf t j = peerOf s j) ∧ t = { s with net := { s.net with peers := t.net.peers } }) ∧
    (7 < port → exec (.peerSet 1024) s = .next (reject s 1024 c stBadFormat 1))) ∧
  (∀ s c, CmdDue s 1024 0x8E c →
    let w := wordAt c.words
    let port := bits (w 1) 63 60
    let k := 256 * port + bits (w 1) 55 48
    (port ≤ 7 → bits (w 1) 45 44 ≠ 3 → ∃ t, exec (.qpSet 1024) s = .next (outcome t 1024 c 0 0) ∧
      (qpOf t k).valid = bit (w 1) 47 ∧ (qpOf t k).pmtu = bits (w 1) 45 44 ∧ (qpOf t k).gid = bits (w 1) 23 0 ∧
      (qpOf t k).remote = bits (w 2) 47 24 ∧ (qpOf t k).epsn = bits (w 2) 23 0 ∧ (qpOf t k).mac = bits (w 3) 47 0 ∧
      (qpOf t k).ip = (w 4).toNat * 2 ^ 64 + (w 5).toNat ∧ (qpOf t k).error = false ∧
      (∀ j, j ≠ k → qpOf t j = qpOf s j) ∧ t = { s with net := { s.net with qps := t.net.qps } }) ∧
    (7 < port → exec (.qpSet 1024) s = .next (reject s 1024 c stBadFormat 1))) ∧
  ∀ s q c, q ≠ 1024 →
    (CmdDue s q 0x8B c → bits (wordAt c.words 1) 63 62 ≠ 3 → exec (.linkTrust q) s = .next (reject s q c stBadObject 0)) ∧
    (CmdDue s q 0x8C c → bits (wordAt c.words 1) 63 60 ≤ 8 → exec (.ethSet q) s = .next (reject s q c stBadObject 0)) ∧
    (CmdDue s q 0x8D c → bits (wordAt c.words 1) 63 60 ≤ 7 → exec (.peerSet q) s = .next (reject s q c stBadObject 0)) ∧
    (CmdDue s q 0x8E c → bits (wordAt c.words 1) 63 60 ≤ 7 → bits (wordAt c.words 1) 45 44 ≠ 3 →
      exec (.qpSet q) s = .next (reject s q c stBadObject 0))

/-- R6–R8, R43, R352, R354, R375, R479, R480: CUE_COUNT and CLOCK_STATUS read their fields at 64 bits and 0 otherwise; accesses of
another width and of undefined offsets are ignored. PORT_CTL takes its own port's writes, PORT_EVENTS clears the bits written 1. A
callboard entry and a house ring take the writes of their port. The jack takes a datagram once: a command joins its queue, a register
read answers with the value, a write is acknowledged; a kept TAG is not performed again. -/
def Obligations.RegistersAnswerTheirPaths : Prop :=
  (∀ s path, readBar0 s path 0x100 8 = BitVec.ofNat 64 s.clk.cue ∧ readBar0 s path 0x100 4 = 0 ∧
    (s.clk.aclk < 16 → s.clk.aclkTarget < 16 → bits (readBar0 s path 0x108 8) 3 0 = s.clk.aclk ∧
      bits (readBar0 s path 0x108 8) 11 8 = s.clk.aclkTarget ∧ bit (readBar0 s path 0x108 8) 16 = s.clk.shed)) ∧
  (∀ s p off width v, (width ≠ 8 ∨ off % 8 ≠ 0) → isMsix off = false → exec (.registerWrite p off width v) s = .next s) ∧
  (∀ s p v, p < 2 → (portOf s p).lost = false →
    ∃ t, exec (.registerWrite p (0x220 + 8 * p) 8 v) s = .next t ∧ portOf t p = { portOf s p with ctl := v &&& 0x80000000000007FF } ∧
      (∀ o, o ≠ p → portOf t o = portOf s o) ∧ t = { s with ports := t.ports }) ∧
  (∀ s p v, p < 2 → exec (.registerWrite p (0x220 + 8 * (1 - p)) 8 v) s = .next s) ∧
  (∀ s p k v, k < 2 → (portOf s p).lost = false → (portOf s k).events < 16 →
    ∃ t, exec (.registerWrite p (0x210 + 8 * k) 8 v) s = .next t ∧
      (∀ i, i < 4 → (portOf t k).events.testBit i = ((portOf s k).events.testBit i && !v.getLsbD i)) ∧
      portOf t k = { portOf s k with events := (portOf t k).events, refused := (portOf t k).refused } ∧
      (bits v 3 2 = 0 → (portOf t k).refused = (portOf s k).refused) ∧ t = { s with ports := t.ports }) ∧
  (∀ s p q v, (portOf s p).lost = false →
    let mine := q = p ∨ (2 ≤ q ∧ (queueOf s q).used = true ∧ (queueOf s q).closing = false ∧ (queueOf s q).binding = p)
    (mine → ∃ t, exec (.callboardWrite p q v) s = .next t ∧ queueOf t q = { queueOf s q with tail := v &&& 0xFFFFFFFF } ∧
      (∀ o, o ≠ q → queueOf t o = queueOf s o) ∧ t = { s with queues := t.queues }) ∧
    (¬ mine → exec (.callboardWrite p q v) s = .next s)) ∧
  (∀ s p v, p < 2 → (portOf s p).lost = false →
    let old := (portOf s p).houseRing
    let inside := ownWindow p (bits v 47 12 * 4096) = true ∧ ownWindow p (bits (portOf s p).houseDone 47 11 * 2048) = true
    (bit old 63 = true → bit v 63 = true → bits v 47 12 ≠ bits old 47 12 → exec (.houseRingWrite p v) s = .next s) ∧
    ((bit old 63 = false ∨ bits v 47 12 = bits old 47 12) → bit v 63 = true → inside →
      ∃ t, exec (.houseRingWrite p v) s = .next t ∧ (portOf t p).houseRing = v &&& 0x8000FFFFFFFFF000 ∧
        (queueOf t p).cmds = [] ∧ (queueOf t p).taken = 0 ∧ (queueOf t p).seen = 0 ∧ t.clk = s.clk ∧ t.mem = s.mem ∧ t.ctxs = s.ctxs) ∧
    ((bit old 63 = false ∨ bits v 47 12 = bits old 47 12) → bit v 63 = true → ¬ inside →
      ∃ t, exec (.houseRingWrite p v) s = .next t ∧ (portOf t p).houseRing = v &&& 0x0000FFFFFFFFF000 ∧ t = { s with ports := t.ports }) ∧
    (bit v 63 = false → ∃ t, exec (.houseRingWrite p v) s = .next t ∧ (portOf t p).houseRing = v &&& 0x0000FFFFFFFFF000 ∧
      t = { s with ports := t.ports })) ∧
  ∀ s tag,
    let kept := (∃ r ∈ s.mgmt.replies, r.tag = tag) ∨ (cmdOf s 1024 tag).isSome = true
    let replied := fun (t : State) (r : Reply) => t.mgmt.replies.getLast? = some r ∧ t.mgmt.replies.length ≤ 64
    s.mgmt.replies.length ≤ 64 →
    (kept → (∀ off, exec (.regRead tag off) s = .next s) ∧ (∀ off v, exec (.regWrite tag off v) s = .next s) ∧
      ∀ packet data, exec (.command tag packet data) s = .next s) ∧
    (¬ kept →
      (∀ off, ∃ t, exec (.regRead tag off) s = .next t ∧ t = { s with mgmt := { s.mgmt with replies := t.mgmt.replies } } ∧
        replied t { tag, data := some ([readBar0 s .eth off 8], []) }) ∧
      (∀ off v, ∃ t, exec (.regWrite tag off v) s = .next t ∧
        t = { writeBar0 s .eth off 8 v with mgmt := t.mgmt } ∧ (t.mgmt.replies.getLast? = some { tag, data := some ([], []) })) ∧
      ∀ packet data, ∃ t, exec (.command tag packet data) s = .next t ∧ replied t { tag, data := none } ∧
        t = { s with queues := t.queues, mgmt := { s.mgmt with replies := t.mgmt.replies } } ∧
        (queueOf t 1024).cmds = (queueOf s 1024).cmds ++ [{ idx := tag, entries := pktEntries (wordAt packet 0), words := packet
                                                            taken := s.clk.cue + 1, got := tput [] [] 0 data }] ∧
        ∀ q, q ≠ 1024 → queueOf t q = queueOf s q)

/-- R313, R357–R359: a write of word 0 starts an action unless one is in progress, its entry not valid meanwhile. The action's end clears
BUSY; an install gives the first failing check in the order 4, 1, 3, 2, and makes its entry valid only with RESULT 0. A resize of BAR2
removes the entries that run past the new size. -/
def Obligations.ApertureActionsFollowR358 : Prop :=
  (∀ s p e v, (portOf s p).lost = false → (portOf s p).apAction = none →
    let begun := fun (t : State) (w : Option W64) => (portOf t p).apAction = some (e, w) ∧ (portOf t p).apEntry = e ∧
      apValid (apertureOf (portOf t p) e) = false ∧ (apertureOf (portOf t p) e).w1 = (apertureOf (portOf s p) e).w1 ∧
      (∀ d, d ≠ e → apertureOf (portOf t p) d = apertureOf (portOf s p) d) ∧ t = { s with ports := t.ports }
    (bit v 63 = true → ∃ t, exec (.apertureInstall p e v) s = .next t ∧ begun t (some v)) ∧
    (bit v 63 = false → ∃ t, exec (.apertureRemove p e v) s = .next t ∧ begun t none)) ∧
  (∀ s p e v, (portOf s p).apAction.isSome = true →
    exec (.apertureInstall p e v) s = .next s ∧ exec (.apertureRemove p e v) s = .next s) ∧
  (∀ s p e, (portOf s p).apAction = some (e, none) →
    exec (.apertureActionEnd p) s = .next (setPort s p { portOf s p with apAction := none, apResult := 0 })) ∧
  (∀ s p e w, (portOf s p).apAction = some (e, some w) →
    let w1 := (apertureOf (portOf s p) e).w1
    let start := bits w 39 16 * 65536
    let bytes := (bits w1 63 40 + 1) * 65536
    let va := bits w1 38 0 * 65536
    let need := (if bit w 62 then 8 else 0) ||| (if bit w 61 then 4 else 0) ||| (if bit w 60 then 14 else 0)
    let reserved := bits w 59 52 ≠ 0 ∨ bits w 15 0 ≠ 0 ∨ (apertureOf (portOf s p) e).odd = true
    let context := bits w 51 40 = 0 ∨ (ctxOf s (bits w 51 40)).st ≠ .live ∨ (ctxOf s (bits w 51 40)).binding ≠ p
    let overlap := 2 ^ (portOf s p).bar2 < start + bytes ∨ ∃ kv ∈ (portOf s p).apertures, kv.1 ≠ e ∧ apValid kv.2 = true ∧
      start < apStart kv.2 + apBytes kv.2 ∧ apStart kv.2 < start + bytes
    let pages := ∃ pg ∈ pagesOf va bytes, ∀ pa, translate s (bits w 51 40) pg.1 need = some pa → cacheable pa = false
    ∃ t r, exec (.apertureActionEnd p) s = .next t ∧ (portOf t p).apAction = none ∧ (portOf t p).apResult = r ∧
      (apValid (apertureOf (portOf t p) e) = true ↔ r = 0) ∧ (r = 0 → apStart (apertureOf (portOf t p) e) = start ∧
        apBytes (apertureOf (portOf t p) e) = bytes ∧ apVa (apertureOf (portOf t p) e) = va ∧ apCtx (apertureOf (portOf t p) e) = bits w 51 40) ∧
      (reserved → r = 4) ∧ (¬ reserved → context → r = 1) ∧ (¬ reserved → ¬ context → overlap → r = 3) ∧
      (¬ reserved → ¬ context → ¬ overlap → pages → r = 2) ∧ (¬ reserved → ¬ context → ¬ overlap → ¬ pages → r = 0) ∧
      (∀ d, d ≠ e → apertureOf (portOf t p) d = apertureOf (portOf s p) d) ∧ t = { s with ports := t.ports }) ∧
  (∀ s p, (portOf s p).apAction = none → exec (.apertureActionEnd p) s = .next s) ∧
  ∀ s p n, (portOf s p).lost = false → 30 ≤ n → n ≤ 40 → twf {} (portOf s p).apertures = true →
    ∃ t, exec (.bar2Resize p n) s = .next t ∧ (portOf t p).bar2 = n ∧ t = { s with ports := t.ports } ∧
      ∀ e, apertureOf (portOf t p) e = if apValid (apertureOf (portOf s p) e) = true ∧
        2 ^ n < apStart (apertureOf (portOf s p) e) + apBytes (apertureOf (portOf s p) e) then {} else apertureOf (portOf s p) e

/-- R355, R360, R361, R365: a BAR2 request that an entry covers and grants, whose pages translate to local memory of its context and whose
bursts can be read, reads, writes or changes exactly its bytes, and reads and AtomicOps return them; a request that fails changes no
memory, counts in REFUSED and completes with its status. In BAR0 only the 64-bit host count of an object is changed. A vector that is
unmasked sends its pending message. -/
def Obligations.HostRequestsFollowR360 : Prop :=
  let done := fun (s : State) (p status : Nat) (bs : List Byte) => modPort s p (fun x => { x with cpls := x.cpls ++ [{ status, data := bs }] })
  let refused := fun (s : State) (p aer : Nat) =>
    bumpCounter (modPort s p (fun x => { x with refused := min 65535 (x.refused + 1), aer := x.aer ++ [aer] })) 4 1
  let covered := fun (s : State) (p off n grant need e pa : Nat) (a : Aperture) => (portOf s p).lost = false ∧ s.sec.limp = false ∧
    (portOf s p).apertures.find? (fun kv => apValid kv.2 && decide (apStart kv.2 ≤ off) && decide (off + n ≤ apStart kv.2 + apBytes kv.2)) = some (e, a) ∧
    bit a.w0 grant = true ∧ (∀ pg ∈ pagesOf (apVa a + (off - apStart a)) n, ∃ x, translate s (apCtx a) pg.1 need = some x ∧ cacheable x = true) ∧
    resolve s (apCtx a) (apVa a + (off - apStart a)) n need = .ok [(pa, n)] ∧ napAddr s pa = false
  (∀ s p off n e pa a, covered s p off n 62 8 e pa a → badPiece s [(pa, n)] = none →
    exec (.bar2Read p off n) s = .next (done s p 0 ((upFrom pa n).map (readByte s)))) ∧
  (∀ s p off e pa a data, covered s p off data.length 61 4 e pa a → badPartial s [(pa, data.length)] = none →
    (∀ l, dirOf s l = {}) → s.coh.queue = [] →
    ∃ t, exec (.bar2Write p off data false) s = .next t ∧
      (∀ b, readByte t b = if pa ≤ b ∧ b < pa + data.length then data.getD (b - pa) 0 else readByte s b) ∧
      t = { s with mem := { s.mem with cells := t.mem.cells, bad := t.mem.bad }, coh := t.coh }) ∧
  (∀ s p off op size v w e pa a, covered s p off size 60 14 e pa a → size = 4 ∨ size = 8 → off % size = 0 → badPiece s [(pa, size)] = none →
    (∀ l, dirOf s l = {}) → s.coh.queue = [] →
    let old := (upFrom pa size).map (readByte s)
    let new := leBytes size (atomicOp op size (leNat old) v.toNat w.toNat)
    ∃ t, exec (.bar2AtomicOp p off op size v w) s = .next t ∧ (portOf t p).cpls = (portOf s p).cpls ++ [{ status := 0, data := old }] ∧
      (∀ b, readByte t b = if pa ≤ b ∧ b < pa + size then new.getD (b - pa) 0 else readByte s b) ∧
      t = { s with mem := { s.mem with cells := t.mem.cells, bad := t.mem.bad }, coh := t.coh, ports := t.ports }) ∧
  (∀ s p off n, (portOf s p).lost = false → (∀ kv ∈ (portOf s p).apertures, apValid kv.2 = true →
      ¬ (apStart kv.2 ≤ off ∧ off + n ≤ apStart kv.2 + apBytes kv.2)) →
    exec (.bar2Read p off n) s = .next (done (refused s p 1) p 1 []) ∧
    (∀ data, data.length = n → exec (.bar2Write p off data false) s = .next (refused s p 1)) ∧
    ∀ op v w, exec (.bar2AtomicOp p off op n v w) s = .next (done (refused s p 1) p 1 [])) ∧
  (∀ s p off n e pa a, covered s p off n 62 8 e pa a → ∀ b, badPiece s [(pa, n)] = some b →
    exec (.bar2Read p off n) s = .next (done (refused (meetBad s (b / 32) []) p 2) p 2 [])) ∧
  (∀ s p off data, (portOf s p).lost = false → exec (.bar2Write p off data true) s = .next (refused s p 4)) ∧
  (∀ s p i v w op, (portOf s p).lost = false → i < 262144 → (objOf s i).state = 1 → (objOf s i).binding = p →
    let old := (objOf s i).hostCount
    ∃ t, exec (.bar0AtomicOp p (0x2000000 + 64 * i + 8) op 8 v w) s = .next t ∧
      objOf t i = { objOf s i with hostCount := if op = 0 then old + v else if op = 1 then v else if old = w then v else old } ∧
      (∀ k, k ≠ i → objOf t k = objOf s k) ∧ (portOf t p).cpls = (portOf s p).cpls ++ [{ status := 0, data := leBytes 8 old.toNat }] ∧
      t = { s with objs := t.objs, ports := t.ports }) ∧
  (∀ s p off op v w, (portOf s p).lost = false → off < 0x2000000 → off % 8 = 0 →
    ∃ t, exec (.bar0AtomicOp p off op 8 v w) s = .next t ∧ (portOf t p).refused = min 65535 ((portOf s p).refused + 1) ∧
      (portOf t p).cpls = (portOf s p).cpls ++ [{ status := 0, data := List.replicate 8 0 }] ∧ t.objs = s.objs ∧ t.mem = s.mem ∧ t.queues = s.queues) ∧
  (∀ s p n c, (portOf s p).lost = false → c.getLsbD 0 = false → (msixOf (portOf s p) n).pend = true → (portOf s p).funcMask = false →
    (portOf s p).silent = false → (portOf s p).holding = false → n ∉ (portOf s p).sentVecs →
    ∃ t, exec (.msixUnmask p n c) s = .next t ∧ (msixOf (portOf t p) n).pend = false ∧ (msixOf (portOf t p) n).control = 0 ∧
      ((portOf t p).out.map (fun m => (m.bus, m.data, m.msix))) = ((portOf s p).out.map (fun m => (m.bus, m.data, m.msix))) ++
        [((msixOf (portOf s p) n).addr.toNat, leBytes 4 (msixOf (portOf s p) n).data.toNat, some n)] ∧ t = { s with ports := t.ports }) ∧
  ∀ s p n c, (portOf s p).lost = false → (c.getLsbD 0 = true ∨ (msixOf (portOf s p) n).pend = false) →
    ∃ t, exec (.msixUnmask p n c) s = .next t ∧ msixOf (portOf t p) n = { msixOf (portOf s p) n with control := c &&& 1 } ∧ t = { s with ports := t.ports }

/-- R239, R364, R365: a read's completion gives its bytes to the one that asked; the load of a thread that waits for them completes,
and a thread that no longer waits takes nothing. A first timeout issues the read once again; a second, or
poisoned data, loses the requesting context with HOST_PORT_RESET, and nothing else. Malformed TLPs and receiver errors are reported only. -/
def Obligations.DeviceReadsEndOrLoseTheirContext : Prop :=
  let without := fun (s : State) (p tag : Nat) => modPort s p (fun x => { x with reads := x.reads.filter (fun r => r.tag != tag) })
  let lost := fun (s t : State) (p c code : Nat) => c ≠ 0 → (ctxOf s c).st = .live → (ctxOf s c).fault = none →
    ∃ f, (ctxOf t c).fault = some f ∧ f.status = 0x0106 ∧ f.cue = s.clk.cue ∧ bits f.address 11 8 = code ∧ bits f.address 0 0 = p
  (∀ s p tag r data, (portOf s p).reads.find? (fun x => x.tag == tag) = some r → data.length = r.len → (portOf s p).holding = false →
    (∀ c, r.purpose = .core c → exec (.readCompletion p tag data) s =
      .next (modCore (without s p tag) c (fun x => { x with arrived := some data, waiting := false }))) ∧
    (∀ t g n, r.purpose = .gp t g n →
      let x := threadAt (gpOf s t g) n
      let l := loadTo (codeWord s t (gpOf s t g).blk x.pc) data (laneOf s t g n)
      ((gpOf s t g).running = true → x.st = .memory → ∃ u, exec (.readCompletion p tag data) s = .next u ∧
        threadAt (gpOf u t g) n = { x with g := l.g, p := l.p, pc := x.pc + 8, st := .ready, arrived := none } ∧
        (∀ k, k ≠ n → threadAt (gpOf u t g) k = threadAt (gpOf s t g) k) ∧ portOf u p = portOf (without s p tag) p) ∧
      ((gpOf s t g).running = false ∨ x.st ≠ .memory → exec (.readCompletion p tag data) s = .next (without s p tag))) ∧
    (∀ q off c, r.purpose = .cmd q off → (queueOf s q).cmds = [c] → c.asked = true → c.fin = none →
      ∃ u, exec (.readCompletion p tag data) s = .next u ∧ (queueOf u q).cmds = [{ c with got := tput [] c.got off data }] ∧
        portOf u p = portOf (without s p tag) p)) ∧
  (∀ s p tag data, ((portOf s p).reads.find? (fun x => x.tag == tag) = none ∨ (portOf s p).holding = true) →
    exec (.readCompletion p tag data) s = .next s) ∧
  (∀ s p tag r, (portOf s p).reads.find? (fun x => x.tag == tag) = some r → r.again = false →
    ∃ t, exec (.completionTimeout p tag) s = .next t ∧ t = { s with ports := t.ports } ∧ (portOf t p).aer = (portOf s p).aer ++ [3] ∧
      (portOf t p).reads = (portOf s p).reads.filter (fun x => x.tag != tag) ++ [{ r with again := true }]) ∧
  (∀ s p tag r, p < 2 → (portOf s p).reads.find? (fun x => x.tag == tag) = some r → r.again = true → (∀ q off, r.purpose ≠ .cmd q off) →
    ∃ t, exec (.completionTimeout p tag) s = .next t ∧ t = { s with ports := t.ports, ctxs := t.ctxs } ∧ lost s t p r.ctx 4 ∧
      (portOf t p).aer = (portOf s p).aer ++ [3] ∧ (portOf t p).reads = (portOf s p).reads.filter (fun x => x.tag != tag) ∧
      ∀ c, c ≠ r.ctx → ctxOf t c = ctxOf s c) ∧
  (∀ s p tag r, p < 2 → (portOf s p).reads.find? (fun x => x.tag == tag) = some r → (∀ q off, r.purpose ≠ .cmd q off) →
    ∃ t, exec (.poisonedCompletion p tag) s = .next t ∧ t = { s with ports := t.ports, ctxs := t.ctxs } ∧ lost s t p r.ctx 5 ∧
      (portOf t p).aer = (portOf s p).aer ++ [4] ∧ (portOf t p).reads = (portOf s p).reads.filter (fun x => x.tag != tag) ∧
      ∀ c, c ≠ r.ctx → ctxOf t c = ctxOf s c) ∧
  ∀ s p, (portOf s p).lost = false →
    exec (.malformedTlp p) s = .next (modPort s p (fun x => { x with aer := x.aer ++ [5] })) ∧
    exec (.receiverError p) s = .next (modPort s p (fun x => { x with aer := x.aer ++ [0] }))

/-- R367, R368: a port that leaves DL_Active, or whose Bus Master Enable is cleared, holds its writes from then on. When it is in DL_Active
with Bus Master Enable set again, the held writes are issued in order ahead of any new one, HOLDING is cleared and LINK_RETURNED set.
The end of the hold limit, a hot reset and an FLR discard held writes and outstanding reads, lose the port's contexts with
HOST_PORT_RESET, silence the port, empty its house queue and reset its tables; device memory and other contexts are unaffected. -/
def Obligations.PortsHoldAndReset : Prop :=
  (∀ s p, (portOf s p).lost = false →
    ((portOf s p).linkUp = true → ∃ t, exec (.linkDown p false) s = .next t ∧ t = { s with ports := t.ports } ∧
      portOf t p = { portOf s p with linkUp := false, gen := 0, width := 0, events := (portOf s p).events ||| 1, holding := true
                                     cuesHeld := if (portOf s p).holding then (portOf s p).cuesHeld else 0 }) ∧
    ((portOf s p).busMaster = true → ∃ t, exec (.linkDown p true) s = .next t ∧ t = { s with ports := t.ports } ∧
      portOf t p = { portOf s p with busMaster := false, events := (portOf s p).events ||| 1, holding := true
                                     cuesHeld := if (portOf s p).holding then (portOf s p).cuesHeld else 0 })) ∧
  (∀ s p, (portOf s p).lost = false →
    let resumed := fun (x : Port) => if x.holding = true then { x with
        holding := false, cuesHeld := 0, out := x.out ++ x.held, held := [], events := x.events ||| 2, silent := false } else { x with silent := false }
    (∀ g w, (portOf s p).linkUp = false → ∃ t, exec (.linkReturned p g w) s = .next t ∧ t = { s with ports := t.ports } ∧
      let x := { portOf s p with linkUp := true, gen := g, width := w }
      portOf t p = if x.busMaster = true then resumed x else x) ∧
    ∃ t, exec (.busMasterEnableSet p) s = .next t ∧ t = { s with ports := t.ports } ∧
      let x := { portOf s p with busMaster := true }
      portOf t p = if x.linkUp = true then resumed x else x) ∧
  (∀ (row : Nat → Instr) (bit' code : Nat) (config : Bool),
    (row, bit', code, config) ∈ [(Instr.holdLimit, 3, 0, false), (Instr.hotReset, 2, 1, true), (Instr.flr, 2, 2, true)] →
    ∀ s p, p < 2 → (portOf s p).lost = false → twf {} s.ctxs = true →
      (code = 0 → (portOf s p).holding = true ∧ 65536 ≤ (portOf s p).cuesHeld) →
      ∃ t, exec (row p) s = .next t ∧ (portOf t p).held = [] ∧ (portOf t p).reads = [] ∧ (portOf t p).out = (portOf s p).out ∧
        (portOf t p).events = (portOf s p).events ||| 2 ^ bit' ∧ (portOf t p).holding = false ∧ (portOf t p).cuesHeld = 0 ∧
        (portOf t p).silent = true ∧ (portOf t p).apertures = [] ∧ (portOf t p).msix = [] ∧
        (portOf t p).houseRing = (portOf s p).houseRing ∧ (portOf t p).houseDone = (portOf s p).houseDone ∧
        (config = true → (portOf t p).busMaster = false ∧ (portOf t p).bar2 = 30) ∧
        (config = false → (portOf t p).busMaster = (portOf s p).busMaster ∧ (portOf t p).bar2 = (portOf s p).bar2) ∧
        (queueOf t p).cmds = [] ∧ (queueOf t p).taken = 0 ∧
        (∀ c, c ≠ 0 → (ctxOf s c).st = .live → (ctxOf s c).binding = p → (ctxOf s c).fault = none →
          ∃ f, (ctxOf t c).fault = some f ∧ f.status = 0x0106 ∧ bits f.address 11 8 = code ∧ bits f.address 0 0 = p) ∧
        (∀ c, (ctxOf s c).binding ≠ p → ctxOf t c = ctxOf s c) ∧ t.clk = s.clk ∧ t.mem = s.mem ∧ t.coh = s.coh ∧ t.eng = s.eng ∧ t.sec = s.sec) ∧
  ∀ s p, (portOf s p).holding = false ∨ (portOf s p).cuesHeld < 65536 → exec (.holdLimit p) s = .next s

/-- R50, R51, R289, R290, R294, R295, R297, R299, R300, R304: a dark period that is due, or forced in a hold cue, advances its channel's
sweep mod 531 and uses window 110 for the first due of a lane test, two lines of a row copy, and two lines of scrub; no other channel
changes. A burst that decodes as it comes or as it is read again is delivered and its corrections are counted;
one that decodes neither time, with no lane marked by the test, is uncorrectable and its row takes a soft spare. A lane that loses lock is marked at once; more than 16 channels at once fail the stack. -/
def Obligations.ChannelsAreRefreshedScrubbedAndRepaired : Prop :=
  let others := fun (s t : State) (k ch : Nat) => ∀ k' ch', (k' ≠ k ∨ ch' ≠ ch) → chanOf t k' ch' = chanOf s k' ch'
  (∀ (row : Nat → Nat → Nat → Instr) (due : State → Nat → Nat → Bool), (row = Instr.darkPeriod ∧ due = darkDue) ∨ (row = Instr.forcedDark ∧ due = forcedDue) →
    ∀ s k ch lanes,
      ((stackOf s k).state = 1 → hubIsUp s (k / 2) = true → due s k ch = true →
        let c := chanOf s k ch
        (c.testDue = false → c.copies = [] → ∃ t, exec (row k ch lanes) s = .next t ∧ others s t k ch ∧
          chanOf t k ch = { c with sweep := (c.sweep + 1) % 531, darkAt := s.clk.cue, scrub := (c.scrub + 2) % 1572864 } ∧
          t = { s with mem := { s.mem with mstacks := t.mem.mstacks, badDue := t.mem.badDue } }) ∧
        (∀ r n rest, c.testDue = false → c.copies = (r, n) :: rest → ∃ t, exec (row k ch lanes) s = .next t ∧ others s t k ch ∧
          chanOf t k ch = { c with sweep := (c.sweep + 1) % 531, darkAt := s.clk.cue, copies := if 8 ≤ n + 2 then rest else (r, n + 2) :: rest } ∧
          t = { s with mem := { s.mem with mstacks := t.mem.mstacks, badDue := t.mem.badDue } }) ∧
        (c.testDue = true → ∃ t, exec (row k ch lanes) s = .next t ∧ others s t k ch ∧
          chanOf t k ch = { c with sweep := (c.sweep + 1) % 531, darkAt := s.clk.cue, testDue := false, marked := (chanOf t k ch).marked } ∧
          (∀ x, (chanOf t k ch).marked.testBit x = true ↔ c.marked.testBit x = true ∨ ∃ l, l < 10 ∧ lanes.testBit l = true ∧ laneCarries c l = some x) ∧
          t.mem.cells = s.mem.cells ∧ t.coh = s.coh ∧ t.clk = s.clk)) ∧
      ((stackOf s k).state ≠ 1 ∨ due s k ch = false → exec (row k ch lanes) s = .next s)) ∧
  (∀ s pa first reread lanes again, inStack pa = true → (stackOf s (pa / stackBytes)).state = 1 →
    let k := pa / stackBytes
    let r := rowOf pa
    let ch := r / 2 ^ 18
    let heard := decodeBurst (chanOf s k ch).marked
    (heard first = some [] → exec (.burstRetry pa first reread lanes again) s = .next s) ∧
    (heard first = none → heard reread = some [] → exec (.burstRetry pa first reread lanes again) s = .next (bumpCounter s 2 1)) ∧
    (∀ l ls, heard first = some (l :: ls) ∨ heard first = none ∧ heard reread = some (l :: ls) → tget 0 (stackOf s k).rowCorr r < 3 →
      ∃ t, exec (.burstRetry pa first reread lanes again) s = .next t ∧ tget 0 (stackOf t k).rowCorr r = tget 0 (stackOf s k).rowCorr r + 1 ∧
        tget 0 t.mgmt.counters 2 = tget 0 s.mgmt.counters 2 + 1 ∧ (∀ x, x ∈ l :: ls → tget 0 (chanOf s k ch).corrections x < tget 0 (chanOf t k ch).corrections x) ∧
        t.mem.cells = s.mem.cells ∧ t.mem.bad = s.mem.bad) ∧
    (heard first = none → heard reread = none → lanes = 0 → llmDirty s (pa / 128) = false → dirtyLine s (pa / 128) = none →
      r ∉ (stackOf s k).deferred → (∀ c ∈ (chanOf s k ch).copies, c.1 ≠ r % 2 ^ 18) → tget 0 (stackOf s k).spares (r / 2 ^ 10) < 32 →
      ∃ t, exec (.burstRetry pa first reread lanes again) s = .next t ∧ tget false t.mem.bad (pa / 32) = true ∧
        (∀ b, b ≠ pa / 32 → tget false t.mem.bad b = tget false s.mem.bad b) ∧ t.mem.badDue = s.mem.badDue ++ [(pa / 32, [])] ∧
        (chanOf t k ch).testDue = true ∧ r ∈ (stackOf t k).remapped ∧ (stackOf t k).soft = (stackOf s k).soft + 1 ∧
        tget 0 (stackOf t k).spares (r / 2 ^ 10) = tget 0 (stackOf s k).spares (r / 2 ^ 10) + 1 ∧
        (chanOf t k ch).copies = (chanOf s k ch).copies ++ [(r % 2 ^ 18, 0)] ∧ t.mem.cells = s.mem.cells)) ∧
  (∀ s k ch lane x, (stackOf s k).state = 1 → laneCarries (chanOf s k ch) lane = some x → (chanOf s k ch).marked.testBit x = false →
    ∃ t, exec (.laneLossOfLock k ch lane) s = .next t ∧ others s t k ch ∧
      chanOf t k ch = { chanOf s k ch with marked := (chanOf s k ch).marked ||| 2 ^ x } ∧
      ((chanOf s k ch).marked ≠ 0 → (stackOf t k).lost = some 2) ∧
      ((stackOf s k).lockCue = s.clk.cue → ch ∉ (stackOf s k).lock → 16 ≤ (stackOf s k).lock.length → (stackOf t k).lost.isSome = true) ∧
      ((stackOf s k).lockCue ≠ s.clk.cue → (chanOf s k ch).marked = 0 → (stackOf t k).lost = (stackOf s k).lost) ∧
      (stackOf t k).state = 1 ∧ t.mem.cells = s.mem.cells ∧ t.clk = s.clk) ∧
  ∀ s k ch lane, (stackOf s k).state ≠ 1 → exec (.laneLossOfLock k ch lane) s = .next s

/-- R277, R302–R304, R317–R319: the house acts on an uncorrectable burst that has come up: the requesters that got no data are lost with
UNCORRECTABLE_MEMORY, and so is the context that owns the granule; a house granule has its partition reset, or is retired in a bay of
no partition. A failed stack is in STATE 2, every context with a granule on it is lost, and no cache keeps a line of it. A walk that
finds a leaf caches it for its stream, and an engine unit's also in its tile's walker; one that does not caches nothing. -/
def Obligations.FailingMemoryLosesItsOwners : Prop :=
  let lost := fun (s t : State) (c : Nat) => c ≠ 0 → (ctxOf s c).st = .live → (ctxOf s c).fault = none →
    ∃ f, (ctxOf t c).fault = some f ∧ f.status = 0x0103
  (∀ s pa cs, (pa / 32, cs) ∈ s.mem.badDue →
    let e := ownerEntry s (32 * (pa / 32))
    ∃ t, exec (.uncorrectableBurst pa) s = .next t ∧ t.mem.badDue = s.mem.badDue.filter (fun x => x.1 != pa / 32) ∧
      (∀ x ∈ cs, lost s t x.1) ∧
      (bits e 14 13 = 1 → bits e 11 0 ≠ 0 → lost s t (bits e 11 0)) ∧
      (∀ p, bits e 14 13 = 1 → bits e 11 0 = 0 → bayPart s (homeHub (32 * (pa / 32))) = some p →
        (partOf t p).resetCause = some ((partOf s p).resetCause.getD 3)) ∧
      (bits e 14 13 = 1 → bits e 11 0 = 0 → bayPart s (homeHub (32 * (pa / 32))) = none →
        tget 0 t.mem.owner (32 * (pa / 32) / 0x200000) = 0x4000) ∧
      t.mem.cells = s.mem.cells ∧ t.mem.bad = s.mem.bad ∧ t.clk = s.clk ∧ t.queues = s.queues) ∧
  (∀ s pa, (∀ x ∈ s.mem.badDue, x.1 ≠ pa / 32) → exec (.uncorrectableBurst pa) s = .next s) ∧
  (∀ s k, k < 16 → (stackOf s k).state ≠ 2 →
    ∃ t, exec (.stackFailure k) s = .next t ∧ (stackOf t k).state = 2 ∧ (stackOf t k).lost = none ∧
      (∀ j, j ≠ k → stackOf t j = stackOf s j) ∧
      (∀ g, g * 0x200000 < 0xC000000000 → g * 0x200000 / 0xC00000000 = k → bits (tget 0 s.mem.owner g) 14 13 = 1 → lost s t (bits (tget 0 s.mem.owner g) 11 0)) ∧
      (∀ l, 128 * l < 0xC000000000 → 128 * l / 0xC00000000 = k → dirOf t l = {} ∧ ∀ x, ∀ y ∈ tget [] t.coh.l2 x, y.line ≠ l) ∧
      t.mem.cells = s.mem.cells ∧ t.clk = s.clk ∧ t.net = s.net ∧ t.eng = s.eng) ∧
  (∀ s k, (stackOf s k).state = 2 → exec (.stackFailure k) s = .next s) ∧
  ∀ s stream c va, c ≠ 0 → (ctxOf s c).st = .live →
    (∀ w big, walk s (ctxOf s c).root va = some (w, big) → 0 < tlbRoom stream →
      let level := if big then 2 else 1
      let e : Tlb := { stream, ctx := c, level, page := va / 2 ^ (3 + 13 * level), word := w }
      ∃ t, exec (.tableWalk stream c va) s = .next t ∧ e ∈ t.mem.tlb ∧ (stream < 2016 → { e with stream := 2152 + stream / 28 } ∈ t.mem.tlb) ∧
        t.mem.tlb.filter (fun x => x.stream != stream && decide (x.stream < 2152)) = s.mem.tlb.filter (fun x => x.stream != stream && decide (x.stream < 2152)) ∧
        (t.mem.tlb.filter (fun x => x.stream == stream)).length ≤ tlbRoom stream ∧
        t = { s with mem := { s.mem with tlb := t.mem.tlb } }) ∧
    (walk s (ctxOf s c).root va = none → exec (.tableWalk stream c va) s = .next s)

/-- R405, R406, R408, R410, R412–R414, R426, R441, R465: a link that begins bring-up is held down by its control register, stays down with
its hub or in limp mode, waits in quarantine without an own certificate, and otherwise trains, counted, under a new ATTEMPT; no other
link changes but in its pod-time role. A retrain, a link that goes down, 16 retries of one frame in succession, the retry of a
quarantined link, and a write of LINK_CTL that retrains or changes how the link is held begin it. LINK_CTL takes the jack's writes only. -/
def Obligations.LinksBeginBringUp : Prop :=
  let begun := fun (s t : State) (l : Nat) =>
    let x := linkOf s l
    let y := linkOf t l
    y.ctl = x.ctl ∧ y.gen = 0 ∧ y.partner = 0 ∧ y.partnerLink = 0 ∧ y.heard = none ∧ y.retries = 0 ∧
    (linkHeld x.ctl = true → y.state = 7) ∧
    (linkHeld x.ctl = false → s.sec.limp = true ∨ hubIsUp s (l / 6) = false → y.state = 0) ∧
    (linkHeld x.ctl = false → s.sec.limp = false → hubIsUp s (l / 6) = true →
      y.retrains = min 65535 (x.retrains + 1) ∧ y.hand.attempt = (x.hand.attempt + 1) % 2 ^ 32 ∧ y.hand.since = beat s ∧
      (linkMode l x.ctl = 0 ∧ s.sec.cert = none → y.state = 3 ∧ y.reason = 1) ∧
      (¬ (linkMode l x.ctl = 0 ∧ s.sec.cert = none) → y.state = 1 ∧ y.hand.stage = 1)) ∧
    (∀ k, k ≠ l → linkOf t k = { linkOf s k with timeRole := (linkOf t k).timeRole }) ∧ t = { s with net := t.net, pow := t.pow }
  (∀ s l, ∃ t, exec (.linkRetrain l) s = .next t ∧ begun s t l) ∧
  (∀ s l, ((linkOf s l).state = 4 → ∃ t, exec (.tenonLinkDown l) s = .next t ∧ begun s t l) ∧
    ((linkOf s l).state ≠ 4 → exec (.tenonLinkDown l) s = .next s)) ∧
  (∀ s l, ((linkOf s l).state = 6 → ∃ t, exec (.ethernetLinkDown l) s = .next t ∧ begun s t l) ∧
    ((linkOf s l).state ≠ 6 → exec (.ethernetLinkDown l) s = .next s)) ∧
  (∀ s l rate, (linkOf s l).state = 1 → linkMode l (linkOf s l).ctl = 1 → (rate = 200 ∨ (rate = 400 ∧ bit (linkOf s l).ctl 54 = false)) →
    exec (.ethernetLinkUp l rate) s = .next (modLink s l (fun x => { x with state := 6, hand := { x.hand with stage := 0 } }))) ∧
  (∀ s l q, (linkOf s l).state = 4 →
    let n := if (linkOf s l).retries ≠ 0 ∧ (linkOf s l).frame = q then (linkOf s l).retries + 1 else 1
    (n < 16 → exec (.frameRetry l q) s = .next (modLink s l (fun x => { x with frame := q, retries := n }))) ∧
    (16 ≤ n → ∃ t, exec (.frameRetry l q) s = .next t ∧ begun s t l)) ∧
  (∀ s l, l < 48 → (linkOf s l).state = 3 →
    ((linkOf s l).hand.retryDue = true → ∃ t, exec (.quarantineRetry l) s = .next t ∧ begun s t l) ∧
    ((linkOf s l).hand.retryDue = false → exec (.quarantineRetry l) s = .next s)) ∧
  (∀ s l v, exec (.linkCtlWrite .eth l v) s = .next (writeLinkCtl s l v) ∧
    let w := v &&& 0xFFC0FFFF00000000
    let s1 := modLink s l (fun x => { x with ctl := w })
    let again := bit v 53 = true ∨ linkHeld w ≠ linkHeld (linkOf s l).ctl ∨ linkMode l w ≠ linkMode l (linkOf s l).ctl
    (again → begun s1 (writeLinkCtl s l v) l) ∧
    (¬ again → linkOf (writeLinkCtl s l v) l = { linkOf s l with ctl := w, timeRole := (linkOf (writeLinkCtl s l v) l).timeRole })) ∧
  ∀ s p l v, exec (.linkCtlWrite (.port p) l v) s = .next s

/-- R407–R413, R426, R470, R476: a trained PHY sends CAPS, or closes its loop. CAPS resolve the roles: equal fixed roles quarantine the
link, a clear role goes on to generation 2 or to HELLO. A HELLO whose certificate passes is kept with its nonce, and the initiator
signs its PROOF with one index; a failing one is refused and quarantined with its reason, nothing being signed. A PROOF that verifies
makes the initiator active, and the responder after its own PROOF. REFUSE and an unanswered step quarantine the link. A reservation of
signature indices gives a block of 4,096. -/
def Obligations.PartnersAuthenticateOnEveryBringUp : Prop :=
  let told := fun (s t : State) (l msg : Nat) (body : List Byte) =>
    (linkOf t l).ctlOut = (linkOf s l).ctlOut ++ fragments (linkOf s l).hand.attempt msg body
  let quarantined := fun (s t : State) (l reason : Nat) (tell : Bool) => (linkOf t l).state = 3 ∧ (linkOf t l).reason = reason ∧
    (linkOf t l).gen = 0 ∧ (linkOf t l).partner = 0 ∧ (linkOf t l).hand.stage = 0 ∧ t.sec.left = s.sec.left ∧
    (if tell = true then told s t l 4 (leBytes 8 reason) else (linkOf t l).ctlOut = (linkOf s l).ctlOut)
  let greeted := fun (s t : State) (l : Nat) => (linkOf t l).state = 2 ∧ (linkOf t l).hand.stage = 4 ∧ (linkOf t l).hand.since = beat s ∧
    (linkOf t l).hand.nonce = fixedBytes 32 (Config.random s.sec.draws) ∧
    told s t l 2 (s.sec.cert.getD [] ++ fixedBytes 32 (Config.random s.sec.draws))
  (∀ s l, l < 48 → (linkOf s l).state = 1 → (linkOf s l).hand.stage = 1 →
    let ctl := (linkOf s l).ctl
    let draw := if linkRole ctl = 0 then leNat (fixedBytes 8 (Config.random s.sec.draws)) else 0
    (linkMode l ctl = 0 → ∃ t, exec (.phyTrained l true) s = .next t ∧ (linkOf t l).state = 1 ∧ (linkOf t l).gen = 1 ∧
      (linkOf t l).hand.stage = 2 ∧ told s t l 1 (capsBody l ctl draw)) ∧
    (linkMode l ctl = 2 → ∃ t, exec (.phyTrained l true) s = .next t ∧ t = { s with net := { s.net with links := t.net.links } } ∧
      (linkOf t l).state = 5 ∧ (linkOf t l).gen = linkMaxGen ctl ∧ (linkOf t l).partner = s.net.gid)) ∧
  (∀ s l, l < 48 → (linkOf s l).state = 1 → (linkOf s l).hand.stage = 3 →
    (∃ t, exec (.phyTrained l true) s = .next t ∧ greeted s t l ∧ (linkOf t l).gen = 2) ∧
    ((linkOf s l).gen2Fails < 2 → exec (.phyTrained l false) s = .next (modLink s l (fun x => { x with gen2Fails := x.gen2Fails + 1 }))) ∧
    (2 ≤ (linkOf s l).gen2Fails → ∃ t, exec (.phyTrained l false) s = .next t ∧ greeted s t l ∧ (linkOf t l).gen = 1)) ∧
  (∀ s l a body, l < 48 → (linkOf s l).state = 1 → (linkOf s l).hand.stage = 2 → body.length = 16 →
    (body.getD 0 0 = 1 ∨ body.getD 0 0 = 2) → (body.getD 1 0).toNat < 3 → linkMode l (linkOf s l).ctl = 0 → linkHeld (linkOf s l).ctl = false →
    s.sec.cert.isSome = true → s.sec.limp = false →
    let mine := linkRole (linkOf s l).ctl
    let theirs := (body.getD 1 0).toNat
    let their := leNat ((body.drop 8).take 8)
    let both := linkMaxGen (linkOf s l).ctl = 2 ∧ body.getD 0 0 = 2
    ((mine = 1 ∧ theirs = 1) ∨ (mine = 2 ∧ theirs = 2) → ∃ t, exec (.caps l a body) s = .next t ∧ quarantined s t l 0x0A true) ∧
    (∀ ini, (ini = true ∧ ((mine = 1 ∧ theirs ≠ 1) ∨ (mine = 0 ∧ theirs = 2) ∨ (mine = 0 ∧ theirs = 0 ∧ their < (linkOf s l).draw.toNat))) ∨
        (ini = false ∧ ((mine = 2 ∧ theirs ≠ 2) ∨ (mine = 0 ∧ theirs = 1) ∨ (mine = 0 ∧ theirs = 0 ∧ (linkOf s l).draw.toNat < their))) →
      ∃ t, exec (.caps l a body) s = .next t ∧ (linkOf t l).initiator = ini ∧ (linkOf t l).partnerLink = (body.getD 2 0).toNat ∧
        (linkOf t l).hand.partnerAttempt = a ∧ (both → (linkOf t l).hand.stage = 3 ∧ (linkOf t l).hand.since = beat s) ∧
        (¬ both → greeted s t l))) ∧
  (∀ s l a body, l < 48 → (linkOf s l).state = 2 → (linkOf s l).hand.stage = 4 → (linkOf s l).hand.partnerAttempt = a →
    let r := if body.length ≠ 2980 then 0x02 else checkPartner s l (body.take 2948)
    (r ≠ 0 → ∃ t, exec (.hello l a body) s = .next t ∧ quarantined s t l r true) ∧
    (r = 0 → (linkOf s l).initiator = false → ∃ t, exec (.hello l a body) s = .next t ∧ (linkOf t l).hand.stage = 5 ∧
      (linkOf t l).hand.cert = body.take 2948 ∧ (linkOf t l).hand.partnerNonce = body.drop 2948 ∧ t.sec = s.sec ∧
      (linkOf t l).ctlOut = (linkOf s l).ctlOut) ∧
    (r = 0 → (linkOf s l).initiator = true → s.sec.left ≠ 0 → ∃ t, exec (.hello l a body) s = .next t ∧ (linkOf t l).hand.stage = 5 ∧
      (linkOf t l).hand.cert = body.take 2948 ∧ (linkOf t l).hand.proved = true ∧ t.sec = { s.sec with left := s.sec.left - 1, next := s.sec.next + 1 } ∧
      told s t l 3 (sign s.sec.next (proofMessage t l true)))) ∧
  (∀ s l a body, l < 48 → (linkOf s l).state = 2 → (linkOf s l).hand.stage = 5 → (linkOf s l).hand.partnerAttempt = a →
    let ini := (linkOf s l).initiator
    let cert := (linkOf s l).hand.cert
    let ok := Config.xmssmtVerify (certField cert 16 68) (proofMessage s l (!ini)) body = true
    (ini = true → (linkOf s l).hand.proved = true → ok → ∃ t, exec (.proof l a body) s = .next t ∧ (linkOf t l).state = 4 ∧
      (linkOf t l).partner = certGid cert ∧ (linkOf t l).hand.stage = 0 ∧ t.sec = s.sec) ∧
    (ini = false → (linkOf s l).hand.owes = false → ok → s.sec.left ≠ 0 → ∃ t, exec (.proof l a body) s = .next t ∧ (linkOf t l).state = 4 ∧
      (linkOf t l).partner = certGid cert ∧ t.sec = { s.sec with left := s.sec.left - 1, next := s.sec.next + 1 } ∧
      told s t l 3 (sign s.sec.next (proofMessage s l false))) ∧
    ((ini = true → (linkOf s l).hand.proved = true) → (ini = false → (linkOf s l).hand.owes = false) → ¬ ok →
      ∃ t, exec (.proof l a body) s = .next t ∧ quarantined s t l 0x07 true)) ∧
  (∀ s l a body, l < 48 → body.length = 8 → 2 ≤ (linkOf s l).hand.stage → (linkOf s l).hand.partnerAttempt = a →
    ∃ t, exec (.refuse l a body) s = .next t ∧ quarantined s t l (body.getD 0 0).toNat false) ∧
  (∀ s l, l < 48 → (linkOf s l).hand.stage ≠ 0 → (linkOf s l).hand.owes = false → (linkOf s l).hand.since + 4096 ≤ beat s →
    linkMode l (linkOf s l).ctl = 0 → ∃ t, exec (.timeout l) s = .next t ∧ quarantined s t l 0x09 (decide (2 ≤ (linkOf s l).hand.stage))) ∧
  (∀ s l, l < 48 → beat s < (linkOf s l).hand.since + 4096 → exec (.timeout l) s = .next s) ∧
  (∀ s, s.sec.left = 0 → s.sec.limp = false → s.sec.retryIndex = false → 3 ≤ s.mgmt.phase →
    (∃ t, exec (.sigIndexReserve true) s = .next t ∧ t.sec.next + t.sec.left = nextBlock s + 4096 ∧ t.sec.sigFlash = some ((nextBlock s + 4096) % 2 ^ 40) ∧
      (owingEnds s = [] → t.sec.left = 4096)) ∧
    (owingEnds s = [] → exec (.sigIndexReserve false) s = .next (modSec s (fun x => { x with retryIndex := true })))) ∧
  ∀ s stored, s.sec.left ≠ 0 → exec (.sigIndexReserve stored) s = .next s

/-- R419: a packet that leaves is sent on a link that is active or in loopback, dropped with step 8 on a link in any other state, on an
Ethernet link whose peer table lacks its GID or whose peer is not authenticated, and for the entry 0xFF; for 0xFE it is received
locally under R328. -/
def Obligations.RouteEntriesDecideWhatLeaves : Prop :=
  let dropped := fun (s t : State) (p : Packet) => ∃ e, tget (0, 0) t.net.dropLog (s.net.drops % 256) = e ∧ bits e.1 63 60 = 8 ∧
    bits e.1 23 0 = hDst p.1 ∧ bits e.1 47 24 = hSrc p.1 ∧ t.net.drops = (s.net.drops + 1) % 2 ^ 32 ∧ t.net.links = s.net.links ∧
    t.net.eth = s.net.eth ∧ t.net.peers = s.net.peers ∧ t.mem = s.mem
  ∀ n s hub p sig,
    let t := sendPackets (n + 1) s hub [(p, sig)]
    let r := routeOf s hub (hDst p.1)
    (r < 48 → (linkOf s r).state = 4 ∨ (linkOf s r).state = 5 → ∃ rest, (linkOf t r).out = (linkOf s r).out ++ p :: rest) ∧
    (r < 48 → (linkOf s r).state ≠ 4 → (linkOf s r).state ≠ 5 → (linkOf s r).state ≠ 6 → dropped s t p) ∧
    (r < 48 → (linkOf s r).state = 6 → (∀ kv ∈ s.net.peers, kv.1 / 1024 = r → kv.2.valid = true → kv.2.gid = hDst p.1 → kv.2.auth = false) → dropped s t p) ∧
    (r < 48 → (linkOf s r).state = 6 → ∀ k, peerFor s r (hDst p.1) = some k → (peerOf t k).tx = ((peerOf s k).tx + 1) % 2 ^ 32 ∧
      ∃ w, (peerOf t k).unacked = (peerOf s k).unacked ++ [(w :: p.1, p.2)]) ∧
    (r = 0xFE → t = let o := takePacket (cacheRoute s hub (hDst p.1)) hub p sig
      sendPackets n o.1 hub (o.2.map (fun y => (y, false)))) ∧
    (r = 0xFF → dropped s t p)

/-- R302, R328, R412, R415, R416, R420–R423: on an active link a packet of this device is taken, on a quarantined one it is discarded and
counted. A WRITE that passes R328 writes exactly its bytes and counts; one that fails is logged with its step and writes nothing. A
READ_REQ is answered by READ_RESP packets with the bytes, a SIGNAL raises its fence word only when every packet was accepted. An ACK
ends its transfer, a short one being logged with step 10, and so does the time limit with step 9. A READ_RESP gives a waiting core its
bytes. A packet for another device is forwarded with TTL lowered, or dropped with step 8 at TTL 0. -/
def Obligations.PacketsOfTheLinksAreTaken : Prop :=
  let mine := fun (ty l : Nat) (h : List W64) (s : State) => hType h = ty ∧ (linkOf s l).state = 4 ∧ hDst h = s.net.gid
  let logged := fun (s t : State) (step : Nat) => bits (tget (0, 0) t.net.dropLog (s.net.drops % 256)).1 63 60 = step ∧
    t.net.drops = (s.net.drops + 1) % 2 ^ 32
  (∀ (row : Nat → List W64 → List Byte → Instr) (ty : Nat),
    (row, ty) ∈ [(fun l h p => Instr.write l h p false, 0), (fun l h p => Instr.write l h p true, 0), (Instr.readReq, 1), (Instr.readResp, 2), (Instr.signal, 3), (Instr.ack, 4)] →
    ∀ s l h p,
      (hType h ≠ ty → exec (row l h p) s = .next s) ∧
      (hType h = ty → (linkOf s l).state = 3 → exec (row l h p) s = .next (bumpCounter s 5 1)) ∧
      (hType h = ty → (linkOf s l).state ≠ 3 → (linkOf s l).state ≠ 4 → exec (row l h p) s = .next s) ∧
      (hType h = ty → (linkOf s l).state = 4 → hDst h ≠ s.net.gid → hTtl h = 0 →
        ∃ t, exec (row l h p) s = .next t ∧ logged s t 8 ∧ t = { s with net := t.net }) ∧
      (hType h = ty → (linkOf s l).state = 4 → hDst h ≠ s.net.gid → hTtl h ≠ 0 → routeOf s (l / 6) (hDst h) < 48 →
        (linkOf s (routeOf s (l / 6) (hDst h))).state = 4 → h ≠ [] →
        ∃ t w, exec (row l h p) s = .next t ∧ t = { s with net := t.net } ∧ hTtl (w :: h.drop 1) = hTtl h - 1 ∧ hDst (w :: h.drop 1) = hDst h ∧
          (linkOf t (routeOf s (l / 6) (hDst h))).out = (linkOf s (routeOf s (l / 6) (hDst h))).out ++ [(w :: h.drop 1, p)])) ∧
  (∀ s l h p pa, mine 0 l h s → hLast h = false → (rxOf s (hSrc h) (hXfer h) (l / 6)) = none → rxFull s (l / 6) = false → hLength h = p.length →
    windowCheck s (hSrc h) (hWindow h) (hOffset h) p.length (hEpoch h) 0 = .lands [(pa, p.length)] → badPartial s [(pa, p.length)] = none →
    (∀ n, dirOf s n = {}) → s.coh.queue = [] →
    ∃ t, exec (.write l h p false) s = .next t ∧
      (∀ b, readByte t b = if pa ≤ b ∧ b < pa + p.length then p.getD (b - pa) 0 else readByte s b) ∧
      t = { s with mem := { s.mem with cells := t.mem.cells, bad := t.mem.bad }, coh := t.coh, net := { s.net with rx := t.net.rx } } ∧
      ∃ r, rxOf t (hSrc h) (hXfer h) (l / 6) = some r ∧ r.accepted = 1 ∧ r.step = 0) ∧
  (∀ s l h p st, mine 0 l h s → hLast h = false → (rxOf s (hSrc h) (hXfer h) (l / 6)) = none → rxFull s (l / 6) = false → hLength h = p.length →
    windowCheck s (hSrc h) (hWindow h) (hOffset h) p.length (hEpoch h) 0 = .fails st → st < 16 →
    ∃ t, exec (.write l h p false) s = .next t ∧ logged s t st ∧ t = { s with net := t.net } ∧
      ∃ r, rxOf t (hSrc h) (hXfer h) (l / 6) = some r ∧ r.accepted = 0 ∧ r.step = st) ∧
  (∀ s l h p pas r, mine 1 l h s → 0 < hLength h → hLength h ≤ 4096 →
    windowCheck s (hSrc h) (hWindow h) (hOffset h) (hLength h) (hEpoch h) 1 = .lands pas → badPiece s pas = none →
    routeOf s (l / 6) (hSrc h) = r → r < 48 → (linkOf s r).state = 4 →
    ∃ t, exec (.readReq l h p) s = .next t ∧ t = { s with net := { s.net with links := t.net.links, routeCache := t.net.routeCache } } ∧
      (linkOf t r).out = (linkOf s r).out ++ readResponses s.net.gid h (readPieces s pas) ∧ ∀ k, k ≠ r → linkOf t k = linkOf s k) ∧
  (∀ s l h p pa n, mine 3 l h s → (rxOf s (hSrc h) (hXfer h) (l / 6)) = some n →
    windowCheck s (hSrc h) (hWindow h) (hOffset h) 8 (hEpoch h) 2 = .lands [(pa, 8)] → badPiece s [(pa, 8)] = none → (∀ n, dirOf s n = {}) → s.coh.queue = [] →
    routeOf s (l / 6) (hSrc h) < 48 → (linkOf s (routeOf s (l / 6) (hSrc h))).state = 4 →
    let v := leNat (p.take 8)
    let old := (readWord s pa).toNat
    ∃ t, exec (.signal l h p) s = .next t ∧ rxOf t (hSrc h) (hXfer h) (l / 6) = none ∧
      readWord t pa = (if n.accepted = hSeq h ∧ n.step = 0 ∧ old < v then BitVec.ofNat 64 v else readWord s pa) ∧
      (∀ b, b < pa ∨ pa + 8 ≤ b → readByte t b = readByte s b)) ∧
  (∀ s l h p, mine 4 l h s → (xferOf s (hXfer h)).used = true → (xferOf s (hXfer h)).get = false → (xferOf s (hXfer h)).gid = hSrc h →
    ∃ t, exec (.ack l h p) s = .next t ∧ (xferOf t (hXfer h)).used = false ∧ t.mem = s.mem ∧ t.ctxs = s.ctxs ∧
      (hSeq h < (xferOf s (hXfer h)).sent → logged s t 10) ∧ ((xferOf s (hXfer h)).sent ≤ hSeq h → t.net.drops = s.net.drops)) ∧
  (∀ s l h p, mine 2 l h s → (xferOf s (hXfer h)).used = true → (xferOf s (hXfer h)).get = true → (xferOf s (hXfer h)).kind = 2 →
    hStep h = 0 → hOffset h = (xferOf s (hXfer h)).offset → p.length = (xferOf s (hXfer h)).len → hLength h = p.length → 0 < p.length →
    (xferOf s (hXfer h)).got = 0 → (xferOf s (hXfer h)).step = 0 → (coreOf s (xferOf s (hXfer h)).owner.1).arrived = none →
    ∃ t, exec (.readResp l h p) s = .next t ∧ (xferOf t (hXfer h)).used = false ∧
      coreOf t (xferOf s (hXfer h)).owner.1 = { coreOf s (xferOf s (hXfer h)).owner.1 with arrived := some p, waiting := false } ∧
      (∀ c, c ≠ (xferOf s (hXfer h)).owner.1 → coreOf t c = coreOf s c) ∧ t.mem = s.mem) ∧
  (∀ s x, (xferOf s x).used = true → ((xferOf s x).waiting = true ∨ (xferOf s x).get = true) → (xferOf s x).started + 65536 ≤ beat s →
    ∃ t, exec (.ackTimeout x) s = .next t ∧ (xferOf t x).used = false ∧ logged s t 9 ∧ t.mem = s.mem ∧ t.ctxs = s.ctxs) ∧
  ∀ s x, beat s < (xferOf s x).started + 65536 → exec (.ackTimeout x) s = .next s

/-- R412, R432–R435: POD_TIME takes the jack's writes on the pod time master alone. At an announcement one ANNOUNCE leaves on each active
link that sends time, with t1 of a new round and t4 of the round before. An ANNOUNCE is heard; from the upstream it is answered with
one REPLY, and with t4 of the round before it gives the offset, stepped beyond 1 µs and slewed otherwise. A REPLY of the round in
progress gives t4. LOCKED clears after 1 ms without an exchange. -/
def Obligations.PodTimeFollowsItsMaster : Prop :=
  (∀ s ns, exec (.podTimeWrite .eth ns) s = .next (if s.net.master = true then { s with net := { s.net with podTime := ns, stepped := true } } else s)) ∧
  (∀ s p ns, exec (.podTimeWrite (.port p) ns) s = .next s) ∧
  (∀ s now, ∃ t, exec (.timeAnnouncement now) s = .next t ∧ t = { s with net := { s.net with podTime := now, links := t.net.links } } ∧
    ∀ l, l < 48 →
      let x := linkOf s l
      ((x.state = 4 ∧ x.timeRole = 1) → linkOf t l = { x with round := (x.round + 1) % 2 ^ 32, t1 := now, t4 := 0
                                                              out := x.out ++ [timePacket s l 0 ((x.round + 1) % 2 ^ 32) now x.t4] }) ∧
      (¬ (x.state = 4 ∧ x.timeRole = 1) → linkOf t l = x)) ∧
  (∀ s l h p a d, l < 48 → (linkOf s l).state = 4 → hType h = 5 → 40 ≤ p.length → p.getD 4 0 = 0 →
    let f := fun (off n : Nat) => leNat ((p.drop off).take n)
    ∃ t, exec (.announce l h p a d) s = .next t ∧ (linkOf t l).heard = some (f 0 3, f 3 1, (f 5 1).testBit 0, (f 5 1).testBit 1) ∧
      (∀ k, (linkOf t k).state = (linkOf s k).state ∧ (linkOf t k).ctl = (linkOf s k).ctl) ∧
      ((linkOf t l).timeRole ≠ 2 → (linkOf t l).out = (linkOf s l).out ∧ t.net.podTime = d ∧ t.net.offset = s.net.offset) ∧
      ((linkOf t l).timeRole = 2 → (linkOf t l).round = f 8 4 ∧ (linkOf t l).t1 = BitVec.ofNat 64 (f 16 8) ∧ (linkOf t l).t2 = a ∧
        (linkOf t l).t3 = d ∧ (linkOf t l).out = (linkOf s l).out ++ [timePacket t l 1 (f 8 4) d a] ∧
        let t4 : W64 := BitVec.ofNat 64 (f 24 8)
        let x := linkOf s l
        let off := roundOffset x.t1 x.t2 x.t3 t4 (signed 16 (bits x.ctl 47 32))
        (t4 ≠ 0 → (x.round + 1) % 2 ^ 32 = f 8 4 → x.t1 ≠ 0 → t.net.offset = max (-32768) (min 32767 off) ∧
          (1000 < off.natAbs → t.net.podTime = d - BitVec.ofInt 64 off ∧ t.net.stepped = true) ∧
          (off.natAbs ≤ 1000 → t.net.podTime = d ∧ t.net.slew = -off ∧ t.net.stepped = s.net.stepped)) ∧
        (t4 = 0 → t.net.podTime = d ∧ t.net.offset = s.net.offset)) ∧
      t = { s with net := t.net }) ∧
  (∀ s l h p a, (linkOf s l).state = 4 → hType h = 5 → 40 ≤ p.length → p.getD 4 0 = 1 →
    let f := fun (off n : Nat) => leNat ((p.drop off).take n)
    ((linkOf s l).timeRole = 1 → (linkOf s l).round = f 8 4 → exec (.reply l h p a) s = .next (modLink s l (fun x => { x with
      t4 := a, t2 := BitVec.ofNat 64 (f 24 8), t3 := BitVec.ofNat 64 (f 16 8) }))) ∧
    ((linkOf s l).timeRole ≠ 1 ∨ (linkOf s l).round ≠ f 8 4 → exec (.reply l h p a) s = .next s)) ∧
  (∀ s l h p a d, (linkOf s l).state = 3 → exec (.announce l h p a d) s = .next (bumpCounter s 5 1) ∧
    exec (.reply l h p a) s = .next (bumpCounter s 5 1)) ∧
  ∀ s, exec .lockLoss s = .next { s with net := { s.net with locked := false, good := 0 } }

/-- R302, R328, R426–R431: a datagram of an installed peer is acknowledged; the expected one advances the sequence, and before the peer is
authenticated its packet is dropped with step 8. The window is sent again, 16 times at most. An RDMA WRITE that passes R328 writes
exactly its bytes, an RDMA READ is answered with responses of one PMTU; one that fails puts its pair in error with a NAK, logged with
step 12; a packet marked ECN-CE has a CNP besides. ARP, neighbor solicitation and echo for the port's own addresses are answered. A PAUSE stops its priority until a time of 0. -/
def Obligations.EthernetPortsServeTheirPeers : Prop :=
  let logged := fun (s t : State) (step : Nat) => bits (tget (0, 0) t.net.dropLog (s.net.drops % 256)).1 63 60 = step ∧
    t.net.drops = (s.net.drops + 1) % 2 ^ 32
  let framed := fun (s : State) (port mac : Nat) (bs : List Byte) =>
    { s with net := { s.net with eth := tmod {} s.net.eth port (fun e => { e with out := e.out ++ [(mac, bs)] }) } }
  (∀ s port n w h p sig, port < 8 → n < 1024 → (linkOf s port).state = 6 → (peerOf s (1024 * port + n)).valid = true →
    (peerOf s (1024 * port + n)).unacked = [] → (peerOf s (1024 * port + n)).rx < 2 ^ 32 →
    let x := peerOf s (1024 * port + n)
    ((bits w 63 32 ≠ x.rx ∨ 5 ≤ hType h) → ∃ t, exec (.tenonDatagram port n w h p sig) s = .next t ∧
      t = { s with net := { s.net with eth := t.net.eth, peers := t.net.peers } } ∧
      peerOf t (1024 * port + n) = { x with rx := if bits w 63 32 = x.rx then (x.rx + 1) % 2 ^ 32 else x.rx } ∧
      ∃ b, (ethOf t port).out = (ethOf s port).out ++ [(x.mac, b)]) ∧
    (bits w 63 32 = x.rx → hType h < 5 → x.auth = false → ∃ t, exec (.tenonDatagram port n w h p sig) s = .next t ∧ logged s t 8 ∧
      (peerOf t (1024 * port + n)).rx = (x.rx + 1) % 2 ^ 32 ∧ t.mem = s.mem ∧ t.coh = s.coh) ∧
    (bits w 63 32 = x.rx → hType h < 5 → x.auth = true → ∃ t u, exec (.tenonDatagram port n w h p sig) s = .next t ∧
      t = arrive u (port / 6) (h, p) sig ∧ u = { s with net := { s.net with eth := u.net.eth, peers := u.net.peers } } ∧
      peerOf u (1024 * port + n) = { x with rx := (x.rx + 1) % 2 ^ 32 })) ∧
  (∀ s port n, (peerOf s (1024 * port + n)).valid = true → (peerOf s (1024 * port + n)).unacked ≠ [] → n < 1024 →
    let x := peerOf s (1024 * port + n)
    (x.retries < 16 → ∃ t, exec (.retransmission port n) s = .next t ∧ peerOf t (1024 * port + n) = { x with retries := x.retries + 1 } ∧
      (ethOf t port).out.length = (ethOf s port).out.length + min 256 x.unacked.length ∧
      t = { s with net := { s.net with eth := t.net.eth, peers := t.net.peers } }) ∧
    (16 ≤ x.retries → ∃ t, exec (.retransmission port n) s = .next t ∧ (peerOf t (1024 * port + n)).auth = false ∧
      (peerOf t (1024 * port + n)).unacked = [] ∧ (peerOf t (1024 * port + n)).valid = true ∧ t.mem = s.mem)) ∧
  (∀ s port qpn k, qpFor s port qpn = some k → (qpOf s k).error = false →
    let x := qpOf s k
    let noted := fun (ce : Bool) => if ce = true then x.out ++ [(5, [])] else x.out
    (∀ psn key va first last ce p pa, psn = x.epsn → x.epsn < 2 ^ 24 →
      let r := if first = true then key else x.rkey
      let off := if first = true then va else x.next
      bits r 19 16 = 0 → windowCheck s x.gid (bits r 31 20) off p.length (bits r 15 0) 0 = .lands [(pa, p.length)] →
      badPartial s [(pa, p.length)] = none → (∀ l, dirOf s l = {}) → s.coh.queue = [] →
      ∃ t, exec (.rdmaWrite port qpn psn key va first last ce p) s = .next t ∧
        (∀ b, readByte t b = if pa ≤ b ∧ b < pa + p.length then p.getD (b - pa) 0 else readByte s b) ∧
        qpOf t k = { x with epsn := (x.epsn + 1) % 2 ^ 24, next := off + p.length, rkey := r
                            out := if last = true then noted ce ++ [(0, [])] else noted ce } ∧ t.ctxs = s.ctxs) ∧
    (∀ psn key va last ce p, psn = x.epsn → x.epsn < 2 ^ 24 → bits key 19 16 ≠ 0 ∨ (∃ st, windowCheck s x.gid (bits key 31 20) va p.length (bits key 15 0) 0 = .fails st) →
      ∃ t, exec (.rdmaWrite port qpn psn key va true last ce p) s = .next t ∧ logged s t 12 ∧
        qpOf t k = { x with error := true, out := noted ce ++ [(1, [])] } ∧ t.mem = s.mem ∧ t.ctxs = s.ctxs) ∧
    (∀ psn key va n ce pas, psn = x.epsn → x.epsn < 2 ^ 24 → bits key 19 16 = 0 → 0 < n →
      windowCheck s x.gid (bits key 31 20) va n (bits key 15 0) 1 = .lands pas → badPiece s pas = none →
      let unit := 1024 * 2 ^ min x.pmtu 2
      let c := (n + unit - 1) / unit
      ∃ t, exec (.rdmaReadRequest port qpn psn key va n ce) s = .next t ∧ t = { s with net := { s.net with qps := t.net.qps } } ∧
        qpOf t k = { x with epsn := (x.epsn + c) % 2 ^ 24
                            out := noted ce ++ (upFrom 0 c).map (fun i => (3, ((readPieces s pas).drop (unit * i)).take unit)) }) ∧
    (∀ psn key va n ce, psn = x.epsn → x.epsn < 2 ^ 24 → bits key 19 16 ≠ 0 → ∃ t, exec (.rdmaReadRequest port qpn psn key va n ce) s = .next t ∧
      logged s t 12 ∧ qpOf t k = { x with error := true, out := noted ce ++ [(1, [])] } ∧ t.mem = s.mem)) ∧
  (∀ s port qpn, qpFor s port qpn = none → (∀ psn key va first last ce p, exec (.rdmaWrite port qpn psn key va first last ce p) s = .next s) ∧
    ∀ psn key va n ce, exec (.rdmaReadRequest port qpn psn key va n ce) s = .next s) ∧
  (∀ s port ip, (linkOf s port).state = 6 → ip ≠ 0 →
    (ip = ownIpv4 s port → exec (.arpRequest port ip) s = .next (framed s port 0 (leBytes 6 (ownMac s port) ++ leBytes 4 ip))) ∧
    (ip ≠ ownIpv4 s port → exec (.arpRequest port ip) s = .next s) ∧
    (ip = ownIpv6 s port → exec (.neighborSolicitation port ip) s = .next (framed s port 0 (leBytes 6 (ownMac s port) ++ leBytes 16 ip))) ∧
    (ip ≠ ownIpv6 s port → exec (.neighborSolicitation port ip) s = .next s) ∧
    ∀ data, (ip = ownIpv6 s port → exec (.echoRequest port ip data) s = .next (framed s port 0 data)) ∧
      (ip ≠ ownIpv6 s port → ip < 0xFFFF * 2 ^ 32 → exec (.echoRequest port ip data) s = .next s)) ∧
  ∀ s port prio quanta, prio < 8 → (linkOf s port).state = 6 →
    ∃ t, exec (.pause port prio quanta) s = .next t ∧ t = { s with net := { s.net with eth := t.net.eth } } ∧
      (∀ o, o ≠ port → ethOf t o = ethOf s o) ∧
      ∀ i, (ethOf t port).paused.testBit i = if i = prio then decide (quanta ≠ 0) else (ethOf s port).paused.testBit i
end

