-- ==== Sys2Proof/Laws/State.lean ====
section
/-! SUPPORT. What each named update of the state leaves as it was, field by field, so that no proof unfolds a record update. -/

namespace Sys2Proof.Machine

variable (s : State)

@[simp] theorem setPart_clk (p : Nat) (v : Partition) : (setPart s p v).clk = s.clk := rfl
@[simp] theorem setPart_pow (p : Nat) (v : Partition) : (setPart s p v).pow = s.pow := rfl
@[simp] theorem setPart_panel (p : Nat) (v : Partition) : (setPart s p v).panel = s.panel := rfl
@[simp] theorem setPart_ctxs (p : Nat) (v : Partition) : (setPart s p v).ctxs = s.ctxs := rfl
@[simp] theorem setPart_queues (p : Nat) (v : Partition) : (setPart s p v).queues = s.queues := rfl
@[simp] theorem setPart_objs (p : Nat) (v : Partition) : (setPart s p v).objs = s.objs := rfl
@[simp] theorem setPart_ports (p : Nat) (v : Partition) : (setPart s p v).ports = s.ports := rfl
@[simp] theorem setPart_mem (p : Nat) (v : Partition) : (setPart s p v).mem = s.mem := rfl
@[simp] theorem setPart_coh (p : Nat) (v : Partition) : (setPart s p v).coh = s.coh := rfl
@[simp] theorem setPart_eng (p : Nat) (v : Partition) : (setPart s p v).eng = s.eng := rfl
@[simp] theorem setPart_cores (p : Nat) (v : Partition) : (setPart s p v).cores = s.cores := rfl
@[simp] theorem setPart_net (p : Nat) (v : Partition) : (setPart s p v).net = s.net := rfl
@[simp] theorem setPart_sec (p : Nat) (v : Partition) : (setPart s p v).sec = s.sec := rfl
@[simp] theorem setPart_mgmt (p : Nat) (v : Partition) : (setPart s p v).mgmt = s.mgmt := rfl
@[simp] theorem setPart_pending (p : Nat) (v : Partition) : (setPart s p v).pending = s.pending := rfl

@[simp] theorem modPart_clk (p : Nat) (f : Partition → Partition) : (modPart s p f).clk = s.clk := rfl
@[simp] theorem modPart_pow (p : Nat) (f : Partition → Partition) : (modPart s p f).pow = s.pow := rfl
@[simp] theorem modPart_panel (p : Nat) (f : Partition → Partition) : (modPart s p f).panel = s.panel := rfl
@[simp] theorem modPart_ctxs (p : Nat) (f : Partition → Partition) : (modPart s p f).ctxs = s.ctxs := rfl
@[simp] theorem modPart_queues (p : Nat) (f : Partition → Partition) : (modPart s p f).queues = s.queues := rfl
@[simp] theorem modPart_objs (p : Nat) (f : Partition → Partition) : (modPart s p f).objs = s.objs := rfl
@[simp] theorem modPart_ports (p : Nat) (f : Partition → Partition) : (modPart s p f).ports = s.ports := rfl
@[simp] theorem modPart_mem (p : Nat) (f : Partition → Partition) : (modPart s p f).mem = s.mem := rfl
@[simp] theorem modPart_coh (p : Nat) (f : Partition → Partition) : (modPart s p f).coh = s.coh := rfl
@[simp] theorem modPart_eng (p : Nat) (f : Partition → Partition) : (modPart s p f).eng = s.eng := rfl
@[simp] theorem modPart_cores (p : Nat) (f : Partition → Partition) : (modPart s p f).cores = s.cores := rfl
@[simp] theorem modPart_net (p : Nat) (f : Partition → Partition) : (modPart s p f).net = s.net := rfl
@[simp] theorem modPart_sec (p : Nat) (f : Partition → Partition) : (modPart s p f).sec = s.sec := rfl
@[simp] theorem modPart_mgmt (p : Nat) (f : Partition → Partition) : (modPart s p f).mgmt = s.mgmt := rfl
@[simp] theorem modPart_pending (p : Nat) (f : Partition → Partition) : (modPart s p f).pending = s.pending := rfl

@[simp] theorem modOrder_clk (p : Nat) (f : Order → Order) : (modOrder s p f).clk = s.clk := rfl
@[simp] theorem modOrder_pow (p : Nat) (f : Order → Order) : (modOrder s p f).pow = s.pow := rfl
@[simp] theorem modOrder_panel (p : Nat) (f : Order → Order) : (modOrder s p f).panel = s.panel := rfl
@[simp] theorem modOrder_ctxs (p : Nat) (f : Order → Order) : (modOrder s p f).ctxs = s.ctxs := rfl
@[simp] theorem modOrder_queues (p : Nat) (f : Order → Order) : (modOrder s p f).queues = s.queues := rfl
@[simp] theorem modOrder_objs (p : Nat) (f : Order → Order) : (modOrder s p f).objs = s.objs := rfl
@[simp] theorem modOrder_ports (p : Nat) (f : Order → Order) : (modOrder s p f).ports = s.ports := rfl
@[simp] theorem modOrder_mem (p : Nat) (f : Order → Order) : (modOrder s p f).mem = s.mem := rfl
@[simp] theorem modOrder_coh (p : Nat) (f : Order → Order) : (modOrder s p f).coh = s.coh := rfl
@[simp] theorem modOrder_eng (p : Nat) (f : Order → Order) : (modOrder s p f).eng = s.eng := rfl
@[simp] theorem modOrder_cores (p : Nat) (f : Order → Order) : (modOrder s p f).cores = s.cores := rfl
@[simp] theorem modOrder_net (p : Nat) (f : Order → Order) : (modOrder s p f).net = s.net := rfl
@[simp] theorem modOrder_sec (p : Nat) (f : Order → Order) : (modOrder s p f).sec = s.sec := rfl
@[simp] theorem modOrder_mgmt (p : Nat) (f : Order → Order) : (modOrder s p f).mgmt = s.mgmt := rfl
@[simp] theorem modOrder_pending (p : Nat) (f : Order → Order) : (modOrder s p f).pending = s.pending := rfl

@[simp] theorem setCtx_clk (c : Nat) (v : Context) : (setCtx s c v).clk = s.clk := rfl
@[simp] theorem setCtx_pow (c : Nat) (v : Context) : (setCtx s c v).pow = s.pow := rfl
@[simp] theorem setCtx_panel (c : Nat) (v : Context) : (setCtx s c v).panel = s.panel := rfl
@[simp] theorem setCtx_parts (c : Nat) (v : Context) : (setCtx s c v).parts = s.parts := rfl
@[simp] theorem setCtx_queues (c : Nat) (v : Context) : (setCtx s c v).queues = s.queues := rfl
@[simp] theorem setCtx_objs (c : Nat) (v : Context) : (setCtx s c v).objs = s.objs := rfl
@[simp] theorem setCtx_ports (c : Nat) (v : Context) : (setCtx s c v).ports = s.ports := rfl
@[simp] theorem setCtx_mem (c : Nat) (v : Context) : (setCtx s c v).mem = s.mem := rfl
@[simp] theorem setCtx_coh (c : Nat) (v : Context) : (setCtx s c v).coh = s.coh := rfl
@[simp] theorem setCtx_eng (c : Nat) (v : Context) : (setCtx s c v).eng = s.eng := rfl
@[simp] theorem setCtx_cores (c : Nat) (v : Context) : (setCtx s c v).cores = s.cores := rfl
@[simp] theorem setCtx_net (c : Nat) (v : Context) : (setCtx s c v).net = s.net := rfl
@[simp] theorem setCtx_sec (c : Nat) (v : Context) : (setCtx s c v).sec = s.sec := rfl
@[simp] theorem setCtx_mgmt (c : Nat) (v : Context) : (setCtx s c v).mgmt = s.mgmt := rfl
@[simp] theorem setCtx_pending (c : Nat) (v : Context) : (setCtx s c v).pending = s.pending := rfl

@[simp] theorem modCtx_clk (c : Nat) (f : Context → Context) : (modCtx s c f).clk = s.clk := rfl
@[simp] theorem modCtx_pow (c : Nat) (f : Context → Context) : (modCtx s c f).pow = s.pow := rfl
@[simp] theorem modCtx_panel (c : Nat) (f : Context → Context) : (modCtx s c f).panel = s.panel := rfl
@[simp] theorem modCtx_parts (c : Nat) (f : Context → Context) : (modCtx s c f).parts = s.parts := rfl
@[simp] theorem modCtx_queues (c : Nat) (f : Context → Context) : (modCtx s c f).queues = s.queues := rfl
@[simp] theorem modCtx_objs (c : Nat) (f : Context → Context) : (modCtx s c f).objs = s.objs := rfl
@[simp] theorem modCtx_ports (c : Nat) (f : Context → Context) : (modCtx s c f).ports = s.ports := rfl
@[simp] theorem modCtx_mem (c : Nat) (f : Context → Context) : (modCtx s c f).mem = s.mem := rfl
@[simp] theorem modCtx_coh (c : Nat) (f : Context → Context) : (modCtx s c f).coh = s.coh := rfl
@[simp] theorem modCtx_eng (c : Nat) (f : Context → Context) : (modCtx s c f).eng = s.eng := rfl
@[simp] theorem modCtx_cores (c : Nat) (f : Context → Context) : (modCtx s c f).cores = s.cores := rfl
@[simp] theorem modCtx_net (c : Nat) (f : Context → Context) : (modCtx s c f).net = s.net := rfl
@[simp] theorem modCtx_sec (c : Nat) (f : Context → Context) : (modCtx s c f).sec = s.sec := rfl
@[simp] theorem modCtx_mgmt (c : Nat) (f : Context → Context) : (modCtx s c f).mgmt = s.mgmt := rfl
@[simp] theorem modCtx_pending (c : Nat) (f : Context → Context) : (modCtx s c f).pending = s.pending := rfl

@[simp] theorem setQueue_clk (q : Nat) (v : Queue) : (setQueue s q v).clk = s.clk := rfl
@[simp] theorem setQueue_pow (q : Nat) (v : Queue) : (setQueue s q v).pow = s.pow := rfl
@[simp] theorem setQueue_panel (q : Nat) (v : Queue) : (setQueue s q v).panel = s.panel := rfl
@[simp] theorem setQueue_parts (q : Nat) (v : Queue) : (setQueue s q v).parts = s.parts := rfl
@[simp] theorem setQueue_ctxs (q : Nat) (v : Queue) : (setQueue s q v).ctxs = s.ctxs := rfl
@[simp] theorem setQueue_objs (q : Nat) (v : Queue) : (setQueue s q v).objs = s.objs := rfl
@[simp] theorem setQueue_ports (q : Nat) (v : Queue) : (setQueue s q v).ports = s.ports := rfl
@[simp] theorem setQueue_mem (q : Nat) (v : Queue) : (setQueue s q v).mem = s.mem := rfl
@[simp] theorem setQueue_coh (q : Nat) (v : Queue) : (setQueue s q v).coh = s.coh := rfl
@[simp] theorem setQueue_eng (q : Nat) (v : Queue) : (setQueue s q v).eng = s.eng := rfl
@[simp] theorem setQueue_cores (q : Nat) (v : Queue) : (setQueue s q v).cores = s.cores := rfl
@[simp] theorem setQueue_net (q : Nat) (v : Queue) : (setQueue s q v).net = s.net := rfl
@[simp] theorem setQueue_sec (q : Nat) (v : Queue) : (setQueue s q v).sec = s.sec := rfl
@[simp] theorem setQueue_mgmt (q : Nat) (v : Queue) : (setQueue s q v).mgmt = s.mgmt := rfl
@[simp] theorem setQueue_pending (q : Nat) (v : Queue) : (setQueue s q v).pending = s.pending := rfl

@[simp] theorem modQueue_clk (q : Nat) (f : Queue → Queue) : (modQueue s q f).clk = s.clk := rfl
@[simp] theorem modQueue_pow (q : Nat) (f : Queue → Queue) : (modQueue s q f).pow = s.pow := rfl
@[simp] theorem modQueue_panel (q : Nat) (f : Queue → Queue) : (modQueue s q f).panel = s.panel := rfl
@[simp] theorem modQueue_parts (q : Nat) (f : Queue → Queue) : (modQueue s q f).parts = s.parts := rfl
@[simp] theorem modQueue_ctxs (q : Nat) (f : Queue → Queue) : (modQueue s q f).ctxs = s.ctxs := rfl
@[simp] theorem modQueue_objs (q : Nat) (f : Queue → Queue) : (modQueue s q f).objs = s.objs := rfl
@[simp] theorem modQueue_ports (q : Nat) (f : Queue → Queue) : (modQueue s q f).ports = s.ports := rfl
@[simp] theorem modQueue_mem (q : Nat) (f : Queue → Queue) : (modQueue s q f).mem = s.mem := rfl
@[simp] theorem modQueue_coh (q : Nat) (f : Queue → Queue) : (modQueue s q f).coh = s.coh := rfl
@[simp] theorem modQueue_eng (q : Nat) (f : Queue → Queue) : (modQueue s q f).eng = s.eng := rfl
@[simp] theorem modQueue_cores (q : Nat) (f : Queue → Queue) : (modQueue s q f).cores = s.cores := rfl
@[simp] theorem modQueue_net (q : Nat) (f : Queue → Queue) : (modQueue s q f).net = s.net := rfl
@[simp] theorem modQueue_sec (q : Nat) (f : Queue → Queue) : (modQueue s q f).sec = s.sec := rfl
@[simp] theorem modQueue_mgmt (q : Nat) (f : Queue → Queue) : (modQueue s q f).mgmt = s.mgmt := rfl
@[simp] theorem modQueue_pending (q : Nat) (f : Queue → Queue) : (modQueue s q f).pending = s.pending := rfl

@[simp] theorem modCmd_clk (q i : Nat) (f : Cmd → Cmd) : (modCmd s q i f).clk = s.clk := rfl
@[simp] theorem modCmd_pow (q i : Nat) (f : Cmd → Cmd) : (modCmd s q i f).pow = s.pow := rfl
@[simp] theorem modCmd_panel (q i : Nat) (f : Cmd → Cmd) : (modCmd s q i f).panel = s.panel := rfl
@[simp] theorem modCmd_parts (q i : Nat) (f : Cmd → Cmd) : (modCmd s q i f).parts = s.parts := rfl
@[simp] theorem modCmd_ctxs (q i : Nat) (f : Cmd → Cmd) : (modCmd s q i f).ctxs = s.ctxs := rfl
@[simp] theorem modCmd_objs (q i : Nat) (f : Cmd → Cmd) : (modCmd s q i f).objs = s.objs := rfl
@[simp] theorem modCmd_ports (q i : Nat) (f : Cmd → Cmd) : (modCmd s q i f).ports = s.ports := rfl
@[simp] theorem modCmd_mem (q i : Nat) (f : Cmd → Cmd) : (modCmd s q i f).mem = s.mem := rfl
@[simp] theorem modCmd_coh (q i : Nat) (f : Cmd → Cmd) : (modCmd s q i f).coh = s.coh := rfl
@[simp] theorem modCmd_eng (q i : Nat) (f : Cmd → Cmd) : (modCmd s q i f).eng = s.eng := rfl
@[simp] theorem modCmd_cores (q i : Nat) (f : Cmd → Cmd) : (modCmd s q i f).cores = s.cores := rfl
@[simp] theorem modCmd_net (q i : Nat) (f : Cmd → Cmd) : (modCmd s q i f).net = s.net := rfl
@[simp] theorem modCmd_sec (q i : Nat) (f : Cmd → Cmd) : (modCmd s q i f).sec = s.sec := rfl
@[simp] theorem modCmd_mgmt (q i : Nat) (f : Cmd → Cmd) : (modCmd s q i f).mgmt = s.mgmt := rfl
@[simp] theorem modCmd_pending (q i : Nat) (f : Cmd → Cmd) : (modCmd s q i f).pending = s.pending := rfl

@[simp] theorem setObj_clk (i : Nat) (v : Obj) : (setObj s i v).clk = s.clk := rfl
@[simp] theorem setObj_pow (i : Nat) (v : Obj) : (setObj s i v).pow = s.pow := rfl
@[simp] theorem setObj_panel (i : Nat) (v : Obj) : (setObj s i v).panel = s.panel := rfl
@[simp] theorem setObj_parts (i : Nat) (v : Obj) : (setObj s i v).parts = s.parts := rfl
@[simp] theorem setObj_ctxs (i : Nat) (v : Obj) : (setObj s i v).ctxs = s.ctxs := rfl
@[simp] theorem setObj_queues (i : Nat) (v : Obj) : (setObj s i v).queues = s.queues := rfl
@[simp] theorem setObj_ports (i : Nat) (v : Obj) : (setObj s i v).ports = s.ports := rfl
@[simp] theorem setObj_mem (i : Nat) (v : Obj) : (setObj s i v).mem = s.mem := rfl
@[simp] theorem setObj_coh (i : Nat) (v : Obj) : (setObj s i v).coh = s.coh := rfl
@[simp] theorem setObj_eng (i : Nat) (v : Obj) : (setObj s i v).eng = s.eng := rfl
@[simp] theorem setObj_cores (i : Nat) (v : Obj) : (setObj s i v).cores = s.cores := rfl
@[simp] theorem setObj_net (i : Nat) (v : Obj) : (setObj s i v).net = s.net := rfl
@[simp] theorem setObj_sec (i : Nat) (v : Obj) : (setObj s i v).sec = s.sec := rfl
@[simp] theorem setObj_mgmt (i : Nat) (v : Obj) : (setObj s i v).mgmt = s.mgmt := rfl
@[simp] theorem setObj_pending (i : Nat) (v : Obj) : (setObj s i v).pending = s.pending := rfl

@[simp] theorem modObj_clk (i : Nat) (f : Obj → Obj) : (modObj s i f).clk = s.clk := rfl
@[simp] theorem modObj_pow (i : Nat) (f : Obj → Obj) : (modObj s i f).pow = s.pow := rfl
@[simp] theorem modObj_panel (i : Nat) (f : Obj → Obj) : (modObj s i f).panel = s.panel := rfl
@[simp] theorem modObj_parts (i : Nat) (f : Obj → Obj) : (modObj s i f).parts = s.parts := rfl
@[simp] theorem modObj_ctxs (i : Nat) (f : Obj → Obj) : (modObj s i f).ctxs = s.ctxs := rfl
@[simp] theorem modObj_queues (i : Nat) (f : Obj → Obj) : (modObj s i f).queues = s.queues := rfl
@[simp] theorem modObj_ports (i : Nat) (f : Obj → Obj) : (modObj s i f).ports = s.ports := rfl
@[simp] theorem modObj_mem (i : Nat) (f : Obj → Obj) : (modObj s i f).mem = s.mem := rfl
@[simp] theorem modObj_coh (i : Nat) (f : Obj → Obj) : (modObj s i f).coh = s.coh := rfl
@[simp] theorem modObj_eng (i : Nat) (f : Obj → Obj) : (modObj s i f).eng = s.eng := rfl
@[simp] theorem modObj_cores (i : Nat) (f : Obj → Obj) : (modObj s i f).cores = s.cores := rfl
@[simp] theorem modObj_net (i : Nat) (f : Obj → Obj) : (modObj s i f).net = s.net := rfl
@[simp] theorem modObj_sec (i : Nat) (f : Obj → Obj) : (modObj s i f).sec = s.sec := rfl
@[simp] theorem modObj_mgmt (i : Nat) (f : Obj → Obj) : (modObj s i f).mgmt = s.mgmt := rfl
@[simp] theorem modObj_pending (i : Nat) (f : Obj → Obj) : (modObj s i f).pending = s.pending := rfl

@[simp] theorem setPort_clk (p : Nat) (v : Port) : (setPort s p v).clk = s.clk := rfl
@[simp] theorem setPort_pow (p : Nat) (v : Port) : (setPort s p v).pow = s.pow := rfl
@[simp] theorem setPort_panel (p : Nat) (v : Port) : (setPort s p v).panel = s.panel := rfl
@[simp] theorem setPort_parts (p : Nat) (v : Port) : (setPort s p v).parts = s.parts := rfl
@[simp] theorem setPort_ctxs (p : Nat) (v : Port) : (setPort s p v).ctxs = s.ctxs := rfl
@[simp] theorem setPort_queues (p : Nat) (v : Port) : (setPort s p v).queues = s.queues := rfl
@[simp] theorem setPort_objs (p : Nat) (v : Port) : (setPort s p v).objs = s.objs := rfl
@[simp] theorem setPort_mem (p : Nat) (v : Port) : (setPort s p v).mem = s.mem := rfl
@[simp] theorem setPort_coh (p : Nat) (v : Port) : (setPort s p v).coh = s.coh := rfl
@[simp] theorem setPort_eng (p : Nat) (v : Port) : (setPort s p v).eng = s.eng := rfl
@[simp] theorem setPort_cores (p : Nat) (v : Port) : (setPort s p v).cores = s.cores := rfl
@[simp] theorem setPort_net (p : Nat) (v : Port) : (setPort s p v).net = s.net := rfl
@[simp] theorem setPort_sec (p : Nat) (v : Port) : (setPort s p v).sec = s.sec := rfl
@[simp] theorem setPort_mgmt (p : Nat) (v : Port) : (setPort s p v).mgmt = s.mgmt := rfl
@[simp] theorem setPort_pending (p : Nat) (v : Port) : (setPort s p v).pending = s.pending := rfl

@[simp] theorem modPort_clk (p : Nat) (f : Port → Port) : (modPort s p f).clk = s.clk := rfl
@[simp] theorem modPort_pow (p : Nat) (f : Port → Port) : (modPort s p f).pow = s.pow := rfl
@[simp] theorem modPort_panel (p : Nat) (f : Port → Port) : (modPort s p f).panel = s.panel := rfl
@[simp] theorem modPort_parts (p : Nat) (f : Port → Port) : (modPort s p f).parts = s.parts := rfl
@[simp] theorem modPort_ctxs (p : Nat) (f : Port → Port) : (modPort s p f).ctxs = s.ctxs := rfl
@[simp] theorem modPort_queues (p : Nat) (f : Port → Port) : (modPort s p f).queues = s.queues := rfl
@[simp] theorem modPort_objs (p : Nat) (f : Port → Port) : (modPort s p f).objs = s.objs := rfl
@[simp] theorem modPort_mem (p : Nat) (f : Port → Port) : (modPort s p f).mem = s.mem := rfl
@[simp] theorem modPort_coh (p : Nat) (f : Port → Port) : (modPort s p f).coh = s.coh := rfl
@[simp] theorem modPort_eng (p : Nat) (f : Port → Port) : (modPort s p f).eng = s.eng := rfl
@[simp] theorem modPort_cores (p : Nat) (f : Port → Port) : (modPort s p f).cores = s.cores := rfl
@[simp] theorem modPort_net (p : Nat) (f : Port → Port) : (modPort s p f).net = s.net := rfl
@[simp] theorem modPort_sec (p : Nat) (f : Port → Port) : (modPort s p f).sec = s.sec := rfl
@[simp] theorem modPort_mgmt (p : Nat) (f : Port → Port) : (modPort s p f).mgmt = s.mgmt := rfl
@[simp] theorem modPort_pending (p : Nat) (f : Port → Port) : (modPort s p f).pending = s.pending := rfl

@[simp] theorem modCore_clk (c : Nat) (f : Core → Core) : (modCore s c f).clk = s.clk := rfl
@[simp] theorem modCore_pow (c : Nat) (f : Core → Core) : (modCore s c f).pow = s.pow := rfl
@[simp] theorem modCore_panel (c : Nat) (f : Core → Core) : (modCore s c f).panel = s.panel := rfl
@[simp] theorem modCore_parts (c : Nat) (f : Core → Core) : (modCore s c f).parts = s.parts := rfl
@[simp] theorem modCore_ctxs (c : Nat) (f : Core → Core) : (modCore s c f).ctxs = s.ctxs := rfl
@[simp] theorem modCore_queues (c : Nat) (f : Core → Core) : (modCore s c f).queues = s.queues := rfl
@[simp] theorem modCore_objs (c : Nat) (f : Core → Core) : (modCore s c f).objs = s.objs := rfl
@[simp] theorem modCore_ports (c : Nat) (f : Core → Core) : (modCore s c f).ports = s.ports := rfl
@[simp] theorem modCore_mem (c : Nat) (f : Core → Core) : (modCore s c f).mem = s.mem := rfl
@[simp] theorem modCore_coh (c : Nat) (f : Core → Core) : (modCore s c f).coh = s.coh := rfl
@[simp] theorem modCore_eng (c : Nat) (f : Core → Core) : (modCore s c f).eng = s.eng := rfl
@[simp] theorem modCore_net (c : Nat) (f : Core → Core) : (modCore s c f).net = s.net := rfl
@[simp] theorem modCore_sec (c : Nat) (f : Core → Core) : (modCore s c f).sec = s.sec := rfl
@[simp] theorem modCore_mgmt (c : Nat) (f : Core → Core) : (modCore s c f).mgmt = s.mgmt := rfl
@[simp] theorem modCore_pending (c : Nat) (f : Core → Core) : (modCore s c f).pending = s.pending := rfl

@[simp] theorem setIpend_clk (c b : Nat) : (setIpend s c b).clk = s.clk := rfl
@[simp] theorem setIpend_pow (c b : Nat) : (setIpend s c b).pow = s.pow := rfl
@[simp] theorem setIpend_panel (c b : Nat) : (setIpend s c b).panel = s.panel := rfl
@[simp] theorem setIpend_parts (c b : Nat) : (setIpend s c b).parts = s.parts := rfl
@[simp] theorem setIpend_ctxs (c b : Nat) : (setIpend s c b).ctxs = s.ctxs := rfl
@[simp] theorem setIpend_queues (c b : Nat) : (setIpend s c b).queues = s.queues := rfl
@[simp] theorem setIpend_objs (c b : Nat) : (setIpend s c b).objs = s.objs := rfl
@[simp] theorem setIpend_ports (c b : Nat) : (setIpend s c b).ports = s.ports := rfl
@[simp] theorem setIpend_mem (c b : Nat) : (setIpend s c b).mem = s.mem := rfl
@[simp] theorem setIpend_coh (c b : Nat) : (setIpend s c b).coh = s.coh := rfl
@[simp] theorem setIpend_eng (c b : Nat) : (setIpend s c b).eng = s.eng := rfl
@[simp] theorem setIpend_net (c b : Nat) : (setIpend s c b).net = s.net := rfl
@[simp] theorem setIpend_sec (c b : Nat) : (setIpend s c b).sec = s.sec := rfl
@[simp] theorem setIpend_mgmt (c b : Nat) : (setIpend s c b).mgmt = s.mgmt := rfl
@[simp] theorem setIpend_pending (c b : Nat) : (setIpend s c b).pending = s.pending := rfl

@[simp] theorem modDie_clk (d : Nat) (f : Die → Die) : (modDie s d f).clk = s.clk := rfl
@[simp] theorem modDie_panel (d : Nat) (f : Die → Die) : (modDie s d f).panel = s.panel := rfl
@[simp] theorem modDie_parts (d : Nat) (f : Die → Die) : (modDie s d f).parts = s.parts := rfl
@[simp] theorem modDie_ctxs (d : Nat) (f : Die → Die) : (modDie s d f).ctxs = s.ctxs := rfl
@[simp] theorem modDie_queues (d : Nat) (f : Die → Die) : (modDie s d f).queues = s.queues := rfl
@[simp] theorem modDie_objs (d : Nat) (f : Die → Die) : (modDie s d f).objs = s.objs := rfl
@[simp] theorem modDie_ports (d : Nat) (f : Die → Die) : (modDie s d f).ports = s.ports := rfl
@[simp] theorem modDie_mem (d : Nat) (f : Die → Die) : (modDie s d f).mem = s.mem := rfl
@[simp] theorem modDie_coh (d : Nat) (f : Die → Die) : (modDie s d f).coh = s.coh := rfl
@[simp] theorem modDie_eng (d : Nat) (f : Die → Die) : (modDie s d f).eng = s.eng := rfl
@[simp] theorem modDie_cores (d : Nat) (f : Die → Die) : (modDie s d f).cores = s.cores := rfl
@[simp] theorem modDie_net (d : Nat) (f : Die → Die) : (modDie s d f).net = s.net := rfl
@[simp] theorem modDie_sec (d : Nat) (f : Die → Die) : (modDie s d f).sec = s.sec := rfl
@[simp] theorem modDie_mgmt (d : Nat) (f : Die → Die) : (modDie s d f).mgmt = s.mgmt := rfl
@[simp] theorem modDie_pending (d : Nat) (f : Die → Die) : (modDie s d f).pending = s.pending := rfl
@[simp] theorem modDie_pow_cap (d : Nat) (f : Die → Die) : (modDie s d f).pow.cap = s.pow.cap := rfl
@[simp] theorem modDie_pow_tLim (d : Nat) (f : Die → Die) : (modDie s d f).pow.tLim = s.pow.tLim := rfl
@[simp] theorem modDie_pow_est (d : Nat) (f : Die → Die) : (modDie s d f).pow.est = s.pow.est := rfl
@[simp] theorem modDie_pow_inputW (d : Nat) (f : Die → Die) : (modDie s d f).pow.inputW = s.pow.inputW := rfl
@[simp] theorem modDie_pow_inlet (d : Nat) (f : Die → Die) : (modDie s d f).pow.inlet = s.pow.inlet := rfl
@[simp] theorem modDie_pow_outlet (d : Nat) (f : Die → Die) : (modDie s d f).pow.outlet = s.pow.outlet := rfl
@[simp] theorem modDie_pow_flow (d : Nat) (f : Die → Die) : (modDie s d f).pow.flow = s.pow.flow := rfl
@[simp] theorem modDie_pow_trips (d : Nat) (f : Die → Die) : (modDie s d f).pow.trips = s.pow.trips := rfl
@[simp] theorem modDie_pow_energy (d : Nat) (f : Die → Die) : (modDie s d f).pow.energy = s.pow.energy := rfl
@[simp] theorem modDie_pow_offsets (d : Nat) (f : Die → Die) : (modDie s d f).pow.offsets = s.pow.offsets := rfl
@[simp] theorem modDie_pow_inUse (d : Nat) (f : Die → Die) : (modDie s d f).pow.inUse = s.pow.inUse := rfl

@[simp] theorem modTruss_clk (l : Nat) (f : Truss → Truss) : (modTruss s l f).clk = s.clk := rfl
@[simp] theorem modTruss_pow (l : Nat) (f : Truss → Truss) : (modTruss s l f).pow = s.pow := rfl
@[simp] theorem modTruss_parts (l : Nat) (f : Truss → Truss) : (modTruss s l f).parts = s.parts := rfl
@[simp] theorem modTruss_ctxs (l : Nat) (f : Truss → Truss) : (modTruss s l f).ctxs = s.ctxs := rfl
@[simp] theorem modTruss_queues (l : Nat) (f : Truss → Truss) : (modTruss s l f).queues = s.queues := rfl
@[simp] theorem modTruss_objs (l : Nat) (f : Truss → Truss) : (modTruss s l f).objs = s.objs := rfl
@[simp] theorem modTruss_ports (l : Nat) (f : Truss → Truss) : (modTruss s l f).ports = s.ports := rfl
@[simp] theorem modTruss_mem (l : Nat) (f : Truss → Truss) : (modTruss s l f).mem = s.mem := rfl
@[simp] theorem modTruss_coh (l : Nat) (f : Truss → Truss) : (modTruss s l f).coh = s.coh := rfl
@[simp] theorem modTruss_eng (l : Nat) (f : Truss → Truss) : (modTruss s l f).eng = s.eng := rfl
@[simp] theorem modTruss_cores (l : Nat) (f : Truss → Truss) : (modTruss s l f).cores = s.cores := rfl
@[simp] theorem modTruss_net (l : Nat) (f : Truss → Truss) : (modTruss s l f).net = s.net := rfl
@[simp] theorem modTruss_sec (l : Nat) (f : Truss → Truss) : (modTruss s l f).sec = s.sec := rfl
@[simp] theorem modTruss_mgmt (l : Nat) (f : Truss → Truss) : (modTruss s l f).mgmt = s.mgmt := rfl
@[simp] theorem modTruss_pending (l : Nat) (f : Truss → Truss) : (modTruss s l f).pending = s.pending := rfl
@[simp] theorem modTruss_panel_mapActive (l : Nat) (f : Truss → Truss) : (modTruss s l f).panel.mapActive = s.panel.mapActive := rfl
@[simp] theorem modTruss_panel_mapPending (l : Nat) (f : Truss → Truss) : (modTruss s l f).panel.mapPending = s.panel.mapPending := rfl
@[simp] theorem modTruss_panel_posOut (l : Nat) (f : Truss → Truss) : (modTruss s l f).panel.posOut = s.panel.posOut := rfl
@[simp] theorem modTruss_panel_hubFailed (l : Nat) (f : Truss → Truss) : (modTruss s l f).panel.hubFailed = s.panel.hubFailed := rfl
@[simp] theorem modTruss_panel_fohFailed (l : Nat) (f : Truss → Truss) : (modTruss s l f).panel.fohFailed = s.panel.fohFailed := rfl
@[simp] theorem modTruss_panel_primary (l : Nat) (f : Truss → Truss) : (modTruss s l f).panel.primary = s.panel.primary := rfl
@[simp] theorem modTruss_panel_mirrorDown (l : Nat) (f : Truss → Truss) : (modTruss s l f).panel.mirrorDown = s.panel.mirrorDown := rfl
@[simp] theorem modTruss_panel_missed (l : Nat) (f : Truss → Truss) : (modTruss s l f).panel.missed = s.panel.missed := rfl
@[simp] theorem modTruss_panel_partFaults (l : Nat) (f : Truss → Truss) : (modTruss s l f).panel.partFaults = s.panel.partFaults := rfl

@[simp] theorem modStack_clk (k : Nat) (f : Stack → Stack) : (modStack s k f).clk = s.clk := rfl
@[simp] theorem modStack_pow (k : Nat) (f : Stack → Stack) : (modStack s k f).pow = s.pow := rfl
@[simp] theorem modStack_panel (k : Nat) (f : Stack → Stack) : (modStack s k f).panel = s.panel := rfl
@[simp] theorem modStack_parts (k : Nat) (f : Stack → Stack) : (modStack s k f).parts = s.parts := rfl
@[simp] theorem modStack_ctxs (k : Nat) (f : Stack → Stack) : (modStack s k f).ctxs = s.ctxs := rfl
@[simp] theorem modStack_queues (k : Nat) (f : Stack → Stack) : (modStack s k f).queues = s.queues := rfl
@[simp] theorem modStack_objs (k : Nat) (f : Stack → Stack) : (modStack s k f).objs = s.objs := rfl
@[simp] theorem modStack_ports (k : Nat) (f : Stack → Stack) : (modStack s k f).ports = s.ports := rfl
@[simp] theorem modStack_coh (k : Nat) (f : Stack → Stack) : (modStack s k f).coh = s.coh := rfl
@[simp] theorem modStack_eng (k : Nat) (f : Stack → Stack) : (modStack s k f).eng = s.eng := rfl
@[simp] theorem modStack_cores (k : Nat) (f : Stack → Stack) : (modStack s k f).cores = s.cores := rfl
@[simp] theorem modStack_net (k : Nat) (f : Stack → Stack) : (modStack s k f).net = s.net := rfl
@[simp] theorem modStack_sec (k : Nat) (f : Stack → Stack) : (modStack s k f).sec = s.sec := rfl
@[simp] theorem modStack_mgmt (k : Nat) (f : Stack → Stack) : (modStack s k f).mgmt = s.mgmt := rfl
@[simp] theorem modStack_pending (k : Nat) (f : Stack → Stack) : (modStack s k f).pending = s.pending := rfl
@[simp] theorem modStack_mem_cells (k : Nat) (f : Stack → Stack) : (modStack s k f).mem.cells = s.mem.cells := rfl
@[simp] theorem modStack_mem_bad (k : Nat) (f : Stack → Stack) : (modStack s k f).mem.bad = s.mem.bad := rfl
@[simp] theorem modStack_mem_badDue (k : Nat) (f : Stack → Stack) : (modStack s k f).mem.badDue = s.mem.badDue := rfl
@[simp] theorem modStack_mem_owner (k : Nat) (f : Stack → Stack) : (modStack s k f).mem.owner = s.mem.owner := rfl
@[simp] theorem modStack_mem_tlb (k : Nat) (f : Stack → Stack) : (modStack s k f).mem.tlb = s.mem.tlb := rfl
@[simp] theorem modStack_mem_pages (k : Nat) (f : Stack → Stack) : (modStack s k f).mem.pages = s.mem.pages := rfl

@[simp] theorem modChan_clk (k c : Nat) (f : Channel → Channel) : (modChan s k c f).clk = s.clk := rfl
@[simp] theorem modChan_pow (k c : Nat) (f : Channel → Channel) : (modChan s k c f).pow = s.pow := rfl
@[simp] theorem modChan_panel (k c : Nat) (f : Channel → Channel) : (modChan s k c f).panel = s.panel := rfl
@[simp] theorem modChan_parts (k c : Nat) (f : Channel → Channel) : (modChan s k c f).parts = s.parts := rfl
@[simp] theorem modChan_ctxs (k c : Nat) (f : Channel → Channel) : (modChan s k c f).ctxs = s.ctxs := rfl
@[simp] theorem modChan_queues (k c : Nat) (f : Channel → Channel) : (modChan s k c f).queues = s.queues := rfl
@[simp] theorem modChan_objs (k c : Nat) (f : Channel → Channel) : (modChan s k c f).objs = s.objs := rfl
@[simp] theorem modChan_ports (k c : Nat) (f : Channel → Channel) : (modChan s k c f).ports = s.ports := rfl
@[simp] theorem modChan_coh (k c : Nat) (f : Channel → Channel) : (modChan s k c f).coh = s.coh := rfl
@[simp] theorem modChan_eng (k c : Nat) (f : Channel → Channel) : (modChan s k c f).eng = s.eng := rfl
@[simp] theorem modChan_cores (k c : Nat) (f : Channel → Channel) : (modChan s k c f).cores = s.cores := rfl
@[simp] theorem modChan_net (k c : Nat) (f : Channel → Channel) : (modChan s k c f).net = s.net := rfl
@[simp] theorem modChan_sec (k c : Nat) (f : Channel → Channel) : (modChan s k c f).sec = s.sec := rfl
@[simp] theorem modChan_mgmt (k c : Nat) (f : Channel → Channel) : (modChan s k c f).mgmt = s.mgmt := rfl
@[simp] theorem modChan_pending (k c : Nat) (f : Channel → Channel) : (modChan s k c f).pending = s.pending := rfl
@[simp] theorem modChan_mem_cells (k c : Nat) (f : Channel → Channel) : (modChan s k c f).mem.cells = s.mem.cells := rfl
@[simp] theorem modChan_mem_bad (k c : Nat) (f : Channel → Channel) : (modChan s k c f).mem.bad = s.mem.bad := rfl
@[simp] theorem modChan_mem_badDue (k c : Nat) (f : Channel → Channel) : (modChan s k c f).mem.badDue = s.mem.badDue := rfl
@[simp] theorem modChan_mem_owner (k c : Nat) (f : Channel → Channel) : (modChan s k c f).mem.owner = s.mem.owner := rfl
@[simp] theorem modChan_mem_tlb (k c : Nat) (f : Channel → Channel) : (modChan s k c f).mem.tlb = s.mem.tlb := rfl
@[simp] theorem modChan_mem_pages (k c : Nat) (f : Channel → Channel) : (modChan s k c f).mem.pages = s.mem.pages := rfl

@[simp] theorem modLink_clk (l : Nat) (f : Link → Link) : (modLink s l f).clk = s.clk := rfl
@[simp] theorem modLink_pow (l : Nat) (f : Link → Link) : (modLink s l f).pow = s.pow := rfl
@[simp] theorem modLink_panel (l : Nat) (f : Link → Link) : (modLink s l f).panel = s.panel := rfl
@[simp] theorem modLink_parts (l : Nat) (f : Link → Link) : (modLink s l f).parts = s.parts := rfl
@[simp] theorem modLink_ctxs (l : Nat) (f : Link → Link) : (modLink s l f).ctxs = s.ctxs := rfl
@[simp] theorem modLink_queues (l : Nat) (f : Link → Link) : (modLink s l f).queues = s.queues := rfl
@[simp] theorem modLink_objs (l : Nat) (f : Link → Link) : (modLink s l f).objs = s.objs := rfl
@[simp] theorem modLink_ports (l : Nat) (f : Link → Link) : (modLink s l f).ports = s.ports := rfl
@[simp] theorem modLink_mem (l : Nat) (f : Link → Link) : (modLink s l f).mem = s.mem := rfl
@[simp] theorem modLink_coh (l : Nat) (f : Link → Link) : (modLink s l f).coh = s.coh := rfl
@[simp] theorem modLink_eng (l : Nat) (f : Link → Link) : (modLink s l f).eng = s.eng := rfl
@[simp] theorem modLink_cores (l : Nat) (f : Link → Link) : (modLink s l f).cores = s.cores := rfl
@[simp] theorem modLink_sec (l : Nat) (f : Link → Link) : (modLink s l f).sec = s.sec := rfl
@[simp] theorem modLink_mgmt (l : Nat) (f : Link → Link) : (modLink s l f).mgmt = s.mgmt := rfl
@[simp] theorem modLink_pending (l : Nat) (f : Link → Link) : (modLink s l f).pending = s.pending := rfl
@[simp] theorem modLink_net_gid (l : Nat) (f : Link → Link) : (modLink s l f).net.gid = s.net.gid := rfl
@[simp] theorem modLink_net_routes (l : Nat) (f : Link → Link) : (modLink s l f).net.routes = s.net.routes := rfl
@[simp] theorem modLink_net_routeCache (l : Nat) (f : Link → Link) : (modLink s l f).net.routeCache = s.net.routeCache := rfl
@[simp] theorem modLink_net_xfers (l : Nat) (f : Link → Link) : (modLink s l f).net.xfers = s.net.xfers := rfl
@[simp] theorem modLink_net_rx (l : Nat) (f : Link → Link) : (modLink s l f).net.rx = s.net.rx := rfl
@[simp] theorem modLink_net_drops (l : Nat) (f : Link → Link) : (modLink s l f).net.drops = s.net.drops := rfl
@[simp] theorem modLink_net_dropLog (l : Nat) (f : Link → Link) : (modLink s l f).net.dropLog = s.net.dropLog := rfl
@[simp] theorem modLink_net_windows (l : Nat) (f : Link → Link) : (modLink s l f).net.windows = s.net.windows := rfl
@[simp] theorem modLink_net_slots (l : Nat) (f : Link → Link) : (modLink s l f).net.slots = s.net.slots := rfl
@[simp] theorem modLink_net_eth (l : Nat) (f : Link → Link) : (modLink s l f).net.eth = s.net.eth := rfl
@[simp] theorem modLink_net_peers (l : Nat) (f : Link → Link) : (modLink s l f).net.peers = s.net.peers := rfl
@[simp] theorem modLink_net_qps (l : Nat) (f : Link → Link) : (modLink s l f).net.qps = s.net.qps := rfl
@[simp] theorem modLink_net_podTime (l : Nat) (f : Link → Link) : (modLink s l f).net.podTime = s.net.podTime := rfl
@[simp] theorem modLink_net_locked (l : Nat) (f : Link → Link) : (modLink s l f).net.locked = s.net.locked := rfl
@[simp] theorem modLink_net_good (l : Nat) (f : Link → Link) : (modLink s l f).net.good = s.net.good := rfl
@[simp] theorem modLink_net_master (l : Nat) (f : Link → Link) : (modLink s l f).net.master = s.net.master := rfl
@[simp] theorem modLink_net_stepped (l : Nat) (f : Link → Link) : (modLink s l f).net.stepped = s.net.stepped := rfl
@[simp] theorem modLink_net_upstream (l : Nat) (f : Link → Link) : (modLink s l f).net.upstream = s.net.upstream := rfl
@[simp] theorem modLink_net_masterGid (l : Nat) (f : Link → Link) : (modLink s l f).net.masterGid = s.net.masterGid := rfl
@[simp] theorem modLink_net_hops (l : Nat) (f : Link → Link) : (modLink s l f).net.hops = s.net.hops := rfl
@[simp] theorem modLink_net_offset (l : Nat) (f : Link → Link) : (modLink s l f).net.offset = s.net.offset := rfl
@[simp] theorem modLink_net_slew (l : Nat) (f : Link → Link) : (modLink s l f).net.slew = s.net.slew := rfl
@[simp] theorem modLink_net_podCtl (l : Nat) (f : Link → Link) : (modLink s l f).net.podCtl = s.net.podCtl := rfl

@[simp] theorem modWindow_clk (w : Nat) (f : Window → Window) : (modWindow s w f).clk = s.clk := rfl
@[simp] theorem modWindow_pow (w : Nat) (f : Window → Window) : (modWindow s w f).pow = s.pow := rfl
@[simp] theorem modWindow_panel (w : Nat) (f : Window → Window) : (modWindow s w f).panel = s.panel := rfl
@[simp] theorem modWindow_parts (w : Nat) (f : Window → Window) : (modWindow s w f).parts = s.parts := rfl
@[simp] theorem modWindow_ctxs (w : Nat) (f : Window → Window) : (modWindow s w f).ctxs = s.ctxs := rfl
@[simp] theorem modWindow_queues (w : Nat) (f : Window → Window) : (modWindow s w f).queues = s.queues := rfl
@[simp] theorem modWindow_objs (w : Nat) (f : Window → Window) : (modWindow s w f).objs = s.objs := rfl
@[simp] theorem modWindow_ports (w : Nat) (f : Window → Window) : (modWindow s w f).ports = s.ports := rfl
@[simp] theorem modWindow_mem (w : Nat) (f : Window → Window) : (modWindow s w f).mem = s.mem := rfl
@[simp] theorem modWindow_coh (w : Nat) (f : Window → Window) : (modWindow s w f).coh = s.coh := rfl
@[simp] theorem modWindow_eng (w : Nat) (f : Window → Window) : (modWindow s w f).eng = s.eng := rfl
@[simp] theorem modWindow_cores (w : Nat) (f : Window → Window) : (modWindow s w f).cores = s.cores := rfl
@[simp] theorem modWindow_sec (w : Nat) (f : Window → Window) : (modWindow s w f).sec = s.sec := rfl
@[simp] theorem modWindow_mgmt (w : Nat) (f : Window → Window) : (modWindow s w f).mgmt = s.mgmt := rfl
@[simp] theorem modWindow_pending (w : Nat) (f : Window → Window) : (modWindow s w f).pending = s.pending := rfl
@[simp] theorem modWindow_net_gid (w : Nat) (f : Window → Window) : (modWindow s w f).net.gid = s.net.gid := rfl
@[simp] theorem modWindow_net_links (w : Nat) (f : Window → Window) : (modWindow s w f).net.links = s.net.links := rfl
@[simp] theorem modWindow_net_routes (w : Nat) (f : Window → Window) : (modWindow s w f).net.routes = s.net.routes := rfl
@[simp] theorem modWindow_net_routeCache (w : Nat) (f : Window → Window) : (modWindow s w f).net.routeCache = s.net.routeCache := rfl
@[simp] theorem modWindow_net_xfers (w : Nat) (f : Window → Window) : (modWindow s w f).net.xfers = s.net.xfers := rfl
@[simp] theorem modWindow_net_rx (w : Nat) (f : Window → Window) : (modWindow s w f).net.rx = s.net.rx := rfl
@[simp] theorem modWindow_net_drops (w : Nat) (f : Window → Window) : (modWindow s w f).net.drops = s.net.drops := rfl
@[simp] theorem modWindow_net_dropLog (w : Nat) (f : Window → Window) : (modWindow s w f).net.dropLog = s.net.dropLog := rfl
@[simp] theorem modWindow_net_slots (w : Nat) (f : Window → Window) : (modWindow s w f).net.slots = s.net.slots := rfl
@[simp] theorem modWindow_net_eth (w : Nat) (f : Window → Window) : (modWindow s w f).net.eth = s.net.eth := rfl
@[simp] theorem modWindow_net_peers (w : Nat) (f : Window → Window) : (modWindow s w f).net.peers = s.net.peers := rfl
@[simp] theorem modWindow_net_qps (w : Nat) (f : Window → Window) : (modWindow s w f).net.qps = s.net.qps := rfl
@[simp] theorem modWindow_net_podTime (w : Nat) (f : Window → Window) : (modWindow s w f).net.podTime = s.net.podTime := rfl
@[simp] theorem modWindow_net_locked (w : Nat) (f : Window → Window) : (modWindow s w f).net.locked = s.net.locked := rfl
@[simp] theorem modWindow_net_good (w : Nat) (f : Window → Window) : (modWindow s w f).net.good = s.net.good := rfl
@[simp] theorem modWindow_net_master (w : Nat) (f : Window → Window) : (modWindow s w f).net.master = s.net.master := rfl
@[simp] theorem modWindow_net_stepped (w : Nat) (f : Window → Window) : (modWindow s w f).net.stepped = s.net.stepped := rfl
@[simp] theorem modWindow_net_upstream (w : Nat) (f : Window → Window) : (modWindow s w f).net.upstream = s.net.upstream := rfl
@[simp] theorem modWindow_net_masterGid (w : Nat) (f : Window → Window) : (modWindow s w f).net.masterGid = s.net.masterGid := rfl
@[simp] theorem modWindow_net_hops (w : Nat) (f : Window → Window) : (modWindow s w f).net.hops = s.net.hops := rfl
@[simp] theorem modWindow_net_offset (w : Nat) (f : Window → Window) : (modWindow s w f).net.offset = s.net.offset := rfl
@[simp] theorem modWindow_net_slew (w : Nat) (f : Window → Window) : (modWindow s w f).net.slew = s.net.slew := rfl
@[simp] theorem modWindow_net_podCtl (w : Nat) (f : Window → Window) : (modWindow s w f).net.podCtl = s.net.podCtl := rfl

@[simp] theorem modSlot_clk (d : Nat) (f : SendSlot → SendSlot) : (modSlot s d f).clk = s.clk := rfl
@[simp] theorem modSlot_pow (d : Nat) (f : SendSlot → SendSlot) : (modSlot s d f).pow = s.pow := rfl
@[simp] theorem modSlot_panel (d : Nat) (f : SendSlot → SendSlot) : (modSlot s d f).panel = s.panel := rfl
@[simp] theorem modSlot_parts (d : Nat) (f : SendSlot → SendSlot) : (modSlot s d f).parts = s.parts := rfl
@[simp] theorem modSlot_ctxs (d : Nat) (f : SendSlot → SendSlot) : (modSlot s d f).ctxs = s.ctxs := rfl
@[simp] theorem modSlot_queues (d : Nat) (f : SendSlot → SendSlot) : (modSlot s d f).queues = s.queues := rfl
@[simp] theorem modSlot_objs (d : Nat) (f : SendSlot → SendSlot) : (modSlot s d f).objs = s.objs := rfl
@[simp] theorem modSlot_ports (d : Nat) (f : SendSlot → SendSlot) : (modSlot s d f).ports = s.ports := rfl
@[simp] theorem modSlot_mem (d : Nat) (f : SendSlot → SendSlot) : (modSlot s d f).mem = s.mem := rfl
@[simp] theorem modSlot_coh (d : Nat) (f : SendSlot → SendSlot) : (modSlot s d f).coh = s.coh := rfl
@[simp] theorem modSlot_eng (d : Nat) (f : SendSlot → SendSlot) : (modSlot s d f).eng = s.eng := rfl
@[simp] theorem modSlot_cores (d : Nat) (f : SendSlot → SendSlot) : (modSlot s d f).cores = s.cores := rfl
@[simp] theorem modSlot_sec (d : Nat) (f : SendSlot → SendSlot) : (modSlot s d f).sec = s.sec := rfl
@[simp] theorem modSlot_mgmt (d : Nat) (f : SendSlot → SendSlot) : (modSlot s d f).mgmt = s.mgmt := rfl
@[simp] theorem modSlot_pending (d : Nat) (f : SendSlot → SendSlot) : (modSlot s d f).pending = s.pending := rfl
@[simp] theorem modSlot_net_gid (d : Nat) (f : SendSlot → SendSlot) : (modSlot s d f).net.gid = s.net.gid := rfl
@[simp] theorem modSlot_net_links (d : Nat) (f : SendSlot → SendSlot) : (modSlot s d f).net.links = s.net.links := rfl
@[simp] theorem modSlot_net_routes (d : Nat) (f : SendSlot → SendSlot) : (modSlot s d f).net.routes = s.net.routes := rfl
@[simp] theorem modSlot_net_routeCache (d : Nat) (f : SendSlot → SendSlot) : (modSlot s d f).net.routeCache = s.net.routeCache := rfl
@[simp] theorem modSlot_net_xfers (d : Nat) (f : SendSlot → SendSlot) : (modSlot s d f).net.xfers = s.net.xfers := rfl
@[simp] theorem modSlot_net_rx (d : Nat) (f : SendSlot → SendSlot) : (modSlot s d f).net.rx = s.net.rx := rfl
@[simp] theorem modSlot_net_drops (d : Nat) (f : SendSlot → SendSlot) : (modSlot s d f).net.drops = s.net.drops := rfl
@[simp] theorem modSlot_net_dropLog (d : Nat) (f : SendSlot → SendSlot) : (modSlot s d f).net.dropLog = s.net.dropLog := rfl
@[simp] theorem modSlot_net_windows (d : Nat) (f : SendSlot → SendSlot) : (modSlot s d f).net.windows = s.net.windows := rfl
@[simp] theorem modSlot_net_eth (d : Nat) (f : SendSlot → SendSlot) : (modSlot s d f).net.eth = s.net.eth := rfl
@[simp] theorem modSlot_net_peers (d : Nat) (f : SendSlot → SendSlot) : (modSlot s d f).net.peers = s.net.peers := rfl
@[simp] theorem modSlot_net_qps (d : Nat) (f : SendSlot → SendSlot) : (modSlot s d f).net.qps = s.net.qps := rfl
@[simp] theorem modSlot_net_podTime (d : Nat) (f : SendSlot → SendSlot) : (modSlot s d f).net.podTime = s.net.podTime := rfl
@[simp] theorem modSlot_net_locked (d : Nat) (f : SendSlot → SendSlot) : (modSlot s d f).net.locked = s.net.locked := rfl
@[simp] theorem modSlot_net_good (d : Nat) (f : SendSlot → SendSlot) : (modSlot s d f).net.good = s.net.good := rfl
@[simp] theorem modSlot_net_master (d : Nat) (f : SendSlot → SendSlot) : (modSlot s d f).net.master = s.net.master := rfl
@[simp] theorem modSlot_net_stepped (d : Nat) (f : SendSlot → SendSlot) : (modSlot s d f).net.stepped = s.net.stepped := rfl
@[simp] theorem modSlot_net_upstream (d : Nat) (f : SendSlot → SendSlot) : (modSlot s d f).net.upstream = s.net.upstream := rfl
@[simp] theorem modSlot_net_masterGid (d : Nat) (f : SendSlot → SendSlot) : (modSlot s d f).net.masterGid = s.net.masterGid := rfl
@[simp] theorem modSlot_net_hops (d : Nat) (f : SendSlot → SendSlot) : (modSlot s d f).net.hops = s.net.hops := rfl
@[simp] theorem modSlot_net_offset (d : Nat) (f : SendSlot → SendSlot) : (modSlot s d f).net.offset = s.net.offset := rfl
@[simp] theorem modSlot_net_slew (d : Nat) (f : SendSlot → SendSlot) : (modSlot s d f).net.slew = s.net.slew := rfl
@[simp] theorem modSlot_net_podCtl (d : Nat) (f : SendSlot → SendSlot) : (modSlot s d f).net.podCtl = s.net.podCtl := rfl

@[simp] theorem modXfer_clk (x : Nat) (f : Xfer → Xfer) : (modXfer s x f).clk = s.clk := rfl
@[simp] theorem modXfer_pow (x : Nat) (f : Xfer → Xfer) : (modXfer s x f).pow = s.pow := rfl
@[simp] theorem modXfer_panel (x : Nat) (f : Xfer → Xfer) : (modXfer s x f).panel = s.panel := rfl
@[simp] theorem modXfer_parts (x : Nat) (f : Xfer → Xfer) : (modXfer s x f).parts = s.parts := rfl
@[simp] theorem modXfer_ctxs (x : Nat) (f : Xfer → Xfer) : (modXfer s x f).ctxs = s.ctxs := rfl
@[simp] theorem modXfer_queues (x : Nat) (f : Xfer → Xfer) : (modXfer s x f).queues = s.queues := rfl
@[simp] theorem modXfer_objs (x : Nat) (f : Xfer → Xfer) : (modXfer s x f).objs = s.objs := rfl
@[simp] theorem modXfer_ports (x : Nat) (f : Xfer → Xfer) : (modXfer s x f).ports = s.ports := rfl
@[simp] theorem modXfer_mem (x : Nat) (f : Xfer → Xfer) : (modXfer s x f).mem = s.mem := rfl
@[simp] theorem modXfer_coh (x : Nat) (f : Xfer → Xfer) : (modXfer s x f).coh = s.coh := rfl
@[simp] theorem modXfer_eng (x : Nat) (f : Xfer → Xfer) : (modXfer s x f).eng = s.eng := rfl
@[simp] theorem modXfer_cores (x : Nat) (f : Xfer → Xfer) : (modXfer s x f).cores = s.cores := rfl
@[simp] theorem modXfer_sec (x : Nat) (f : Xfer → Xfer) : (modXfer s x f).sec = s.sec := rfl
@[simp] theorem modXfer_mgmt (x : Nat) (f : Xfer → Xfer) : (modXfer s x f).mgmt = s.mgmt := rfl
@[simp] theorem modXfer_pending (x : Nat) (f : Xfer → Xfer) : (modXfer s x f).pending = s.pending := rfl
@[simp] theorem modXfer_net_gid (x : Nat) (f : Xfer → Xfer) : (modXfer s x f).net.gid = s.net.gid := rfl
@[simp] theorem modXfer_net_links (x : Nat) (f : Xfer → Xfer) : (modXfer s x f).net.links = s.net.links := rfl
@[simp] theorem modXfer_net_routes (x : Nat) (f : Xfer → Xfer) : (modXfer s x f).net.routes = s.net.routes := rfl
@[simp] theorem modXfer_net_routeCache (x : Nat) (f : Xfer → Xfer) : (modXfer s x f).net.routeCache = s.net.routeCache := rfl
@[simp] theorem modXfer_net_rx (x : Nat) (f : Xfer → Xfer) : (modXfer s x f).net.rx = s.net.rx := rfl
@[simp] theorem modXfer_net_drops (x : Nat) (f : Xfer → Xfer) : (modXfer s x f).net.drops = s.net.drops := rfl
@[simp] theorem modXfer_net_dropLog (x : Nat) (f : Xfer → Xfer) : (modXfer s x f).net.dropLog = s.net.dropLog := rfl
@[simp] theorem modXfer_net_windows (x : Nat) (f : Xfer → Xfer) : (modXfer s x f).net.windows = s.net.windows := rfl
@[simp] theorem modXfer_net_slots (x : Nat) (f : Xfer → Xfer) : (modXfer s x f).net.slots = s.net.slots := rfl
@[simp] theorem modXfer_net_eth (x : Nat) (f : Xfer → Xfer) : (modXfer s x f).net.eth = s.net.eth := rfl
@[simp] theorem modXfer_net_peers (x : Nat) (f : Xfer → Xfer) : (modXfer s x f).net.peers = s.net.peers := rfl
@[simp] theorem modXfer_net_qps (x : Nat) (f : Xfer → Xfer) : (modXfer s x f).net.qps = s.net.qps := rfl
@[simp] theorem modXfer_net_podTime (x : Nat) (f : Xfer → Xfer) : (modXfer s x f).net.podTime = s.net.podTime := rfl
@[simp] theorem modXfer_net_locked (x : Nat) (f : Xfer → Xfer) : (modXfer s x f).net.locked = s.net.locked := rfl
@[simp] theorem modXfer_net_good (x : Nat) (f : Xfer → Xfer) : (modXfer s x f).net.good = s.net.good := rfl
@[simp] theorem modXfer_net_master (x : Nat) (f : Xfer → Xfer) : (modXfer s x f).net.master = s.net.master := rfl
@[simp] theorem modXfer_net_stepped (x : Nat) (f : Xfer → Xfer) : (modXfer s x f).net.stepped = s.net.stepped := rfl
@[simp] theorem modXfer_net_upstream (x : Nat) (f : Xfer → Xfer) : (modXfer s x f).net.upstream = s.net.upstream := rfl
@[simp] theorem modXfer_net_masterGid (x : Nat) (f : Xfer → Xfer) : (modXfer s x f).net.masterGid = s.net.masterGid := rfl
@[simp] theorem modXfer_net_hops (x : Nat) (f : Xfer → Xfer) : (modXfer s x f).net.hops = s.net.hops := rfl
@[simp] theorem modXfer_net_offset (x : Nat) (f : Xfer → Xfer) : (modXfer s x f).net.offset = s.net.offset := rfl
@[simp] theorem modXfer_net_slew (x : Nat) (f : Xfer → Xfer) : (modXfer s x f).net.slew = s.net.slew := rfl
@[simp] theorem modXfer_net_podCtl (x : Nat) (f : Xfer → Xfer) : (modXfer s x f).net.podCtl = s.net.podCtl := rfl

@[simp] theorem modUnit_clk (t u : Nat) (f : EngUnit → EngUnit) : (modUnit s t u f).clk = s.clk := rfl
@[simp] theorem modUnit_pow (t u : Nat) (f : EngUnit → EngUnit) : (modUnit s t u f).pow = s.pow := rfl
@[simp] theorem modUnit_panel (t u : Nat) (f : EngUnit → EngUnit) : (modUnit s t u f).panel = s.panel := rfl
@[simp] theorem modUnit_parts (t u : Nat) (f : EngUnit → EngUnit) : (modUnit s t u f).parts = s.parts := rfl
@[simp] theorem modUnit_ctxs (t u : Nat) (f : EngUnit → EngUnit) : (modUnit s t u f).ctxs = s.ctxs := rfl
@[simp] theorem modUnit_queues (t u : Nat) (f : EngUnit → EngUnit) : (modUnit s t u f).queues = s.queues := rfl
@[simp] theorem modUnit_objs (t u : Nat) (f : EngUnit → EngUnit) : (modUnit s t u f).objs = s.objs := rfl
@[simp] theorem modUnit_ports (t u : Nat) (f : EngUnit → EngUnit) : (modUnit s t u f).ports = s.ports := rfl
@[simp] theorem modUnit_mem (t u : Nat) (f : EngUnit → EngUnit) : (modUnit s t u f).mem = s.mem := rfl
@[simp] theorem modUnit_coh (t u : Nat) (f : EngUnit → EngUnit) : (modUnit s t u f).coh = s.coh := rfl
@[simp] theorem modUnit_cores (t u : Nat) (f : EngUnit → EngUnit) : (modUnit s t u f).cores = s.cores := rfl
@[simp] theorem modUnit_net (t u : Nat) (f : EngUnit → EngUnit) : (modUnit s t u f).net = s.net := rfl
@[simp] theorem modUnit_sec (t u : Nat) (f : EngUnit → EngUnit) : (modUnit s t u f).sec = s.sec := rfl
@[simp] theorem modUnit_mgmt (t u : Nat) (f : EngUnit → EngUnit) : (modUnit s t u f).mgmt = s.mgmt := rfl
@[simp] theorem modUnit_pending (t u : Nat) (f : EngUnit → EngUnit) : (modUnit s t u f).pending = s.pending := rfl
@[simp] theorem modUnit_eng_prog (t u : Nat) (f : EngUnit → EngUnit) : (modUnit s t u f).eng.prog = s.eng.prog := rfl
@[simp] theorem modUnit_eng_runs (t u : Nat) (f : EngUnit → EngUnit) : (modUnit s t u f).eng.runs = s.eng.runs := rfl
@[simp] theorem modUnit_eng_allot (t u : Nat) (f : EngUnit → EngUnit) : (modUnit s t u f).eng.allot = s.eng.allot := rfl
@[simp] theorem modUnit_eng_mxe (t u : Nat) (f : EngUnit → EngUnit) : (modUnit s t u f).eng.mxe = s.eng.mxe := rfl
@[simp] theorem modUnit_eng_vxe (t u : Nat) (f : EngUnit → EngUnit) : (modUnit s t u f).eng.vxe = s.eng.vxe := rfl
@[simp] theorem modUnit_eng_gp (t u : Nat) (f : EngUnit → EngUnit) : (modUnit s t u f).eng.gp = s.eng.gp := rfl
@[simp] theorem modUnit_eng_mover (t u : Nat) (f : EngUnit → EngUnit) : (modUnit s t u f).eng.mover = s.eng.mover := rfl
@[simp] theorem modUnit_eng_moved (t u : Nat) (f : EngUnit → EngUnit) : (modUnit s t u f).eng.moved = s.eng.moved := rfl
@[simp] theorem modUnit_eng_movedPrev (t u : Nat) (f : EngUnit → EngUnit) : (modUnit s t u f).eng.movedPrev = s.eng.movedPrev := rfl
@[simp] theorem modUnit_eng_copies (t u : Nat) (f : EngUnit → EngUnit) : (modUnit s t u f).eng.copies = s.eng.copies := rfl
@[simp] theorem modUnit_eng_dbgSel (t u : Nat) (f : EngUnit → EngUnit) : (modUnit s t u f).eng.dbgSel = s.eng.dbgSel := rfl
@[simp] theorem modUnit_eng_dbgAddr (t u : Nat) (f : EngUnit → EngUnit) : (modUnit s t u f).eng.dbgAddr = s.eng.dbgAddr := rfl
@[simp] theorem modUnit_eng_dbgData (t u : Nat) (f : EngUnit → EngUnit) : (modUnit s t u f).eng.dbgData = s.eng.dbgData := rfl
@[simp] theorem modUnit_eng_dbgBreak (t u : Nat) (f : EngUnit → EngUnit) : (modUnit s t u f).eng.dbgBreak = s.eng.dbgBreak := rfl
@[simp] theorem modUnit_eng_dbgArmed (t u : Nat) (f : EngUnit → EngUnit) : (modUnit s t u f).eng.dbgArmed = s.eng.dbgArmed := rfl
@[simp] theorem modUnit_eng_dbgBusy (t u : Nat) (f : EngUnit → EngUnit) : (modUnit s t u f).eng.dbgBusy = s.eng.dbgBusy := rfl
@[simp] theorem modUnit_eng_dbgResult (t u : Nat) (f : EngUnit → EngUnit) : (modUnit s t u f).eng.dbgResult = s.eng.dbgResult := rfl

@[simp] theorem modGp_clk (t g : Nat) (f : Gp → Gp) : (modGp s t g f).clk = s.clk := rfl
@[simp] theorem modGp_pow (t g : Nat) (f : Gp → Gp) : (modGp s t g f).pow = s.pow := rfl
@[simp] theorem modGp_panel (t g : Nat) (f : Gp → Gp) : (modGp s t g f).panel = s.panel := rfl
@[simp] theorem modGp_parts (t g : Nat) (f : Gp → Gp) : (modGp s t g f).parts = s.parts := rfl
@[simp] theorem modGp_ctxs (t g : Nat) (f : Gp → Gp) : (modGp s t g f).ctxs = s.ctxs := rfl
@[simp] theorem modGp_queues (t g : Nat) (f : Gp → Gp) : (modGp s t g f).queues = s.queues := rfl
@[simp] theorem modGp_objs (t g : Nat) (f : Gp → Gp) : (modGp s t g f).objs = s.objs := rfl
@[simp] theorem modGp_ports (t g : Nat) (f : Gp → Gp) : (modGp s t g f).ports = s.ports := rfl
@[simp] theorem modGp_mem (t g : Nat) (f : Gp → Gp) : (modGp s t g f).mem = s.mem := rfl
@[simp] theorem modGp_coh (t g : Nat) (f : Gp → Gp) : (modGp s t g f).coh = s.coh := rfl
@[simp] theorem modGp_cores (t g : Nat) (f : Gp → Gp) : (modGp s t g f).cores = s.cores := rfl
@[simp] theorem modGp_net (t g : Nat) (f : Gp → Gp) : (modGp s t g f).net = s.net := rfl
@[simp] theorem modGp_sec (t g : Nat) (f : Gp → Gp) : (modGp s t g f).sec = s.sec := rfl
@[simp] theorem modGp_mgmt (t g : Nat) (f : Gp → Gp) : (modGp s t g f).mgmt = s.mgmt := rfl
@[simp] theorem modGp_pending (t g : Nat) (f : Gp → Gp) : (modGp s t g f).pending = s.pending := rfl
@[simp] theorem modGp_eng_units (t g : Nat) (f : Gp → Gp) : (modGp s t g f).eng.units = s.eng.units := rfl
@[simp] theorem modGp_eng_prog (t g : Nat) (f : Gp → Gp) : (modGp s t g f).eng.prog = s.eng.prog := rfl
@[simp] theorem modGp_eng_runs (t g : Nat) (f : Gp → Gp) : (modGp s t g f).eng.runs = s.eng.runs := rfl
@[simp] theorem modGp_eng_allot (t g : Nat) (f : Gp → Gp) : (modGp s t g f).eng.allot = s.eng.allot := rfl
@[simp] theorem modGp_eng_mxe (t g : Nat) (f : Gp → Gp) : (modGp s t g f).eng.mxe = s.eng.mxe := rfl
@[simp] theorem modGp_eng_vxe (t g : Nat) (f : Gp → Gp) : (modGp s t g f).eng.vxe = s.eng.vxe := rfl
@[simp] theorem modGp_eng_mover (t g : Nat) (f : Gp → Gp) : (modGp s t g f).eng.mover = s.eng.mover := rfl
@[simp] theorem modGp_eng_moved (t g : Nat) (f : Gp → Gp) : (modGp s t g f).eng.moved = s.eng.moved := rfl
@[simp] theorem modGp_eng_movedPrev (t g : Nat) (f : Gp → Gp) : (modGp s t g f).eng.movedPrev = s.eng.movedPrev := rfl
@[simp] theorem modGp_eng_copies (t g : Nat) (f : Gp → Gp) : (modGp s t g f).eng.copies = s.eng.copies := rfl
@[simp] theorem modGp_eng_dbgSel (t g : Nat) (f : Gp → Gp) : (modGp s t g f).eng.dbgSel = s.eng.dbgSel := rfl
@[simp] theorem modGp_eng_dbgAddr (t g : Nat) (f : Gp → Gp) : (modGp s t g f).eng.dbgAddr = s.eng.dbgAddr := rfl
@[simp] theorem modGp_eng_dbgData (t g : Nat) (f : Gp → Gp) : (modGp s t g f).eng.dbgData = s.eng.dbgData := rfl
@[simp] theorem modGp_eng_dbgBreak (t g : Nat) (f : Gp → Gp) : (modGp s t g f).eng.dbgBreak = s.eng.dbgBreak := rfl
@[simp] theorem modGp_eng_dbgArmed (t g : Nat) (f : Gp → Gp) : (modGp s t g f).eng.dbgArmed = s.eng.dbgArmed := rfl
@[simp] theorem modGp_eng_dbgBusy (t g : Nat) (f : Gp → Gp) : (modGp s t g f).eng.dbgBusy = s.eng.dbgBusy := rfl
@[simp] theorem modGp_eng_dbgResult (t g : Nat) (f : Gp → Gp) : (modGp s t g f).eng.dbgResult = s.eng.dbgResult := rfl

@[simp] theorem modThread_clk (t g i : Nat) (f : Thread → Thread) : (modThread s t g i f).clk = s.clk := rfl
@[simp] theorem modThread_pow (t g i : Nat) (f : Thread → Thread) : (modThread s t g i f).pow = s.pow := rfl
@[simp] theorem modThread_panel (t g i : Nat) (f : Thread → Thread) : (modThread s t g i f).panel = s.panel := rfl
@[simp] theorem modThread_parts (t g i : Nat) (f : Thread → Thread) : (modThread s t g i f).parts = s.parts := rfl
@[simp] theorem modThread_ctxs (t g i : Nat) (f : Thread → Thread) : (modThread s t g i f).ctxs = s.ctxs := rfl
@[simp] theorem modThread_queues (t g i : Nat) (f : Thread → Thread) : (modThread s t g i f).queues = s.queues := rfl
@[simp] theorem modThread_objs (t g i : Nat) (f : Thread → Thread) : (modThread s t g i f).objs = s.objs := rfl
@[simp] theorem modThread_ports (t g i : Nat) (f : Thread → Thread) : (modThread s t g i f).ports = s.ports := rfl
@[simp] theorem modThread_mem (t g i : Nat) (f : Thread → Thread) : (modThread s t g i f).mem = s.mem := rfl
@[simp] theorem modThread_coh (t g i : Nat) (f : Thread → Thread) : (modThread s t g i f).coh = s.coh := rfl
@[simp] theorem modThread_cores (t g i : Nat) (f : Thread → Thread) : (modThread s t g i f).cores = s.cores := rfl
@[simp] theorem modThread_net (t g i : Nat) (f : Thread → Thread) : (modThread s t g i f).net = s.net := rfl
@[simp] theorem modThread_sec (t g i : Nat) (f : Thread → Thread) : (modThread s t g i f).sec = s.sec := rfl
@[simp] theorem modThread_mgmt (t g i : Nat) (f : Thread → Thread) : (modThread s t g i f).mgmt = s.mgmt := rfl
@[simp] theorem modThread_pending (t g i : Nat) (f : Thread → Thread) : (modThread s t g i f).pending = s.pending := rfl
@[simp] theorem modThread_eng_units (t g i : Nat) (f : Thread → Thread) : (modThread s t g i f).eng.units = s.eng.units := rfl
@[simp] theorem modThread_eng_prog (t g i : Nat) (f : Thread → Thread) : (modThread s t g i f).eng.prog = s.eng.prog := rfl
@[simp] theorem modThread_eng_runs (t g i : Nat) (f : Thread → Thread) : (modThread s t g i f).eng.runs = s.eng.runs := rfl
@[simp] theorem modThread_eng_allot (t g i : Nat) (f : Thread → Thread) : (modThread s t g i f).eng.allot = s.eng.allot := rfl
@[simp] theorem modThread_eng_mxe (t g i : Nat) (f : Thread → Thread) : (modThread s t g i f).eng.mxe = s.eng.mxe := rfl
@[simp] theorem modThread_eng_vxe (t g i : Nat) (f : Thread → Thread) : (modThread s t g i f).eng.vxe = s.eng.vxe := rfl
@[simp] theorem modThread_eng_mover (t g i : Nat) (f : Thread → Thread) : (modThread s t g i f).eng.mover = s.eng.mover := rfl
@[simp] theorem modThread_eng_moved (t g i : Nat) (f : Thread → Thread) : (modThread s t g i f).eng.moved = s.eng.moved := rfl
@[simp] theorem modThread_eng_movedPrev (t g i : Nat) (f : Thread → Thread) : (modThread s t g i f).eng.movedPrev = s.eng.movedPrev := rfl
@[simp] theorem modThread_eng_copies (t g i : Nat) (f : Thread → Thread) : (modThread s t g i f).eng.copies = s.eng.copies := rfl
@[simp] theorem modThread_eng_dbgSel (t g i : Nat) (f : Thread → Thread) : (modThread s t g i f).eng.dbgSel = s.eng.dbgSel := rfl
@[simp] theorem modThread_eng_dbgAddr (t g i : Nat) (f : Thread → Thread) : (modThread s t g i f).eng.dbgAddr = s.eng.dbgAddr := rfl
@[simp] theorem modThread_eng_dbgData (t g i : Nat) (f : Thread → Thread) : (modThread s t g i f).eng.dbgData = s.eng.dbgData := rfl
@[simp] theorem modThread_eng_dbgBreak (t g i : Nat) (f : Thread → Thread) : (modThread s t g i f).eng.dbgBreak = s.eng.dbgBreak := rfl
@[simp] theorem modThread_eng_dbgArmed (t g i : Nat) (f : Thread → Thread) : (modThread s t g i f).eng.dbgArmed = s.eng.dbgArmed := rfl
@[simp] theorem modThread_eng_dbgBusy (t g i : Nat) (f : Thread → Thread) : (modThread s t g i f).eng.dbgBusy = s.eng.dbgBusy := rfl
@[simp] theorem modThread_eng_dbgResult (t g i : Nat) (f : Thread → Thread) : (modThread s t g i f).eng.dbgResult = s.eng.dbgResult := rfl

@[simp] theorem modMxe_clk (t m : Nat) (f : Mxe → Mxe) : (modMxe s t m f).clk = s.clk := rfl
@[simp] theorem modMxe_pow (t m : Nat) (f : Mxe → Mxe) : (modMxe s t m f).pow = s.pow := rfl
@[simp] theorem modMxe_panel (t m : Nat) (f : Mxe → Mxe) : (modMxe s t m f).panel = s.panel := rfl
@[simp] theorem modMxe_parts (t m : Nat) (f : Mxe → Mxe) : (modMxe s t m f).parts = s.parts := rfl
@[simp] theorem modMxe_ctxs (t m : Nat) (f : Mxe → Mxe) : (modMxe s t m f).ctxs = s.ctxs := rfl
@[simp] theorem modMxe_queues (t m : Nat) (f : Mxe → Mxe) : (modMxe s t m f).queues = s.queues := rfl
@[simp] theorem modMxe_objs (t m : Nat) (f : Mxe → Mxe) : (modMxe s t m f).objs = s.objs := rfl
@[simp] theorem modMxe_ports (t m : Nat) (f : Mxe → Mxe) : (modMxe s t m f).ports = s.ports := rfl
@[simp] theorem modMxe_mem (t m : Nat) (f : Mxe → Mxe) : (modMxe s t m f).mem = s.mem := rfl
@[simp] theorem modMxe_coh (t m : Nat) (f : Mxe → Mxe) : (modMxe s t m f).coh = s.coh := rfl
@[simp] theorem modMxe_cores (t m : Nat) (f : Mxe → Mxe) : (modMxe s t m f).cores = s.cores := rfl
@[simp] theorem modMxe_net (t m : Nat) (f : Mxe → Mxe) : (modMxe s t m f).net = s.net := rfl
@[simp] theorem modMxe_sec (t m : Nat) (f : Mxe → Mxe) : (modMxe s t m f).sec = s.sec := rfl
@[simp] theorem modMxe_mgmt (t m : Nat) (f : Mxe → Mxe) : (modMxe s t m f).mgmt = s.mgmt := rfl
@[simp] theorem modMxe_pending (t m : Nat) (f : Mxe → Mxe) : (modMxe s t m f).pending = s.pending := rfl
@[simp] theorem modMxe_eng_units (t m : Nat) (f : Mxe → Mxe) : (modMxe s t m f).eng.units = s.eng.units := rfl
@[simp] theorem modMxe_eng_prog (t m : Nat) (f : Mxe → Mxe) : (modMxe s t m f).eng.prog = s.eng.prog := rfl
@[simp] theorem modMxe_eng_runs (t m : Nat) (f : Mxe → Mxe) : (modMxe s t m f).eng.runs = s.eng.runs := rfl
@[simp] theorem modMxe_eng_allot (t m : Nat) (f : Mxe → Mxe) : (modMxe s t m f).eng.allot = s.eng.allot := rfl
@[simp] theorem modMxe_eng_vxe (t m : Nat) (f : Mxe → Mxe) : (modMxe s t m f).eng.vxe = s.eng.vxe := rfl
@[simp] theorem modMxe_eng_gp (t m : Nat) (f : Mxe → Mxe) : (modMxe s t m f).eng.gp = s.eng.gp := rfl
@[simp] theorem modMxe_eng_mover (t m : Nat) (f : Mxe → Mxe) : (modMxe s t m f).eng.mover = s.eng.mover := rfl
@[simp] theorem modMxe_eng_moved (t m : Nat) (f : Mxe → Mxe) : (modMxe s t m f).eng.moved = s.eng.moved := rfl
@[simp] theorem modMxe_eng_movedPrev (t m : Nat) (f : Mxe → Mxe) : (modMxe s t m f).eng.movedPrev = s.eng.movedPrev := rfl
@[simp] theorem modMxe_eng_copies (t m : Nat) (f : Mxe → Mxe) : (modMxe s t m f).eng.copies = s.eng.copies := rfl
@[simp] theorem modMxe_eng_dbgSel (t m : Nat) (f : Mxe → Mxe) : (modMxe s t m f).eng.dbgSel = s.eng.dbgSel := rfl
@[simp] theorem modMxe_eng_dbgAddr (t m : Nat) (f : Mxe → Mxe) : (modMxe s t m f).eng.dbgAddr = s.eng.dbgAddr := rfl
@[simp] theorem modMxe_eng_dbgData (t m : Nat) (f : Mxe → Mxe) : (modMxe s t m f).eng.dbgData = s.eng.dbgData := rfl
@[simp] theorem modMxe_eng_dbgBreak (t m : Nat) (f : Mxe → Mxe) : (modMxe s t m f).eng.dbgBreak = s.eng.dbgBreak := rfl
@[simp] theorem modMxe_eng_dbgArmed (t m : Nat) (f : Mxe → Mxe) : (modMxe s t m f).eng.dbgArmed = s.eng.dbgArmed := rfl
@[simp] theorem modMxe_eng_dbgBusy (t m : Nat) (f : Mxe → Mxe) : (modMxe s t m f).eng.dbgBusy = s.eng.dbgBusy := rfl
@[simp] theorem modMxe_eng_dbgResult (t m : Nat) (f : Mxe → Mxe) : (modMxe s t m f).eng.dbgResult = s.eng.dbgResult := rfl

@[simp] theorem modVxe_clk (t m : Nat) (f : Vxe → Vxe) : (modVxe s t m f).clk = s.clk := rfl
@[simp] theorem modVxe_pow (t m : Nat) (f : Vxe → Vxe) : (modVxe s t m f).pow = s.pow := rfl
@[simp] theorem modVxe_panel (t m : Nat) (f : Vxe → Vxe) : (modVxe s t m f).panel = s.panel := rfl
@[simp] theorem modVxe_parts (t m : Nat) (f : Vxe → Vxe) : (modVxe s t m f).parts = s.parts := rfl
@[simp] theorem modVxe_ctxs (t m : Nat) (f : Vxe → Vxe) : (modVxe s t m f).ctxs = s.ctxs := rfl
@[simp] theorem modVxe_queues (t m : Nat) (f : Vxe → Vxe) : (modVxe s t m f).queues = s.queues := rfl
@[simp] theorem modVxe_objs (t m : Nat) (f : Vxe → Vxe) : (modVxe s t m f).objs = s.objs := rfl
@[simp] theorem modVxe_ports (t m : Nat) (f : Vxe → Vxe) : (modVxe s t m f).ports = s.ports := rfl
@[simp] theorem modVxe_mem (t m : Nat) (f : Vxe → Vxe) : (modVxe s t m f).mem = s.mem := rfl
@[simp] theorem modVxe_coh (t m : Nat) (f : Vxe → Vxe) : (modVxe s t m f).coh = s.coh := rfl
@[simp] theorem modVxe_cores (t m : Nat) (f : Vxe → Vxe) : (modVxe s t m f).cores = s.cores := rfl
@[simp] theorem modVxe_net (t m : Nat) (f : Vxe → Vxe) : (modVxe s t m f).net = s.net := rfl
@[simp] theorem modVxe_sec (t m : Nat) (f : Vxe → Vxe) : (modVxe s t m f).sec = s.sec := rfl
@[simp] theorem modVxe_mgmt (t m : Nat) (f : Vxe → Vxe) : (modVxe s t m f).mgmt = s.mgmt := rfl
@[simp] theorem modVxe_pending (t m : Nat) (f : Vxe → Vxe) : (modVxe s t m f).pending = s.pending := rfl
@[simp] theorem modVxe_eng_units (t m : Nat) (f : Vxe → Vxe) : (modVxe s t m f).eng.units = s.eng.units := rfl
@[simp] theorem modVxe_eng_prog (t m : Nat) (f : Vxe → Vxe) : (modVxe s t m f).eng.prog = s.eng.prog := rfl
@[simp] theorem modVxe_eng_runs (t m : Nat) (f : Vxe → Vxe) : (modVxe s t m f).eng.runs = s.eng.runs := rfl
@[simp] theorem modVxe_eng_allot (t m : Nat) (f : Vxe → Vxe) : (modVxe s t m f).eng.allot = s.eng.allot := rfl
@[simp] theorem modVxe_eng_mxe (t m : Nat) (f : Vxe → Vxe) : (modVxe s t m f).eng.mxe = s.eng.mxe := rfl
@[simp] theorem modVxe_eng_gp (t m : Nat) (f : Vxe → Vxe) : (modVxe s t m f).eng.gp = s.eng.gp := rfl
@[simp] theorem modVxe_eng_mover (t m : Nat) (f : Vxe → Vxe) : (modVxe s t m f).eng.mover = s.eng.mover := rfl
@[simp] theorem modVxe_eng_moved (t m : Nat) (f : Vxe → Vxe) : (modVxe s t m f).eng.moved = s.eng.moved := rfl
@[simp] theorem modVxe_eng_movedPrev (t m : Nat) (f : Vxe → Vxe) : (modVxe s t m f).eng.movedPrev = s.eng.movedPrev := rfl
@[simp] theorem modVxe_eng_copies (t m : Nat) (f : Vxe → Vxe) : (modVxe s t m f).eng.copies = s.eng.copies := rfl
@[simp] theorem modVxe_eng_dbgSel (t m : Nat) (f : Vxe → Vxe) : (modVxe s t m f).eng.dbgSel = s.eng.dbgSel := rfl
@[simp] theorem modVxe_eng_dbgAddr (t m : Nat) (f : Vxe → Vxe) : (modVxe s t m f).eng.dbgAddr = s.eng.dbgAddr := rfl
@[simp] theorem modVxe_eng_dbgData (t m : Nat) (f : Vxe → Vxe) : (modVxe s t m f).eng.dbgData = s.eng.dbgData := rfl
@[simp] theorem modVxe_eng_dbgBreak (t m : Nat) (f : Vxe → Vxe) : (modVxe s t m f).eng.dbgBreak = s.eng.dbgBreak := rfl
@[simp] theorem modVxe_eng_dbgArmed (t m : Nat) (f : Vxe → Vxe) : (modVxe s t m f).eng.dbgArmed = s.eng.dbgArmed := rfl
@[simp] theorem modVxe_eng_dbgBusy (t m : Nat) (f : Vxe → Vxe) : (modVxe s t m f).eng.dbgBusy = s.eng.dbgBusy := rfl
@[simp] theorem modVxe_eng_dbgResult (t m : Nat) (f : Vxe → Vxe) : (modVxe s t m f).eng.dbgResult = s.eng.dbgResult := rfl

@[simp] theorem modDir_clk (n : Nat) (f : DirEntry → DirEntry) : (modDir s n f).clk = s.clk := rfl
@[simp] theorem modDir_pow (n : Nat) (f : DirEntry → DirEntry) : (modDir s n f).pow = s.pow := rfl
@[simp] theorem modDir_panel (n : Nat) (f : DirEntry → DirEntry) : (modDir s n f).panel = s.panel := rfl
@[simp] theorem modDir_parts (n : Nat) (f : DirEntry → DirEntry) : (modDir s n f).parts = s.parts := rfl
@[simp] theorem modDir_ctxs (n : Nat) (f : DirEntry → DirEntry) : (modDir s n f).ctxs = s.ctxs := rfl
@[simp] theorem modDir_queues (n : Nat) (f : DirEntry → DirEntry) : (modDir s n f).queues = s.queues := rfl
@[simp] theorem modDir_objs (n : Nat) (f : DirEntry → DirEntry) : (modDir s n f).objs = s.objs := rfl
@[simp] theorem modDir_ports (n : Nat) (f : DirEntry → DirEntry) : (modDir s n f).ports = s.ports := rfl
@[simp] theorem modDir_mem (n : Nat) (f : DirEntry → DirEntry) : (modDir s n f).mem = s.mem := rfl
@[simp] theorem modDir_eng (n : Nat) (f : DirEntry → DirEntry) : (modDir s n f).eng = s.eng := rfl
@[simp] theorem modDir_cores (n : Nat) (f : DirEntry → DirEntry) : (modDir s n f).cores = s.cores := rfl
@[simp] theorem modDir_net (n : Nat) (f : DirEntry → DirEntry) : (modDir s n f).net = s.net := rfl
@[simp] theorem modDir_sec (n : Nat) (f : DirEntry → DirEntry) : (modDir s n f).sec = s.sec := rfl
@[simp] theorem modDir_mgmt (n : Nat) (f : DirEntry → DirEntry) : (modDir s n f).mgmt = s.mgmt := rfl
@[simp] theorem modDir_pending (n : Nat) (f : DirEntry → DirEntry) : (modDir s n f).pending = s.pending := rfl
@[simp] theorem modDir_coh_l2 (n : Nat) (f : DirEntry → DirEntry) : (modDir s n f).coh.l2 = s.coh.l2 := rfl
@[simp] theorem modDir_coh_wb (n : Nat) (f : DirEntry → DirEntry) : (modDir s n f).coh.wb = s.coh.wb := rfl
@[simp] theorem modDir_coh_l1d (n : Nat) (f : DirEntry → DirEntry) : (modDir s n f).coh.l1d = s.coh.l1d := rfl
@[simp] theorem modDir_coh_l1i (n : Nat) (f : DirEntry → DirEntry) : (modDir s n f).coh.l1i = s.coh.l1i := rfl
@[simp] theorem modDir_coh_l1 (n : Nat) (f : DirEntry → DirEntry) : (modDir s n f).coh.l1 = s.coh.l1 := rfl
@[simp] theorem modDir_coh_llm (n : Nat) (f : DirEntry → DirEntry) : (modDir s n f).coh.llm = s.coh.llm := rfl
@[simp] theorem modDir_coh_stale (n : Nat) (f : DirEntry → DirEntry) : (modDir s n f).coh.stale = s.coh.stale := rfl
@[simp] theorem modDir_coh_queue (n : Nat) (f : DirEntry → DirEntry) : (modDir s n f).coh.queue = s.coh.queue := rfl
@[simp] theorem modDir_coh_age (n : Nat) (f : DirEntry → DirEntry) : (modDir s n f).coh.age = s.coh.age := rfl
@[simp] theorem modDir_coh_waiters (n : Nat) (f : DirEntry → DirEntry) : (modDir s n f).coh.waiters = s.coh.waiters := rfl
@[simp] theorem modDir_coh_replies (n : Nat) (f : DirEntry → DirEntry) : (modDir s n f).coh.replies = s.coh.replies := rfl

@[simp] theorem setL2_clk (x : Nat) (v : List Line) : (setL2 s x v).clk = s.clk := rfl
@[simp] theorem setL2_pow (x : Nat) (v : List Line) : (setL2 s x v).pow = s.pow := rfl
@[simp] theorem setL2_panel (x : Nat) (v : List Line) : (setL2 s x v).panel = s.panel := rfl
@[simp] theorem setL2_parts (x : Nat) (v : List Line) : (setL2 s x v).parts = s.parts := rfl
@[simp] theorem setL2_ctxs (x : Nat) (v : List Line) : (setL2 s x v).ctxs = s.ctxs := rfl
@[simp] theorem setL2_queues (x : Nat) (v : List Line) : (setL2 s x v).queues = s.queues := rfl
@[simp] theorem setL2_objs (x : Nat) (v : List Line) : (setL2 s x v).objs = s.objs := rfl
@[simp] theorem setL2_ports (x : Nat) (v : List Line) : (setL2 s x v).ports = s.ports := rfl
@[simp] theorem setL2_mem (x : Nat) (v : List Line) : (setL2 s x v).mem = s.mem := rfl
@[simp] theorem setL2_eng (x : Nat) (v : List Line) : (setL2 s x v).eng = s.eng := rfl
@[simp] theorem setL2_cores (x : Nat) (v : List Line) : (setL2 s x v).cores = s.cores := rfl
@[simp] theorem setL2_net (x : Nat) (v : List Line) : (setL2 s x v).net = s.net := rfl
@[simp] theorem setL2_sec (x : Nat) (v : List Line) : (setL2 s x v).sec = s.sec := rfl
@[simp] theorem setL2_mgmt (x : Nat) (v : List Line) : (setL2 s x v).mgmt = s.mgmt := rfl
@[simp] theorem setL2_pending (x : Nat) (v : List Line) : (setL2 s x v).pending = s.pending := rfl
@[simp] theorem setL2_coh_wb (x : Nat) (v : List Line) : (setL2 s x v).coh.wb = s.coh.wb := rfl
@[simp] theorem setL2_coh_l1d (x : Nat) (v : List Line) : (setL2 s x v).coh.l1d = s.coh.l1d := rfl
@[simp] theorem setL2_coh_l1i (x : Nat) (v : List Line) : (setL2 s x v).coh.l1i = s.coh.l1i := rfl
@[simp] theorem setL2_coh_l1 (x : Nat) (v : List Line) : (setL2 s x v).coh.l1 = s.coh.l1 := rfl
@[simp] theorem setL2_coh_llm (x : Nat) (v : List Line) : (setL2 s x v).coh.llm = s.coh.llm := rfl
@[simp] theorem setL2_coh_stale (x : Nat) (v : List Line) : (setL2 s x v).coh.stale = s.coh.stale := rfl
@[simp] theorem setL2_coh_dir (x : Nat) (v : List Line) : (setL2 s x v).coh.dir = s.coh.dir := rfl
@[simp] theorem setL2_coh_queue (x : Nat) (v : List Line) : (setL2 s x v).coh.queue = s.coh.queue := rfl
@[simp] theorem setL2_coh_age (x : Nat) (v : List Line) : (setL2 s x v).coh.age = s.coh.age := rfl
@[simp] theorem setL2_coh_waiters (x : Nat) (v : List Line) : (setL2 s x v).coh.waiters = s.coh.waiters := rfl
@[simp] theorem setL2_coh_replies (x : Nat) (v : List Line) : (setL2 s x v).coh.replies = s.coh.replies := rfl

@[simp] theorem setL1_clk (x : Nat) (v : List (Nat × BitVec 1024)) : (setL1 s x v).clk = s.clk := rfl
@[simp] theorem setL1_pow (x : Nat) (v : List (Nat × BitVec 1024)) : (setL1 s x v).pow = s.pow := rfl
@[simp] theorem setL1_panel (x : Nat) (v : List (Nat × BitVec 1024)) : (setL1 s x v).panel = s.panel := rfl
@[simp] theorem setL1_parts (x : Nat) (v : List (Nat × BitVec 1024)) : (setL1 s x v).parts = s.parts := rfl
@[simp] theorem setL1_ctxs (x : Nat) (v : List (Nat × BitVec 1024)) : (setL1 s x v).ctxs = s.ctxs := rfl
@[simp] theorem setL1_queues (x : Nat) (v : List (Nat × BitVec 1024)) : (setL1 s x v).queues = s.queues := rfl
@[simp] theorem setL1_objs (x : Nat) (v : List (Nat × BitVec 1024)) : (setL1 s x v).objs = s.objs := rfl
@[simp] theorem setL1_ports (x : Nat) (v : List (Nat × BitVec 1024)) : (setL1 s x v).ports = s.ports := rfl
@[simp] theorem setL1_mem (x : Nat) (v : List (Nat × BitVec 1024)) : (setL1 s x v).mem = s.mem := rfl
@[simp] theorem setL1_eng (x : Nat) (v : List (Nat × BitVec 1024)) : (setL1 s x v).eng = s.eng := rfl
@[simp] theorem setL1_cores (x : Nat) (v : List (Nat × BitVec 1024)) : (setL1 s x v).cores = s.cores := rfl
@[simp] theorem setL1_net (x : Nat) (v : List (Nat × BitVec 1024)) : (setL1 s x v).net = s.net := rfl
@[simp] theorem setL1_sec (x : Nat) (v : List (Nat × BitVec 1024)) : (setL1 s x v).sec = s.sec := rfl
@[simp] theorem setL1_mgmt (x : Nat) (v : List (Nat × BitVec 1024)) : (setL1 s x v).mgmt = s.mgmt := rfl
@[simp] theorem setL1_pending (x : Nat) (v : List (Nat × BitVec 1024)) : (setL1 s x v).pending = s.pending := rfl
@[simp] theorem setL1_coh_l2 (x : Nat) (v : List (Nat × BitVec 1024)) : (setL1 s x v).coh.l2 = s.coh.l2 := rfl
@[simp] theorem setL1_coh_wb (x : Nat) (v : List (Nat × BitVec 1024)) : (setL1 s x v).coh.wb = s.coh.wb := rfl
@[simp] theorem setL1_coh_l1d (x : Nat) (v : List (Nat × BitVec 1024)) : (setL1 s x v).coh.l1d = s.coh.l1d := rfl
@[simp] theorem setL1_coh_l1i (x : Nat) (v : List (Nat × BitVec 1024)) : (setL1 s x v).coh.l1i = s.coh.l1i := rfl
@[simp] theorem setL1_coh_llm (x : Nat) (v : List (Nat × BitVec 1024)) : (setL1 s x v).coh.llm = s.coh.llm := rfl
@[simp] theorem setL1_coh_stale (x : Nat) (v : List (Nat × BitVec 1024)) : (setL1 s x v).coh.stale = s.coh.stale := rfl
@[simp] theorem setL1_coh_dir (x : Nat) (v : List (Nat × BitVec 1024)) : (setL1 s x v).coh.dir = s.coh.dir := rfl
@[simp] theorem setL1_coh_queue (x : Nat) (v : List (Nat × BitVec 1024)) : (setL1 s x v).coh.queue = s.coh.queue := rfl
@[simp] theorem setL1_coh_age (x : Nat) (v : List (Nat × BitVec 1024)) : (setL1 s x v).coh.age = s.coh.age := rfl
@[simp] theorem setL1_coh_waiters (x : Nat) (v : List (Nat × BitVec 1024)) : (setL1 s x v).coh.waiters = s.coh.waiters := rfl
@[simp] theorem setL1_coh_replies (x : Nat) (v : List (Nat × BitVec 1024)) : (setL1 s x v).coh.replies = s.coh.replies := rfl

@[simp] theorem bumpCounter_clk (i n : Nat) : (bumpCounter s i n).clk = s.clk := rfl
@[simp] theorem bumpCounter_pow (i n : Nat) : (bumpCounter s i n).pow = s.pow := rfl
@[simp] theorem bumpCounter_panel (i n : Nat) : (bumpCounter s i n).panel = s.panel := rfl
@[simp] theorem bumpCounter_parts (i n : Nat) : (bumpCounter s i n).parts = s.parts := rfl
@[simp] theorem bumpCounter_ctxs (i n : Nat) : (bumpCounter s i n).ctxs = s.ctxs := rfl
@[simp] theorem bumpCounter_queues (i n : Nat) : (bumpCounter s i n).queues = s.queues := rfl
@[simp] theorem bumpCounter_objs (i n : Nat) : (bumpCounter s i n).objs = s.objs := rfl
@[simp] theorem bumpCounter_ports (i n : Nat) : (bumpCounter s i n).ports = s.ports := rfl
@[simp] theorem bumpCounter_mem (i n : Nat) : (bumpCounter s i n).mem = s.mem := rfl
@[simp] theorem bumpCounter_coh (i n : Nat) : (bumpCounter s i n).coh = s.coh := rfl
@[simp] theorem bumpCounter_eng (i n : Nat) : (bumpCounter s i n).eng = s.eng := rfl
@[simp] theorem bumpCounter_cores (i n : Nat) : (bumpCounter s i n).cores = s.cores := rfl
@[simp] theorem bumpCounter_net (i n : Nat) : (bumpCounter s i n).net = s.net := rfl
@[simp] theorem bumpCounter_sec (i n : Nat) : (bumpCounter s i n).sec = s.sec := rfl
@[simp] theorem bumpCounter_pending (i n : Nat) : (bumpCounter s i n).pending = s.pending := rfl
@[simp] theorem bumpCounter_mgmt_ready (i n : Nat) : (bumpCounter s i n).mgmt.ready = s.mgmt.ready := rfl
@[simp] theorem bumpCounter_mgmt_phase (i n : Nat) : (bumpCounter s i n).mgmt.phase = s.mgmt.phase := rfl
@[simp] theorem bumpCounter_mgmt_lastReset (i n : Nat) : (bumpCounter s i n).mgmt.lastReset = s.mgmt.lastReset := rfl
@[simp] theorem bumpCounter_mgmt_changes (i n : Nat) : (bumpCounter s i n).mgmt.changes = s.mgmt.changes := rfl
@[simp] theorem bumpCounter_mgmt_events (i n : Nat) : (bumpCounter s i n).mgmt.events = s.mgmt.events := rfl
@[simp] theorem bumpCounter_mgmt_snapshot (i n : Nat) : (bumpCounter s i n).mgmt.snapshot = s.mgmt.snapshot := rfl
@[simp] theorem bumpCounter_mgmt_replies (i n : Nat) : (bumpCounter s i n).mgmt.replies = s.mgmt.replies := rfl
@[simp] theorem bumpCounter_mgmt_resetDue (i n : Nat) : (bumpCounter s i n).mgmt.resetDue = s.mgmt.resetDue := rfl
@[simp] theorem bumpCounter_mgmt_off (i n : Nat) : (bumpCounter s i n).mgmt.off = s.mgmt.off := rfl
@[simp] theorem bumpCounter_mgmt_forwarded (i n : Nat) : (bumpCounter s i n).mgmt.forwarded = s.mgmt.forwarded := rfl
@[simp] theorem bumpCounter_mgmt_plans (i n : Nat) : (bumpCounter s i n).mgmt.plans = s.mgmt.plans := rfl

end Sys2Proof.Machine
end

