-- ==== Sys2Proof/Laws/Table.lean ====
section
/-! SUPPORT. Laws of the sparse tables: reading after writing, and the canonical form under every operation. -/

namespace Sys2Proof.Machine

variable {α : Type}

/-- The first key of the table lies above a bound. -/
def tabove (b : Nat) : Table α → Prop
  | [] => True
  | (k, _) :: _ => b < k

/-- An erased key holds the default; every other key is as it was. -/
theorem tget_erase (d : α) (t : Table α) (k j : Nat) : tget d (terase t k) j = if j = k then d else tget d t j := by
  induction t with
  | nil => simp [terase, tget]
  | cons x t ih =>
    obtain ⟨k', v⟩ := x
    simp only [terase]
    split
    · subst_vars
      rw [ih]
      split
      · rfl
      · simp [tget, *]
    · by_cases hj : j = k'
      · subst hj; simp [tget, Ne.symm ‹¬k = j›]
      · simp [tget, hj, ih]

theorem tget_insert (d : α) (t : Table α) (k j : Nat) (v : α) :
    tget d (tinsert t k v) j = if j = k then v else tget d t j := by
  induction t with
  | nil => rfl
  | cons x t ih =>
    obtain ⟨k', v'⟩ := x
    simp only [tinsert]
    split
    · rfl
    · split
      · subst_vars; by_cases hj : j = k' <;> simp [tget, hj]
      · by_cases hj : j = k'
        · subst hj; simp [tget, Ne.symm ‹¬k = j›]
        · simp [tget, hj, ih]

theorem tabove_mono {a b : Nat} (h : a ≤ b) {t : Table α} (ht : tabove b t) : tabove a t := by
  cases t with
  | nil => trivial
  | cons x t => exact Nat.lt_of_le_of_lt h ht

theorem tabove_insert {b k : Nat} {v : α} {t : Table α} (hk : b < k) (ht : tabove b t) : tabove b (tinsert t k v) := by
  cases t with
  | nil => exact hk
  | cons x t =>
    obtain ⟨k', v'⟩ := x
    simp only [tinsert]
    split
    · exact hk
    · split
      · exact hk
      · exact ht

variable [DecidableEq α]

/-- A key reads what was last written, the default as well; every other key is as it was. -/
theorem tget_put (d : α) (t : Table α) (k j : Nat) (v : α) : tget d (tput d t k v) j = if j = k then v else tget d t j := by
  unfold tput
  split
  · subst_vars; exact tget_erase v t k j
  · exact tget_insert d t k j v

/-- Writing one key leaves every other as it was. -/
theorem tget_put_other (d : α) (t : Table α) (k j : Nat) (v : α) (h : j ≠ k) : tget d (tput d t k v) j = tget d t j := by
  rw [tget_put, if_neg h]

/-- A value written is read back. -/
@[simp] theorem tget_put_self (d : α) (t : Table α) (k : Nat) (v : α) : tget d (tput d t k v) k = v := by
  rw [tget_put, if_pos rfl]

theorem twf_cons (d : α) (k : Nat) (v : α) (t : Table α) :
    twf d ((k, v) :: t) = true ↔ v ≠ d ∧ tabove k t ∧ twf d t = true := by
  cases t with
  | nil => simp [twf, tabove]
  | cons x t => simp [twf, tabove, and_assoc]

/-- No key at or below a bound that all keys exceed is listed. -/
theorem tget_above (d : α) {b : Nat} {t : Table α} (hw : twf d t = true) (ht : tabove b t) {j : Nat} (hj : j ≤ b) :
    tget d t j = d := by
  induction t generalizing b with
  | nil => rfl
  | cons x t ih =>
    obtain ⟨k, v⟩ := x
    rw [twf_cons] at hw
    have hk : b < k := ht
    have : j ≠ k := by omega
    simp only [tget, this, if_false]
    exact ih hw.2.2 hw.2.1 (by omega)

theorem twf_erase (d : α) {t : Table α} (k : Nat) (h : twf d t = true) :
    twf d (terase t k) = true ∧ ∀ b, tabove b t → tabove b (terase t k) := by
  induction t with
  | nil => exact ⟨h, fun _ h => h⟩
  | cons x t ih =>
    obtain ⟨k', v⟩ := x
    rw [twf_cons] at h
    simp only [terase]
    split
    · exact ⟨(ih h.2.2).1, fun b hb => (ih h.2.2).2 _ (tabove_mono (Nat.le_of_lt hb) h.2.1)⟩
    · exact ⟨(twf_cons ..).2 ⟨h.1, (ih h.2.2).2 _ h.2.1, (ih h.2.2).1⟩, fun _ hb => hb⟩

theorem twf_insert (d : α) {t : Table α} (k : Nat) {v : α} (hv : v ≠ d) (h : twf d t = true) : twf d (tinsert t k v) = true := by
  induction t with
  | nil => simp [tinsert, twf, hv]
  | cons x t ih =>
    obtain ⟨k', v'⟩ := x
    have h' := (twf_cons ..).1 h
    simp only [tinsert]
    split
    · exact (twf_cons ..).2 ⟨hv, by assumption, h⟩
    · split
      · subst_vars; exact (twf_cons ..).2 ⟨hv, h'.2⟩
      · exact (twf_cons ..).2 ⟨h'.1, tabove_insert (by omega) h'.2.1, ih h'.2.2⟩

/-- A write keeps the canonical form. -/
theorem twf_put (d : α) {t : Table α} (k : Nat) (v : α) (h : twf d t = true) : twf d (tput d t k v) = true := by
  unfold tput
  split
  · exact (twf_erase d k h).1
  · exact twf_insert d k (by assumption) h

/-- A write of consecutive keys keeps the canonical form. -/
theorem twf_putN (d : α) {t : Table α} (k : Nat) (vs : List α) (h : twf d t = true) : twf d (tputN d t k vs) = true := by
  induction vs generalizing t k with
  | nil => exact h
  | cons v vs ih => exact ih (k + 1) (twf_put d k v h)

theorem tabove_filter (d : α) {b : Nat} {t : Table α} (f : Nat × α → Bool) (hw : twf d t = true) (ht : tabove b t) :
    tabove b (t.filter f) := by
  induction t generalizing b with
  | nil => trivial
  | cons x t ih =>
    obtain ⟨k, v⟩ := x
    rw [twf_cons] at hw
    simp only [List.filter]
    split
    · exact ht
    · exact ih hw.2.2 (tabove_mono (Nat.le_of_lt ht) hw.2.1)

/-- Entries taken out leave the canonical form. -/
theorem twf_filter (d : α) {t : Table α} (f : Nat × α → Bool) (h : twf d t = true) : twf d (t.filter f) = true := by
  induction t with
  | nil => rfl
  | cons x t ih =>
    obtain ⟨k, v⟩ := x
    rw [twf_cons] at h
    simp only [List.filter]
    split
    · exact (twf_cons ..).2 ⟨h.1, tabove_filter d f h.2.2 h.2.1, ih h.2.2⟩
    · exact ih h.2.2

/-- Consecutive writes read back; every other key is as it was. -/
theorem tget_putN (d : α) {t : Table α} (k : Nat) (vs : List α) (j : Nat) :
    tget d (tputN d t k vs) j = if k ≤ j ∧ j < k + vs.length then vs.getD (j - k) d else tget d t j := by
  induction vs generalizing t k with
  | nil => simp [tputN] <;> omega
  | cons v vs ih =>
    simp only [tputN]
    rw [ih (k + 1), tget_put]
    by_cases h1 : j = k
    · subst h1; simp <;> omega
    · by_cases h2 : k + 1 ≤ j ∧ j < k + 1 + vs.length
      · have h3 : k ≤ j ∧ j < k + (v :: vs).length := by simp; omega
        have h4 : j - k = (j - (k + 1)) + 1 := by omega
        rw [if_pos h2, if_pos h3, h4]; simp
      · have h3 : ¬ (k ≤ j ∧ j < k + (v :: vs).length) := by simp; omega
        rw [if_neg h2, if_neg h3, if_neg h1]

/-- Writes of consecutive keys leave every key outside them as it was. -/
theorem tget_putN_other (d : α) (t : Table α) (k : Nat) (vs : List α) (j : Nat) (h : j < k ∨ k + vs.length ≤ j) :
    tget d (tputN d t k vs) j = tget d t j := by
  induction vs generalizing t k with
  | nil => rfl
  | cons v vs ih =>
    simp only [List.length_cons] at h
    simp only [tputN]
    rw [ih _ (k + 1) (by omega), tget_put_other _ _ _ _ _ (by omega)]

/-- A table of changed values holds no default; keys keep their order. -/
theorem twf_map (d : α) {t : Table α} (f : Nat → α → α) (h : twf d t = true) : twf d (tmap d t f) = true := by
  have key : ∀ (t : Table α) (b : Nat), twf d t = true →
      twf d (tmap d t f) = true ∧ (tabove b t → tabove b (tmap d t f)) := by
    intro t
    induction t with
    | nil => intro b _; exact ⟨rfl, fun h => h⟩
    | cons x t ih =>
      obtain ⟨k, v⟩ := x
      intro b hw
      rw [twf_cons] at hw
      have hi := ih k hw.2.2
      simp only [tmap, List.map, List.filter] at hi ⊢
      split
      · exact ⟨(twf_cons ..).2 ⟨by simpa using ‹decide (f k v ≠ d) = true›, hi.2 hw.2.1, hi.1⟩, fun h => h⟩
      · exact ⟨hi.1, fun hb => tabove_mono (Nat.le_of_lt hb) (hi.2 hw.2.1)⟩
  exact (key t 0 h).1

end Sys2Proof.Machine
end

