-- ==== Sys2Proof/Laws/Parts.lean ====
section
/-! SUPPORT. Reading a numbered part after an update: the number updated reads the new value, another reads as before. -/

namespace Sys2Proof.Machine

variable (s : State)

theorem partOf_setPart_ne {i j : Nat} (v : Partition) (h : j ≠ i) : partOf (setPart s i v) j = partOf s j := tget_put_other _ _ _ _ _ h
@[simp] theorem partOf_setPart (i : Nat) (v : Partition) : partOf (setPart s i v) i = v := tget_put_self _ _ _ _
theorem partOf_modPart_ne {i j : Nat} (f : Partition → Partition) (h : j ≠ i) : partOf (modPart s i f) j = partOf s j := partOf_setPart_ne _ _ h
@[simp] theorem partOf_modPart (i : Nat) (f : Partition → Partition) : partOf (modPart s i f) i = f (partOf s i) := partOf_setPart _ _ _

theorem ctxOf_setCtx_ne {i j : Nat} (v : Context) (h : j ≠ i) : ctxOf (setCtx s i v) j = ctxOf s j := tget_put_other _ _ _ _ _ h
@[simp] theorem ctxOf_setCtx (i : Nat) (v : Context) : ctxOf (setCtx s i v) i = v := tget_put_self _ _ _ _
theorem ctxOf_modCtx_ne {i j : Nat} (f : Context → Context) (h : j ≠ i) : ctxOf (modCtx s i f) j = ctxOf s j := ctxOf_setCtx_ne _ _ h
@[simp] theorem ctxOf_modCtx (i : Nat) (f : Context → Context) : ctxOf (modCtx s i f) i = f (ctxOf s i) := ctxOf_setCtx _ _ _

theorem queueOf_setQueue_ne {i j : Nat} (v : Queue) (h : j ≠ i) : queueOf (setQueue s i v) j = queueOf s j := tget_put_other _ _ _ _ _ h
@[simp] theorem queueOf_setQueue (i : Nat) (v : Queue) : queueOf (setQueue s i v) i = v := tget_put_self _ _ _ _
theorem queueOf_modQueue_ne {i j : Nat} (f : Queue → Queue) (h : j ≠ i) : queueOf (modQueue s i f) j = queueOf s j := queueOf_setQueue_ne _ _ h
@[simp] theorem queueOf_modQueue (i : Nat) (f : Queue → Queue) : queueOf (modQueue s i f) i = f (queueOf s i) := queueOf_setQueue _ _ _

theorem objOf_setObj_ne {i j : Nat} (v : Obj) (h : j ≠ i) : objOf (setObj s i v) j = objOf s j := tget_put_other _ _ _ _ _ h
@[simp] theorem objOf_setObj (i : Nat) (v : Obj) : objOf (setObj s i v) i = v := tget_put_self _ _ _ _
theorem objOf_modObj_ne {i j : Nat} (f : Obj → Obj) (h : j ≠ i) : objOf (modObj s i f) j = objOf s j := objOf_setObj_ne _ _ h
@[simp] theorem objOf_modObj (i : Nat) (f : Obj → Obj) : objOf (modObj s i f) i = f (objOf s i) := objOf_setObj _ _ _

theorem portOf_setPort_ne {i j : Nat} (v : Port) (h : j ≠ i) : portOf (setPort s i v) j = portOf s j := tget_put_other _ _ _ _ _ h
@[simp] theorem portOf_setPort (i : Nat) (v : Port) : portOf (setPort s i v) i = v := tget_put_self _ _ _ _
theorem portOf_modPort_ne {i j : Nat} (f : Port → Port) (h : j ≠ i) : portOf (modPort s i f) j = portOf s j := portOf_setPort_ne _ _ h
@[simp] theorem portOf_modPort (i : Nat) (f : Port → Port) : portOf (modPort s i f) i = f (portOf s i) := portOf_setPort _ _ _

theorem dieOf_modDie_ne {i j : Nat} (f : Die → Die) (h : j ≠ i) : dieOf (modDie s i f) j = dieOf s j := tget_put_other _ _ _ _ _ h
@[simp] theorem dieOf_modDie (i : Nat) (f : Die → Die) : dieOf (modDie s i f) i = f (dieOf s i) := tget_put_self _ _ _ _

theorem trussOf_modTruss_ne {i j : Nat} (f : Truss → Truss) (h : j ≠ i) : trussOf (modTruss s i f) j = trussOf s j := tget_put_other _ _ _ _ _ h
@[simp] theorem trussOf_modTruss (i : Nat) (f : Truss → Truss) : trussOf (modTruss s i f) i = f (trussOf s i) := tget_put_self _ _ _ _

theorem stackOf_modStack_ne {i j : Nat} (f : Stack → Stack) (h : j ≠ i) : stackOf (modStack s i f) j = stackOf s j := tget_put_other _ _ _ _ _ h
@[simp] theorem stackOf_modStack (i : Nat) (f : Stack → Stack) : stackOf (modStack s i f) i = f (stackOf s i) := tget_put_self _ _ _ _

theorem linkOf_modLink_ne {i j : Nat} (f : Link → Link) (h : j ≠ i) : linkOf (modLink s i f) j = linkOf s j := tget_put_other _ _ _ _ _ h
@[simp] theorem linkOf_modLink (i : Nat) (f : Link → Link) : linkOf (modLink s i f) i = f (linkOf s i) := tget_put_self _ _ _ _

theorem windowOf_modWindow_ne {i j : Nat} (f : Window → Window) (h : j ≠ i) : windowOf (modWindow s i f) j = windowOf s j := tget_put_other _ _ _ _ _ h
@[simp] theorem windowOf_modWindow (i : Nat) (f : Window → Window) : windowOf (modWindow s i f) i = f (windowOf s i) := tget_put_self _ _ _ _

theorem slotOf_modSlot_ne {i j : Nat} (f : SendSlot → SendSlot) (h : j ≠ i) : slotOf (modSlot s i f) j = slotOf s j := tget_put_other _ _ _ _ _ h
@[simp] theorem slotOf_modSlot (i : Nat) (f : SendSlot → SendSlot) : slotOf (modSlot s i f) i = f (slotOf s i) := tget_put_self _ _ _ _

theorem coreOf_modCore_ne {i j : Nat} (f : Core → Core) (h : j ≠ i) : coreOf (modCore s i f) j = coreOf s j := tget_put_other _ _ _ _ _ h
@[simp] theorem coreOf_modCore (i : Nat) (f : Core → Core) : coreOf (modCore s i f) i = f (coreOf s i) := tget_put_self _ _ _ _

theorem dirOf_modDir_ne {i j : Nat} (f : DirEntry → DirEntry) (h : j ≠ i) : dirOf (modDir s i f) j = dirOf s j := tget_put_other _ _ _ _ _ h
@[simp] theorem dirOf_modDir (i : Nat) (f : DirEntry → DirEntry) : dirOf (modDir s i f) i = f (dirOf s i) := tget_put_self _ _ _ _

theorem unitOf_modUnit_ne {t u t' u' : Nat} (f : EngUnit → EngUnit) (h : 28 * t' + u' ≠ 28 * t + u) :
    unitOf (modUnit s t u f) t' u' = unitOf s t' u' := tget_put_other _ _ _ _ _ h
@[simp] theorem unitOf_modUnit (t u : Nat) (f : EngUnit → EngUnit) : unitOf (modUnit s t u f) t u = f (unitOf s t u) := tget_put_self _ _ _ _

theorem gpOf_modGp_ne {t u t' u' : Nat} (f : Gp → Gp) (h : 16 * t' + u' ≠ 16 * t + u) :
    gpOf (modGp s t u f) t' u' = gpOf s t' u' := tget_put_other _ _ _ _ _ h
@[simp] theorem gpOf_modGp (t u : Nat) (f : Gp → Gp) : gpOf (modGp s t u f) t u = f (gpOf s t u) := tget_put_self _ _ _ _

theorem mxeOf_modMxe_ne {t u t' u' : Nat} (f : Mxe → Mxe) (h : 4 * t' + u' ≠ 4 * t + u) :
    mxeOf (modMxe s t u f) t' u' = mxeOf s t' u' := tget_put_other _ _ _ _ _ h
@[simp] theorem mxeOf_modMxe (t u : Nat) (f : Mxe → Mxe) : mxeOf (modMxe s t u f) t u = f (mxeOf s t u) := tget_put_self _ _ _ _

theorem vxeOf_modVxe_ne {t u t' u' : Nat} (f : Vxe → Vxe) (h : 4 * t' + u' ≠ 4 * t + u) :
    vxeOf (modVxe s t u f) t' u' = vxeOf s t' u' := tget_put_other _ _ _ _ _ h
@[simp] theorem vxeOf_modVxe (t u : Nat) (f : Vxe → Vxe) : vxeOf (modVxe s t u f) t u = f (vxeOf s t u) := tget_put_self _ _ _ _

@[simp] theorem l2Of_setL2 (x : Nat) (ls : List Line) : l2Of (setL2 s x ls) x = ls := tget_put_self _ _ _ _
theorem l2Of_setL2_ne {x y : Nat} (ls : List Line) (h : y ≠ x) : l2Of (setL2 s x ls) y = l2Of s y := tget_put_other _ _ _ _ _ h

end Sys2Proof.Machine
end

