-- ==== Sys2Proof/Laws/Command.lean ====
section
/-! SUPPORT. Laws of the call desk: a due command is carried out by its row, and what fixing its outcome does. -/

namespace Sys2Proof.Machine

variable {s t : State} {q op : Nat} {c : Cmd}

theorem dueCmd_facts (h : dueCmd s q op = some c) :
    headCmd (queueOf s q) = some c ∧ c.started.isSome = true ∧ c.fin = none ∧ c.stage = 0 ∧ pktOp (wordAt c.words 0) = op ∧
      outranked s q op c = false := by
  unfold dueCmd at h
  split at h
  · rename_i c' hc
    split at h
    · rename_i hg
      cases h
      simp only [Bool.and_eq_true, decide_eq_true_eq, Option.isNone_iff_eq_none, Bool.not_eq_true'] at hg
      exact ⟨hc, hg.1.1.1.1, hg.1.1.1.2, hg.1.1.2, hg.1.2, hg.2⟩
    · cases h
  · cases h

theorem onCommand_due (h : CmdDue s q op c) (run : Cmd → State) : onCommand s q op run = run c := by
  unfold onCommand
  rw [h.due]
  simp only [h.passes, h.live, Bool.false_and, Bool.false_eq_true, ↓reduceIte]

/-- A command that is not due leaves the state as it is. -/
theorem onCommand_none (h : dueCmd s q op = none) (run : Cmd → State) : onCommand s q op run = s := by
  unfold onCommand; rw [h]

/-- A command that the call desk rejects is recorded with the status of the check (R383). -/
theorem onCommand_reject {st w : Nat} (h : dueCmd s q op = some c) (hr : deskCheck s q (wordAt c.words 0) = some (st, w)) (run : Cmd → State) :
    onCommand s q op run = reject s q c st w := by
  unfold onCommand; rw [h]; simp only [hr]

theorem cmdOf_congr (h : t.queues = s.queues) (q idx : Nat) : cmdOf t q idx = cmdOf s q idx := by
  unfold cmdOf queueOf; rw [h]

/-- An outcome due at a later boundary is kept with the command; nothing else changes. -/
theorem finish_later {idx : Nat} {d : Done} (h : cmdOf s q idx = some c) (hf : c.fin = none) (hd : s.clk.cue < d.due) :
    finish s q idx d = modCmd s q idx (fun _ => { c with fin := some d }) := by
  unfold finish
  simp only [h, hf, Option.isSome_none, Bool.false_eq_true, ↓reduceIte]
  rw [if_neg (by omega)]

/-- A command that has its outcome keeps it. -/
theorem finish_done {idx : Nat} {d : Done} (h : cmdOf s q idx = some c) (hf : c.fin.isSome = true) : finish s q idx d = s := by
  unfold finish; simp only [h, hf, ↓reduceIte]

theorem answerNext_eq (h : cmdOf s q c.idx = some c) (hf : c.fin = none) (status : Nat) (result : W64) :
    answerNext s q c status result = outcome s q c status result :=
  finish_later h hf (Nat.lt_succ_self _)

end Sys2Proof.Machine
end

