-- ==== Sys2Proof/Laws/Issue.lean ====
section
/-! SUPPORT. Laws of the Xichai issuers: what a core's row and a group processor's row do once their instruction is due, and
the threads of an issue. -/

namespace Sys2Proof.Machine

theorem mem_insertBy {α : Type} (le : α → α → Bool) (a b : α) (l : List α) : b ∈ insertBy le a l ↔ b = a ∨ b ∈ l := by
  induction l with
  | nil => simp [insertBy]
  | cons c l ih => simp only [insertBy]; split <;> simp [ih, or_left_comm]

theorem nodup_insertBy {α : Type} (le : α → α → Bool) (a : α) (l : List α) (ha : a ∉ l) (h : l.Nodup) : (insertBy le a l).Nodup := by
  induction l with
  | nil => simp [insertBy]
  | cons c l ih =>
    simp only [List.mem_cons, not_or, List.nodup_cons] at ha h
    simp only [insertBy]
    split
    · simp [ha, h]
    · rw [List.nodup_cons, mem_insertBy]
      exact ⟨fun e => e.elim (fun e => ha.1 e.symm) h.1, ih ha.2 h.2⟩

theorem mem_sortBy {α : Type} (le : α → α → Bool) (b : α) (l : List α) : b ∈ sortBy le l ↔ b ∈ l := by
  induction l with
  | nil => simp [sortBy]
  | cons c l ih =>
    have : sortBy le (c :: l) = insertBy le c (sortBy le l) := rfl
    rw [this, mem_insertBy, ih]; simp

theorem nodup_sortBy {α : Type} (le : α → α → Bool) (l : List α) (h : l.Nodup) : (sortBy le l).Nodup := by
  induction l with
  | nil => simp [sortBy]
  | cons c l ih =>
    have : sortBy le (c :: l) = insertBy le c (sortBy le l) := rfl
    rw [this]
    rw [List.nodup_cons] at h
    exact nodup_insertBy _ _ _ (by rw [mem_sortBy]; exact h.1) (ih h.2)

theorem mem_upFrom (k n i : Nat) : i ∈ upFrom k n ↔ k ≤ i ∧ i < k + n := by
  induction n generalizing k with
  | zero => simp [upFrom]
  | succ n ih => simp [upFrom, ih] <;> omega

theorem nodup_upFrom (k n : Nat) : (upFrom k n).Nodup := by
  induction n generalizing k with
  | zero => simp [upFrom]
  | succ n ih => simp [upFrom, ih, mem_upFrom] <;> omega

theorem mem_readyOf {g : Gp} {k i : Nat} (h : i ∈ readyOf g k) : (threadAt g i).st = .ready ∧ i < g.blk.threads ∧ i / 32 = k := by
  unfold readyOf at h
  split at h
  · simp at h
  · simp [mem_upFrom] at h
    exact ⟨h.2.2, h.2.1, by omega⟩

theorem nodup_readyOf (g : Gp) (k : Nat) : (readyOf g k).Nodup := by
  unfold readyOf
  split
  · simp
  · exact (nodup_upFrom _ _).filter _

theorem nodup_repack (g : Gp) (lead pc : Nat) (set : List Nat) (h : set.Nodup) : (repack g lead pc set).Nodup := by
  unfold repack
  generalize (upFrom 1 7).map (fun i => (lead + i) % 8) = ks
  induction ks generalizing set with
  | nil => exact h
  | cons k ks ih =>
    rw [List.foldl_cons]
    apply ih
    dsimp only
    split
    · exact h
    · rename_i hc
      rw [List.nodup_append]
      refine ⟨h, (nodup_readyOf _ _).filter _, ?_⟩
      rintro a ha b hb rfl
      simp only [Bool.or_eq_true, not_or, List.any_eq_true, not_exists, not_and] at hc
      exact hc.2 a hb a ha (by simp)

/-- The threads of an issue are distinct (R206). -/
theorem gpIssue_nodup {s : State} {t g k : Nat} {i : Issue} (h : gpIssue s t g = some (k, i)) : i.threads.Nodup := by
  unfold gpIssue at h
  dsimp only at h
  split at h
  · cases h
  · simp only [Option.map_eq_some_iff, Prod.mk.injEq] at h
    obtain ⟨k', _, rfl, rfl⟩ := h
    apply nodup_sortBy
    split
    · exact (nodup_readyOf _ _).filter _
    · exact nodup_repack _ _ _ _ ((nodup_readyOf _ _).filter _)

/-- A group processor that issues has a running block. -/
theorem gpIssue_running {s : State} {t g k : Nat} {i : Issue} (h : gpIssue s t g = some (k, i)) : (gpOf s t g).running = true := by
  unfold gpIssue at h
  dsimp only at h
  split at h
  · cases h
  · simp_all

theorem coreRuns_on {s : State} {c : Nat} (h : coreRuns s c = true) : (coreOf s c).on = true := by
  simp only [coreRuns, Bool.and_eq_true] at h
  exact h.1.1.1.1.2

/-- A table entry changed for every key of a list of distinct keys. -/
theorem tget_foldl_tmod {α : Type} [DecidableEq α] (d : α) (f : Nat → α → α) (ns : List Nat) (h : ns.Nodup) (tb : Table α) (n : Nat) :
    tget d (ns.foldl (fun tb n => tmod d tb n (f n)) tb) n = if n ∈ ns then f n (tget d tb n) else tget d tb n := by
  induction ns generalizing tb with
  | nil => rfl
  | cons m ns ih =>
    rw [List.nodup_cons] at h
    rw [List.foldl_cons, ih h.2]
    by_cases hn : n = m
    · subst hn
      simp [h.1, tmod]
    · simp [hn, tmod, tget_put_other _ _ _ _ _ hn]

/-- Threads of one group processor changed one by one: the same as its table of threads changed. -/
theorem foldl_modThread (s : State) (t g : Nat) (f : Nat → Thread → Thread) (ns : List Nat) :
    let u := ns.foldl (fun s n => modThread s t g n (f n)) s
    u = { s with eng := { s.eng with gp := u.eng.gp } } ∧
    (∀ t' g', 16 * t' + g' ≠ 16 * t + g → gpOf u t' g' = gpOf s t' g') ∧
    gpOf u t g = { gpOf s t g with threads := ns.foldl (fun tb n => tmod {} tb n (f n)) (gpOf s t g).threads } := by
  induction ns generalizing s with
  | nil => exact ⟨rfl, fun _ _ _ => rfl, rfl⟩
  | cons n ns ih =>
    have e : gpOf (modThread s t g n (f n)) t g = { gpOf s t g with threads := tmod {} (gpOf s t g).threads n (f n) } :=
      gpOf_modGp _ _ _ _
    obtain ⟨h1, h2, h3⟩ := ih (modThread s t g n (f n))
    simp only [List.foldl_cons]
    refine ⟨?_, ?_, ?_⟩
    · rw [h1]; rfl
    · intro t' g' h; rw [h2 t' g' h]; exact gpOf_modGp_ne _ _ h
    · rw [h3, e]

/-- A row of a group processor whose instruction is due runs its body on the counted issue. -/
theorem gpRow_due {s : State} {t g f op k : Nat} {i : Issue} (h : GpIssues s t g f op k i)
    (body : State → Nat → Nat → Issue → State) : gpRow f op body t g s = body (countIssue s t g k) t g i := by
  simp [gpRow, h.due, h.unbroken, h.fmt, h.opcode, h.legal]

theorem gpOf_countIssue (s : State) (t g k : Nat) :
    gpOf (countIssue s t g k) t g = (gpOf s t g).issued k := gpOf_modGp _ _ _ _

/-- A row of a core whose instruction is due runs its body, or is a no-op where the guard is off (R232). -/
theorem coreRow_due {s : State} {c f op : Nat} {w : W64} (h : CoreIssues s c f op w) (body : State → Nat → W64 → State) :
    coreRow f op body c s =
      (let s1 := keepFetched (modCore s c (fun x => { x with waiting := false })) c w
       if guardOk w (coreOf s1 c).p then body s1 c w else coreNext s1 c) := by
  simp [coreRow, coreWhen, coreHas, h.calm, h.runs, h.free, h.fetched, h.fmt, h.opcode, h.legal]

/-- A line used again: every L2 holds what it held. -/
theorem l2Find_touch (s : State) (x line y n : Nat) : l2Find (touchLine s x line) y n = l2Find s y n := by
  unfold touchLine
  split
  · rename_i l h
    by_cases hy : y = x
    · subst hy
      have e : l2Of (setL2 s y (l :: (l2Of s y).filter (fun z => z.line != line))) y = l :: (l2Of s y).filter (fun z => z.line != line) :=
        by simp [l2Of, setL2]
      unfold l2Find at h ⊢
      rw [e, List.find?_cons]
      have hl : (l.line == line) = true := List.find?_some (p := fun (z : Line) => z.line == line) h
      have hl' : l.line = line := by simpa using hl
      by_cases hn : l.line = n
      · rw [← hn] at *
        simp only [beq_self_eq_true]
        rw [hl', h]
      · have : (l.line == n) = false := by simpa using hn
        simp only [this]
        rw [List.find?_filter]
        apply congrArg (fun p => List.find? p (l2Of s y))
        funext a
        by_cases ha : a.line = n
        · have : a.line ≠ line := by intro h'; exact hn (hl'.trans (h'.symm.trans ha))
          simp [ha] at this ⊢
          exact this
        · simp [ha]
    · unfold l2Find l2Of setL2
      dsimp only
      rw [tget_put_other _ _ _ _ _ hy]
  · rfl

theorem touchLine_only (s : State) (x line : Nat) : touchLine s x line = { s with coh := { s.coh with l2 := (touchLine s x line).coh.l2 } } := by
  unfold touchLine; split <;> rfl

/-- What a core keeps of a fetch: its wait ends, and it may hold the word; its line is used in its caches. -/
theorem keepFetched_only (s : State) (c : Nat) (w : W64) :
    let u := keepFetched (modCore s c (fun x => { x with waiting := false })) c w
    ∃ fe ar, OnlyCore s u c { coreOf s c with waiting := false, fetched := fe, arrived := ar } := by
  have e : coreOf (modCore s c (fun x => { x with waiting := false })) c = { coreOf s c with waiting := false } :=
    coreOf_modCore _ _ _
  have ne : ∀ d, d ≠ c → coreOf (modCore s c (fun x => { x with waiting := false })) d = coreOf s d := fun d hd => coreOf_modCore_ne _ _ hd
  dsimp only
  generalize hm : modCore s c (fun x => { x with waiting := false }) = m at e ne ⊢
  have hs : m = { s with cores := m.cores } := by rw [← hm]; rfl
  have hc : m.coh = s.coh := by rw [hs]
  have hl : ∀ y n, l2Find m y n = l2Find s y n := by intro y n; unfold l2Find l2Of; rw [hc]
  unfold keepFetched
  dsimp only
  split
  · split
    · rename_i ps _ _
      refine ⟨(coreOf s c).fetched, (coreOf s c).arrived, ?_⟩
      generalize (ps.headD (0, 0)).1 / 128 = n
      have hit : ∀ u, u = { m with coh := { m.coh with l2 := u.coh.l2 } } → (∀ y k, l2Find u y k = l2Find m y k) →
          OnlyCore s (l1iPlace u c n) c { coreOf s c with waiting := false } := by
        intro u hu hf
        refine ⟨?_, ?_, ?_, ?_⟩
        · unfold l1iPlace
          rw [hu, hs]
        · show coreOf u c = _
          rw [hu]; exact e
        · intro d hd
          refine ⟨?_, ?_⟩
          · show coreOf u d = _
            rw [hu]; exact ne d hd
          · have e1 : u.coh.l1i = s.coh.l1i := by rw [hu]; show m.coh.l1i = _; rw [hc]
            unfold l1iPlace
            dsimp only
            rw [e1]
            exact tget_put_other _ _ _ _ _ hd
        · intro y k
          show l2Find u y k = _
          rw [hf, hl]
      split
      · exact hit m rfl (fun _ _ => rfl)
      · exact hit _ (touchLine_only _ _ _) (fun y k => l2Find_touch _ _ _ _ _)
    · split
      · exact ⟨_, _, by rw [hs], e, fun d hd => ⟨ne d hd, by rw [hc]⟩, hl⟩
      · refine ⟨some w, none, ?_, ?_, ?_, ?_⟩
        · rw [show modCore m c _ = { m with cores := _ } from rfl, hs]
        · rw [coreOf_modCore, e]
        · intro d hd
          exact ⟨(coreOf_modCore_ne _ _ hd).trans (ne d hd), by show tget [] m.coh.l1i d = _; rw [hc]⟩
        · intro y k; show l2Find m y k = _; exact hl y k
  · exact ⟨_, _, by rw [hs], e, fun d hd => ⟨ne d hd, by rw [hc]⟩, hl⟩

/-- Core `c` changed once more: still only it differs. -/
theorem OnlyCore.then {s u : State} {c : Nat} {x : Core} (h : OnlyCore s u c x) (f : Core → Core) : OnlyCore s (modCore u c f) c (f x) := by
  obtain ⟨h1, h2, h3, h4⟩ := h
  refine ⟨?_, ?_, ?_, ?_⟩
  · rw [show modCore u c f = { u with cores := (modCore u c f).cores } from rfl, h1]
  · rw [coreOf_modCore, h2]
  · intro d hd
    exact ⟨(coreOf_modCore_ne _ _ hd).trans (h3 d hd).1, (h3 d hd).2⟩
  · intro y k; show l2Find u y k = _; exact h4 y k

/-- A register instruction on a core. -/
theorem laneRow_core {s : State} {c f op : Nat} {w : W64} (h : CoreIssues s c f op w) (eff : W64 → Lane → Lane) :
    ∃ t, laneRow f op eff (.core c) s = .next t ∧
      OnlyCore s t c ((coreOf s c).onTo ((coreOf s c).pc + 8)
        (if guardOk w (coreOf s c).p then eff w (coreLane (coreOf s c)) else coreLane (coreOf s c))) := by
  obtain ⟨fe, ar, k⟩ := keepFetched_only s c w
  refine ⟨_, rfl, ?_⟩
  dsimp only
  rw [coreRow_due h]
  dsimp only at k ⊢
  generalize keepFetched (modCore s c (fun x => { x with waiting := false })) c w = u at k
  have n1 := k.then (fun x => { x with pc := ((coreOf u c).pc + 8) % 2 ^ 55, fetched := none, arrived := none, waiting := false })
  have n2 : coreNext u c = modCore u c (fun x => { x with pc := ((coreOf u c).pc + 8) % 2 ^ 55, fetched := none, arrived := none, waiting := false }) := rfl
  rw [n2]
  rw [k.2.1] at n1 ⊢
  split
  · exact n1.then _
  · exact n1

/-- Threads of an issue changed one by one. -/
theorem issue_threads {s : State} {t g f op k : Nat} {i : Issue} (h : GpIssues s t g f op k i) (F : Nat → Thread → Thread) :
    OnlyThreads s (i.threads.foldl (fun s n => modThread s t g n (F n)) (countIssue s t g k)) t g k
      (fun n x => if n ∈ i.threads then F n x else x) := by
  obtain ⟨h1, h2, h3⟩ := foldl_modThread (countIssue s t g k) t g F i.threads
  dsimp only at h1 h2 h3
  refine ⟨?_, ?_, ?_, ?_⟩
  · rw [h1]; rfl
  · intro t' g' hne; rw [h2 t' g' hne]; exact gpOf_modGp_ne _ _ hne
  · rw [h3, gpOf_countIssue]
  · intro n
    rw [threadAt, h3, gpOf_countIssue]
    exact tget_foldl_tmod _ _ _ (gpIssue_nodup h.due) _ _

/-- The end of the code is the same before and after an issue is counted. -/
theorem fallsOut_countIssue (s : State) (t g k pc : Nat) :
    fallsOut (countIssue s t g k) t g pc = fallsOut s t g pc := by
  unfold fallsOut; rw [gpOf_countIssue]; rfl

/-- A register instruction on a group processor. -/
theorem laneRow_gp {s : State} {t g f op k : Nat} {i : Issue} (h : GpIssues s t g f op k i) (eff : W64 → Lane → Lane) :
    if fallsOut s t g i.pc then
      laneRow f op eff (.gp t g) s = .next (gpTrap (countIssue s t g k) t g stTrap 0x03 (BitVec.ofNat 64 (i.pc + 8)) i.pc)
    else
      ∃ u, laneRow f op eff (.gp t g) s = .next u ∧
        OnlyThreads s u t g k (fun n x =>
          if n ∈ i.threads then
            let l : Lane := { g := x.g, p := x.p }
            let l' := if guardOk i.word x.p then eff i.word l else l
            { x with g := l'.g, p := l'.p, pc := x.pc + 8 }
          else x) := by
  split
  · rename_i ho
    simp only [laneRow, gpRow_due h, gpLanes, fallsOut_countIssue, ho, if_true]
  · rename_i ho
    refine ⟨_, rfl, ?_⟩
    dsimp only
    rw [gpRow_due h]
    simp only [gpLanes, fallsOut_countIssue, ho]
    have e : (fun (x : Thread) => if guardOk i.word x.p = true then
          { x with g := (eff i.word { g := x.g, p := x.p }).g, p := (eff i.word { g := x.g, p := x.p }).p, pc := x.pc + 8 }
        else { x with pc := x.pc + 8 }) = (fun x : Thread =>
            let l : Lane := { g := x.g, p := x.p }
            let l' := if guardOk i.word x.p then eff i.word l else l
            { x with g := l'.g, p := l'.p, pc := x.pc + 8 }) := by
      funext x; split <;> simp_all
    rw [e]
    exact issue_threads h (fun _ x => _)

end Sys2Proof.Machine
end

