-- ==== Sys2Proof/Laws/Memory.lean ====
section
/-! SUPPORT. Laws of memory: every operation that writes it keeps its canonical form and the bytes outside what it writes; the
bytes of a cache line after a store. -/

namespace Sys2Proof.Machine

theorem ff_bit (n : Nat) (h : n < 1024) : (0xFF : BitVec 1024).getLsbD n = decide (n < 8) := by
  have e : (0xFF : BitVec 1024).getLsbD n = (decide (n < 1024) && Nat.testBit 255 n) := BitVec.getLsbD_ofNat _ _ _
  rw [e, show (255 : Nat) = 2 ^ 8 - 1 from rfl, Nat.testBit_two_pow_sub_one]
  simp [h]

theorem lineByte_set (d : BitVec 1024) (k j : Nat) (b : Byte) (hk : k < 128) (hj : j < 128) :
    lineByte (setLineByte d k b) j = if j = k then b else lineByte d j := by
  unfold lineByte setLineByte
  apply BitVec.eq_of_getLsbD_eq
  intro i hi
  rw [BitVec.getLsbD_extractLsb', BitVec.getLsbD_or, BitVec.getLsbD_and, BitVec.getLsbD_not, BitVec.getLsbD_shiftLeft, BitVec.getLsbD_shiftLeft, ff_bit _ (by omega)]
  simp only [BitVec.getLsbD_setWidth, hi, decide_true, Bool.true_and]
  have h1 : 8 * j + i < 1024 := by omega
  have h3 : 8 * j + i - 8 * k < 1024 := by omega
  by_cases h : j = k
  · subst h
    have h2 : ¬ (8 * j + i < 8 * j) := by omega
    have h4 : 8 * j + i - 8 * j = i := by omega
    simp [h1, h2, h4, hi]; omega
  · simp only [h, if_false, BitVec.getLsbD_extractLsb', hi, decide_true, Bool.true_and, h1, h3]
    by_cases hl : 8 * j + i < 8 * k
    · simp [hl]
    · have h5 : ¬ (8 * j + i - 8 * k < 8) := by omega
      have h6 : b.getLsbD (8 * j + i - 8 * k) = false := BitVec.getLsbD_of_ge _ _ (by omega)
      simp [hl, h5, h6]
theorem lineByte_store (d : BitVec 1024) (k : Nat) (bs : List Byte) (j : Nat) (hk : k + bs.length ≤ 128) (hj : j < 128) :
    lineByte (storeBytes d k bs) j = if k ≤ j ∧ j < k + bs.length then bs.getD (j - k) 0 else lineByte d j := by
  unfold storeBytes
  induction bs generalizing d k with
  | nil => simp <;> omega
  | cons b bs ih =>
    simp only [List.length_cons] at hk ⊢
    simp only [upFrom, List.zip_cons_cons, List.foldl_cons]
    rw [ih _ (k + 1) (by omega), lineByte_set _ _ _ _ (by omega) hj]
    by_cases h1 : j = k
    · subst h1; simp <;> omega
    · by_cases h2 : k + 1 ≤ j ∧ j < k + 1 + bs.length
      · have h3 : k ≤ j ∧ j < k + (bs.length + 1) := by omega
        have h4 : j - k = (j - (k + 1)) + 1 := by omega
        rw [if_pos h2, if_pos h3, h4]; simp
      · have h3 : ¬ (k ≤ j ∧ j < k + (bs.length + 1)) := by omega
        rw [if_neg h2, if_neg h3, if_neg h1]

theorem llmPlace_mem (s : State) (n : Nat) (b : Bool) : (llmPlace s n b).mem = s.mem := rfl

theorem llmSoil_mem (s : State) (n : Nat) : (llmSoil s n).mem = s.mem := by
  unfold llmSoil; split <;> try rfl
  dsimp only; split <;> rfl

/-- A line written to its home: its 128 bytes, and nothing else of memory. -/
theorem writeLine_cells (s : State) (n : Nat) (d : BitVec 1024) :
    (writeLine s n d).mem.cells = tputN 0 s.mem.cells (128 * n) (lineBytes d) := by
  unfold writeLine
  dsimp only
  split <;> simp only [llmPlace_mem]
  split <;> rfl

theorem mergeAt_cells (s : State) (pa : Nat) (bs : List Byte) : (mergeAt s pa bs).mem.cells = tputN 0 s.mem.cells pa bs := by
  unfold mergeAt
  dsimp only
  rw [llmSoil_mem]

theorem meetBad_cells (s : State) (b : Nat) (cs : List (Nat × Nat)) : (meetBad s b cs).mem.cells = s.mem.cells := rfl

theorem setEntry_mem (s : State) (n : Nat) (o : Bool) (x : Nat) : (setEntry s n o x).mem = s.mem := rfl

theorem answerRead_cells (s : State) (c pa len : Nat) (d : Option (BitVec 1024)) : (answerRead s c pa len d).mem.cells = s.mem.cells := by
  unfold answerRead
  dsimp only
  split <;> rfl

/-! ### The canonical form -/

theorem foldl_keeps {α β : Type} {P : α → Prop} {f : α → β → α} (hf : ∀ a b, P a → P (f a b)) (l : List β) (a : α) (h : P a) :
    P (l.foldl f a) := by
  induction l generalizing a with
  | nil => exact h
  | cons b l ih => exact ih _ (hf a b h)

theorem writeLine_wf (s : State) (n : Nat) (d : BitVec 1024) (h : Memory.wf s.mem.cells = true) :
    Memory.wf (writeLine s n d).mem.cells = true := by
  rw [writeLine_cells]; exact twf_putN _ _ _ h

theorem mergeAt_wf (s : State) (pa : Nat) (bs : List Byte) (h : Memory.wf s.mem.cells = true) :
    Memory.wf (mergeAt s pa bs).mem.cells = true := by
  rw [mergeAt_cells]; exact twf_putN _ _ _ h

theorem mergeHome_wf (s : State) (c : Nat) (rs : List (Nat × List Byte)) (h : Memory.wf s.mem.cells = true) :
    Memory.wf (mergeHome s c rs).mem.cells = true := by
  unfold mergeHome
  split
  · exact h
  · exact foldl_keeps (P := fun s => Memory.wf s.mem.cells = true) (fun s (r : Nat × List Byte) h => mergeAt_wf s r.1 r.2 h) _ _ h

/-- An uncached request, performed, keeps the canonical form. -/
theorem finishUncached_wf (s : State) (n : Nat) (a : Asker) (h : Memory.wf s.mem.cells = true) :
    Memory.wf (finishUncached s n a).mem.cells = true := by
  unfold finishUncached
  dsimp only
  split
  · rw [answerRead_cells]; exact h
  · exact mergeHome_wf _ _ _ h
  · split
    · exact h
    · exact mergeAt_wf _ _ _ h
  · exact h

theorem recallLine_wf (s : State) (n : Nat) (h : Memory.wf s.mem.cells = true) : Memory.wf (recallLine s n).mem.cells = true := by
  unfold recallLine
  apply foldl_keeps (P := fun s => Memory.wf s.mem.cells = true) (fun s a h => finishUncached_wf s n a h)
  show Memory.wf (State.mem _).cells = true
  dsimp only
  split
  · exact writeLine_wf _ _ _ h
  · exact h

theorem mergeLine_wf (s : State) (pa : Nat) (bs : List Byte) (h : Memory.wf s.mem.cells = true) :
    Memory.wf (mergeLine s pa bs).mem.cells = true := by
  unfold mergeLine
  apply mergeAt_wf
  split
  · exact h
  · exact recallLine_wf _ _ h

/-- An uncached write keeps the canonical form. -/
theorem writeBytes_wf (s : State) (pa : Nat) (bs : List Byte) (h : Memory.wf s.mem.cells = true) :
    Memory.wf (writeBytes s pa bs).mem.cells = true :=
  foldl_keeps (P := fun s => Memory.wf s.mem.cells = true) (fun s x h => mergeLine_wf s x.1 x.2 h) _ _ h

theorem writePieces_wf (s : State) (ps : List (Nat × Nat)) (bs : List Byte) (h : Memory.wf s.mem.cells = true) :
    Memory.wf (writePieces s ps bs).mem.cells = true := by
  induction ps generalizing s bs with
  | nil => exact h
  | cons p ps ih => exact ih _ _ (writeBytes_wf _ _ _ h)

theorem writeStore_wf (s : State) (pa : Nat) (bs : List Byte) (h : Memory.wf s.mem.cells = true) :
    Memory.wf (writeStore s pa bs).mem.cells = true := twf_putN _ _ _ h

theorem zeroRange_wf (s : State) (pa n : Nat) (h : Memory.wf s.mem.cells = true) :
    Memory.wf (zeroRange s pa n).mem.cells = true := twf_filter _ _ h

/-! ### Read after write -/

/-- A byte of a tile store reads what was written last; every other byte is as it was. -/
theorem writeStore_cell (s : State) (pa : Nat) (bs : List Byte) (a : Nat) :
    tget 0 (writeStore s pa bs).mem.cells a =
      if pa ≤ a ∧ a < pa + bs.length then bs.getD (a - pa) 0 else tget 0 s.mem.cells a := tget_putN _ _ _ _

theorem writeLine_cell (s : State) (n : Nat) (d : BitVec 1024) (a : Nat) :
    tget 0 (writeLine s n d).mem.cells a =
      if 128 * n ≤ a ∧ a < 128 * n + (lineBytes d).length then (lineBytes d).getD (a - 128 * n) 0 else tget 0 s.mem.cells a := by
  rw [writeLine_cells]; exact tget_putN _ _ _ _

end Sys2Proof.Machine
end

