-- ==== Sys2Proof/WellFormed.lean ====
section
/-! DEFINITION. Well-formed commands: every operand lies in the range the spec gives the unit, queue, die, link or field
it numbers (R12, R13, R21, R52, R194, R370, R374, R406, R482). -/

namespace Sys2Proof

/-- An issuer that exists: cores 0–127, group processors 0–15 of logical tiles 0–71 (R12, R52). -/
def Agent.wf : Agent → Bool
  | .core c => decide (c < 128)
  | .gp t g => decide (t < 72) && decide (g < 16)

/-- A path that exists (R478). -/
def Path.wf : Path → Bool
  | .port p => decide (p < 2)
  | .eth => true

/-- A transfer that can exist (R333). -/
def Job.wf : Job → Bool
  | .sched t m => decide (t < 72) && decide (m < 4)
  | .cmd q => decide (q < 1024)
  | .run _ => true

/-- A truss link number of R21 (84–87 are not used). -/
def trussLink (l : Nat) : Bool := decide (l < 176) && !(decide (84 ≤ l) && decide (l < 88))

/-- An end that authenticates: link 0–47, or 48 + 1,024 × port + entry for a peer of Ethernet port 0–7 (R410, R428). -/
def handEnd (e : Nat) : Bool := decide (e < 48 + 8192)

/-- A training outcome names truss links with what goes wrong there and channels of stacks with lane masks (R291). -/
def Training.wf (t : Training) : Bool :=
  t.links.all (fun x => trussLink x.1 && (x.2 == 3 || x.2 == 4 || x.2 == 5)) &&
  t.lanes.all (fun x => decide (x.1 < 16) && decide (x.2.1 < 256) && decide (x.2.2 < 1024))

/-- Every operand of the command lies in its range. -/
def Instr.wf : Instr → Bool
  | .cueBoundary => true
  | .callPoint => true
  | .houseCycleBoundary => true
  | .idleTick => true
  | .stallWatchdog p => decide (p < 8)
  | .partitionIdle p => decide (p < 8)
  | .composePosition p => decide (p < 8)
  | .runComplete p _ => decide (p < 8)
  | .contextLoss c => decide (c < 4096)
  | .wardenEstimate die _ _ => decide (die < 106)
  | .fullLoadPeriodEnd die => decide (die < 106)
  | .stepDownDecision => true
  | .stepUpDecision => true
  | .dvfsStepChange => true
  | .pclkStepChange => true
  | .dilutionRise p => decide (p < 8)
  | .dilutionFall p => decide (p < 8)
  | .idleCuePending p => decide (p < 8)
  | .shedAssert => true
  | .shedRelease => true
  | .flowLow tenths => decide (tenths < 256)
  | .flowRestored tenths => decide (tenths < 256)
  | .thermalTrip die celsius => decide (die < 106) && decide (celsius < 256)
  | .tripRecheck die celsius => decide (die < 106) && decide (celsius < 256)
  | .flitRetry link dir _ _ _ => trussLink link && decide (dir < 2)
  | .trussLinkFailure link => trussLink link
  | .tileOutOfService pos => decide (pos < 80)
  | .hubFailure h => decide (h < 8)
  | .fohFailover f => decide (f < 2)
  | .mirrorLinkDown => true
  | .partitionReset p tr => decide (p < 8) && tr.wf
  | .coldReset tr => tr.wf
  | .deviceReset tr => tr.wf
  | .deviceReady => true
  | .sigIndexReserve _ => true
  | .nop q => decide (q < 1025)
  | .fenceSignal q => decide (q < 1025)
  | .fenceWait q => decide (q < 1025)
  | .fenceWaitRead q => decide (q < 1025)
  | .order q => decide (q < 1025)
  | .copy q => decide (q < 1025)
  | .fill q => decide (q < 1025)
  | .copyChecked q => decide (q < 1025)
  | .copyComplete q => decide (q < 1025)
  | .playLoad q _ => decide (q < 1025)
  | .playRun q => decide (q < 1025)
  | .playUnload q => decide (q < 1025)
  | .map q _ => decide (q < 1025)
  | .unmap q => decide (q < 1025)
  | .asInvalidate q => decide (q < 1025)
  | .objCreate q _ => decide (q < 1025)
  | .objRelease q => decide (q < 1025)
  | .objectReleaseEnd obj => decide (obj < 262144)
  | .contextCreate q _ => decide (q < 1025)
  | .contextDestroy q => decide (q < 1025)
  | .abort q _ => decide (q < 1025)
  | .abortEffect q _ => decide (q < 1025)
  | .energyQuery q => decide (q < 1025)
  | .windowOpen q => decide (q < 1025)
  | .windowClose q => decide (q < 1025)
  | .queueCreate q => decide (q < 1025)
  | .queueDestroy q => decide (q < 1025)
  | .partitionSet q => decide (q < 1025)
  | .resetPartition q => decide (q < 1025)
  | .resetDevice q => decide (q < 1025)
  | .tileReset q tr => decide (q < 1025) && tr.wf
  | .tileMap q => decide (q < 1025)
  | .powerCap q => decide (q < 1025)
  | .clockStep q => decide (q < 1025)
  | .calibrate q => decide (q < 1025)
  | .powerState q => decide (q < 1025)
  | .healthRead q => decide (q < 1025)
  | .routeSet q => decide (q < 1025)
  | .linkTrust q => decide (q < 1025)
  | .ethSet q => decide (q < 1025)
  | .peerSet q => decide (q < 1025)
  | .qpSet q => decide (q < 1025)
  | .fwStage q => decide (q < 1025)
  | .fwCommit q => decide (q < 1025)
  | .attest q => decide (q < 1025)
  | .ownerKey q => decide (q < 1025)
  | .command tag packet _ => decide (tag < 2 ^ 32) && decide (packet.length ≤ 32)
  | .regRead tag off => decide (tag < 2 ^ 32) && decide (off < 2 ^ 26)
  | .regWrite tag off _ => decide (tag < 2 ^ 32) && decide (off < 2 ^ 26)
  | .registerWrite port off width _ => decide (port < 2) && decide (off < 2 ^ 26) && decide (width = 1 ∨ width = 2 ∨ width = 4 ∨ width = 8)
  | .callboardWrite port queue _ => decide (port < 2) && decide (queue < 1024)
  | .houseRingWrite port _ => decide (port < 2)
  | .apertureInstall port e _ => decide (port < 2) && decide (e < 1024)
  | .apertureRemove port e _ => decide (port < 2) && decide (e < 1024)
  | .apertureActionEnd port => decide (port < 2)
  | .msixUnmask port vec _ => decide (port < 2) && decide (vec < 2048)
  | .bar2Resize port log2 => decide (port < 2) && decide (30 ≤ log2) && decide (log2 < 41)
  | .gpDebugHalt path => path.wf
  | .gpDebugResume path => path.wf
  | .gpDebugStep path => path.wf
  | .gpDebugRead path => path.wf
  | .gpDebugWrite path => path.wf
  | .gpDebugActionEnd => true
  | .linkRetrain l => decide (l < 48)
  | .podTimeWrite path _ => path.wf
  | .bar0AtomicOp port off op size _ _ => decide (port < 2) && decide (off < 2 ^ 26) && decide (op < 3) && decide (size = 4 ∨ size = 8 ∨ size = 16)
  | .bar2Read port off len => decide (port < 2) && decide (off < 2 ^ 40) && decide (len ≤ 4096)
  | .bar2Write port off _ _ => decide (port < 2) && decide (off < 2 ^ 40)
  | .bar2AtomicOp port off op size _ _ => decide (port < 2) && decide (off < 2 ^ 40) && decide (op < 3) && decide (size = 4 ∨ size = 8 ∨ size = 16)
  | .linkDown port _ => decide (port < 2)
  | .linkReturned port _ lanes => decide (port < 2) && decide (lanes ≤ 16)
  | .holdLimit port => decide (port < 2)
  | .hotReset port => decide (port < 2)
  | .flr port => decide (port < 2)
  | .completionTimeout port tag => decide (port < 2) && decide (tag < 1024)
  | .poisonedCompletion port tag => decide (port < 2) && decide (tag < 1024)
  | .malformedTlp port => decide (port < 2)
  | .receiverError port => decide (port < 2)
  | .mxeWorkList t u => decide (t < 72) && decide (u < 4)
  | .pass t u => decide (t < 72) && decide (u < 4)
  | .combine t u => decide (t < 72) && decide (u < 4)
  | .finish t u => decide (t < 72) && decide (u < 4)
  | .save t u => decide (t < 72) && decide (u < 4)
  | .partialSum t u => decide (t < 72) && decide (u < 4)
  | .vxeWorkList t u => decide (t < 72) && decide (u < 4)
  | .vectorAdd t u => decide (t < 72) && decide (u < 4)
  | .vectorSub t u => decide (t < 72) && decide (u < 4)
  | .vectorMul t u => decide (t < 72) && decide (u < 4)
  | .vectorFma t u => decide (t < 72) && decide (u < 4)
  | .vectorDiv t u => decide (t < 72) && decide (u < 4)
  | .vectorMin t u => decide (t < 72) && decide (u < 4)
  | .vectorMax t u => decide (t < 72) && decide (u < 4)
  | .vectorAbs t u => decide (t < 72) && decide (u < 4)
  | .vectorNeg t u => decide (t < 72) && decide (u < 4)
  | .scaleAdd t u => decide (t < 72) && decide (u < 4)
  | .vectorClamp t u => decide (t < 72) && decide (u < 4)
  | .vectorSelect t u => decide (t < 72) && decide (u < 4)
  | .vectorConvert t u => decide (t < 72) && decide (u < 4)
  | .vectorSqrt t u => decide (t < 72) && decide (u < 4)
  | .vectorRsqrt t u => decide (t < 72) && decide (u < 4)
  | .vectorRcp t u => decide (t < 72) && decide (u < 4)
  | .vectorExp t u => decide (t < 72) && decide (u < 4)
  | .vectorLog t u => decide (t < 72) && decide (u < 4)
  | .vectorTanh t u => decide (t < 72) && decide (u < 4)
  | .vectorSigmoid t u => decide (t < 72) && decide (u < 4)
  | .vectorErf t u => decide (t < 72) && decide (u < 4)
  | .vectorCmp t u => decide (t < 72) && decide (u < 4)
  | .maskLoad t u => decide (t < 72) && decide (u < 4)
  | .reduceSum t u => decide (t < 72) && decide (u < 4)
  | .reduceMax t u => decide (t < 72) && decide (u < 4)
  | .reduceMin t u => decide (t < 72) && decide (u < 4)
  | .reduceArgmax t u => decide (t < 72) && decide (u < 4)
  | .reduceSumsq t u => decide (t < 72) && decide (u < 4)
  | .expSubSum t u => decide (t < 72) && decide (u < 4)
  | .rmsScale t u => decide (t < 72) && decide (u < 4)
  | .meanVar t u => decide (t < 72) && decide (u < 4)
  | .gather t u => decide (t < 72) && decide (u < 4)
  | .scatter t u => decide (t < 72) && decide (u < 4)
  | .scatterAdd t u => decide (t < 72) && decide (u < 4)
  | .sgdMomentum t u => decide (t < 72) && decide (u < 4)
  | .adamw t u => decide (t < 72) && decide (u < 4)
  | .gpWorkList t u => decide (t < 72) && decide (u < 16)
  | .blockRelease t u => decide (t < 72) && decide (u < 16)
  | .moverWorkList t u => decide (t < 72) && decide (u < 4)
  | .transferRecord t u => decide (t < 72) && decide (u < 4)
  | .transferTile job => job.wf
  | .signalNode p _ _ => decide (p < 8)
  | .windowPut p _ _ xfer => decide (p < 8) && decide (xfer < 2 ^ 32)
  | .windowGet p _ _ xfer => decide (p < 8) && decide (xfer < 2 ^ 32)
  | .copyLeavingPartition p _ _ xfer => decide (p < 8) && decide (xfer < 2 ^ 32)
  | .tableWalk stream c va => decide (stream < 4096) && decide (c < 4096) && decide (va < 2 ^ 64)
  | .rdShared x line => decide (x < 200) && decide (line < 2 ^ 41)
  | .rdOwn x line => decide (x < 200) && decide (line < 2 ^ 41)
  | .ownNodata x line => decide (x < 200) && decide (line < 2 ^ 41)
  | .upgrade x line => decide (x < 200) && decide (line < 2 ^ 41)
  | .putS x line => decide (x < 200) && decide (line < 2 ^ 41)
  | .putE x line => decide (x < 200) && decide (line < 2 ^ 41)
  | .putM x line => decide (x < 200) && decide (line < 2 ^ 41)
  | .readOnce c pa len => decide (c < 4096) && decide (pa < 2 ^ 48) && decide (len ≤ 128)
  | .writeInv c pa _ _ => decide (c < 4096) && decide (pa < 2 ^ 48)
  | .homeAtomic c pa op size _ _ => decide (c < 4096) && decide (pa < 2 ^ 48) && decide (op < 3) && decide (size = 4 ∨ size = 8 ∨ size = 16)
  | .downgrade y line => decide (y < 200) && decide (line < 2 ^ 41)
  | .invalidate y line => decide (y < 200) && decide (line < 2 ^ 41)
  | .readOnceSnoop y line => decide (y < 200) && decide (line < 2 ^ 41)
  | .grant x line => decide (x < 200) && decide (line < 2 ^ 41)
  | .darkPeriod stack ch lanes => decide (stack < 16) && decide (ch < 256) && decide (lanes < 1024)
  | .forcedDark stack ch lanes => decide (stack < 16) && decide (ch < 256) && decide (lanes < 1024)
  | .burstRetry pa _ _ lanes _ => decide (pa < 2 ^ 48) && decide (lanes < 1024)
  | .uncorrectableBurst pa => decide (pa < 2 ^ 48)
  | .laneLossOfLock stack ch lane => decide (stack < 16) && decide (ch < 256) && decide (lane < 10)
  | .stackFailure stack => decide (stack < 16)
  | .caps l attempt _ => decide (l < 48) && decide (attempt < 2 ^ 32)
  | .hello l attempt _ => handEnd l && decide (attempt < 2 ^ 32)
  | .proof l attempt _ => handEnd l && decide (attempt < 2 ^ 32)
  | .refuse l attempt _ => handEnd l && decide (attempt < 2 ^ 32)
  | .timeout l => handEnd l
  | .quarantineRetry l => handEnd l
  | .tenonLinkDown l => decide (l < 48)
  | .write l header payload _ => decide (l < 48) && decide (header.length = 4) && decide (payload.length ≤ 256)
  | .readReq l header payload => decide (l < 48) && decide (header.length = 4) && decide (payload.length ≤ 256)
  | .readResp l header payload => decide (l < 48) && decide (header.length = 4) && decide (payload.length ≤ 256)
  | .signal l header payload => decide (l < 48) && decide (header.length = 4) && decide (payload.length ≤ 256)
  | .ack l header payload => decide (l < 48) && decide (header.length = 4) && decide (payload.length ≤ 256)
  | .ackTimeout xfer => decide (xfer < 2 ^ 32)
  | .timeAnnouncement _ => true
  | .announce l header payload _ _ => decide (l < 48) && decide (header.length = 4) && decide (payload.length ≤ 256)
  | .reply l header payload _ => decide (l < 48) && decide (header.length = 4) && decide (payload.length ≤ 256)
  | .lockLoss => true
  | .tenonDatagram port peer _ packet payload _ => decide (port < 8) && decide (peer < 1024) && decide (packet.length = 4) && decide (payload.length ≤ 256)
  | .retransmission port peer => decide (port < 8) && decide (peer < 1024)
  | .rdmaWrite port qpn psn _ va _ _ _ payload => decide (port < 8) && decide (qpn < 2 ^ 24) && decide (psn < 2 ^ 24) && decide (va < 2 ^ 40) && decide (payload.length ≤ 4096)
  | .rdmaReadRequest port qpn psn _ va len _ => decide (port < 8) && decide (qpn < 2 ^ 24) && decide (psn < 2 ^ 24) && decide (va < 2 ^ 40) && decide (len < 2 ^ 32)
  | .arpRequest port ip => decide (port < 8) && decide (ip < 2 ^ 128)
  | .neighborSolicitation port ip => decide (port < 8) && decide (ip < 2 ^ 128)
  | .echoRequest port ip _ => decide (port < 8) && decide (ip < 2 ^ 128)
  | .pause port prio _ => decide (port < 8) && decide (prio < 8)
  | .interrupt c => decide (c < 128)
  | .add a => a.wf
  | .sub a => a.wf
  | .mul a => a.wf
  | .mulhi a => a.wf
  | .div a => a.wf
  | .rem a => a.wf
  | .imin a => a.wf
  | .imax a => a.wf
  | .andOp a => a.wf
  | .orOp a => a.wf
  | .xorOp a => a.wf
  | .notOp a => a.wf
  | .shl a => a.wf
  | .shr a => a.wf
  | .popc a => a.wf
  | .clz a => a.wf
  | .mad a => a.wf
  | .setp a => a.wf
  | .sel a => a.wf
  | .mov a => a.wf
  | .pand a => a.wf
  | .por a => a.wf
  | .pxor a => a.wf
  | .pnot a => a.wf
  | .p2r a => a.wf
  | .r2p a => a.wf
  | .addi a => a.wf
  | .muli a => a.wf
  | .andi a => a.wf
  | .ori a => a.wf
  | .xori a => a.wf
  | .shli a => a.wf
  | .shri a => a.wf
  | .setpi a => a.wf
  | .movi a => a.wf
  | .movhi a => a.wf
  | .fadd a => a.wf
  | .fsub a => a.wf
  | .fmul a => a.wf
  | .ffma a => a.wf
  | .fdiv a => a.wf
  | .fsqrt a => a.wf
  | .fmin a => a.wf
  | .fmax a => a.wf
  | .fabs a => a.wf
  | .fneg a => a.wf
  | .fsetp a => a.wf
  | .frcp a => a.wf
  | .frsqrt a => a.wf
  | .fexp a => a.wf
  | .flog a => a.wf
  | .faddi a => a.wf
  | .fmuli a => a.wf
  | .fcvt a => a.wf
  | .ftoi a => a.wf
  | .itof a => a.wf
  | .load a => a.wf
  | .store a => a.wf
  | .zline a => a.wf
  | .prefetch a => a.wf
  | .memFence a => a.wf
  | .aadd a => a.wf
  | .afadd a => a.wf
  | .amin a => a.wf
  | .amax a => a.wf
  | .aand a => a.wf
  | .aor a => a.wf
  | .axor a => a.wf
  | .aswap a => a.wf
  | .acas a => a.wf
  | .nopInstr a => a.wf
  | .bra a => a.wf
  | .brx a => a.wf
  | .call a => a.wf
  | .exitThread a => a.wf
  | .barBlock a => a.wf
  | .barCluster a => a.wf
  | .trap a => a.wf
  | .eret a => a.wf
  | .wfi a => a.wf
  | .sread a => a.wf
  | .swrite a => a.wf
  | .shflIdx a => a.wf
  | .shflUp a => a.wf
  | .shflDown a => a.wf
  | .shflXor a => a.wf
  | .voteAll a => a.wf
  | .voteAny a => a.wf
  | .voteBallot a => a.wf
  | .barGroup a => a.wf
  | .gmma a => a.wf
  | .wclkHouseCycle => true
  | .busbarPowerLoss => true
  | .busMasterEnableSet port => decide (port < 2)
  | .readCompletion port tag _ => decide (port < 2) && decide (tag < 1024)
  | .phyTrained l _ => decide (l < 48)
  | .ethernetLinkUp l rate => decide (l < 8) && decide (rate = 200 ∨ rate = 400)
  | .ethernetLinkDown l => decide (l < 8)
  | .frameRetry l _ => decide (l < 48)
  | .linkCtlWrite path l _ => path.wf && decide (l < 48)
  | .modulePartFault part => decide (part < 5)
  | .badOpcodePacket q => decide (q < 1025)
  | .illegalWord c => decide (c < 128)

end Sys2Proof
end

