-- ==== Sys2Proof/Laws/PerInstr.lean ====
section
/-! SUPPORT. Statements made per command, with one lemma for each row. -/

namespace Sys2Proof.Laws

/-- The row of the command has a well-formed command: well-formedness shuts out no row of the table. -/
def Wf.Statement (i : Instr) : Prop := ∃ j : Instr, j.ctorIdx = i.ctorIdx ∧ j.wf = true

theorem Wf.cueBoundary : Wf.Statement (.cueBoundary) := ⟨.cueBoundary, rfl, by decide⟩
theorem Wf.callPoint : Wf.Statement (.callPoint) := ⟨.callPoint, rfl, by decide⟩
theorem Wf.houseCycleBoundary : Wf.Statement (.houseCycleBoundary) := ⟨.houseCycleBoundary, rfl, by decide⟩
theorem Wf.idleTick : Wf.Statement (.idleTick) := ⟨.idleTick, rfl, by decide⟩
theorem Wf.stallWatchdog (p : Nat) : Wf.Statement (.stallWatchdog p) := ⟨.stallWatchdog 0, rfl, by decide⟩
theorem Wf.partitionIdle (p : Nat) : Wf.Statement (.partitionIdle p) := ⟨.partitionIdle 0, rfl, by decide⟩
theorem Wf.composePosition (p : Nat) : Wf.Statement (.composePosition p) := ⟨.composePosition 0, rfl, by decide⟩
theorem Wf.runComplete (p : Nat) (run : Nat) : Wf.Statement (.runComplete p run) := ⟨.runComplete 0 0, rfl, by decide⟩
theorem Wf.contextLoss (c : Nat) : Wf.Statement (.contextLoss c) := ⟨.contextLoss 0, rfl, by decide⟩
theorem Wf.wardenEstimate (die : Nat) (counts : List Nat) (temps : List Int) : Wf.Statement (.wardenEstimate die counts temps) := ⟨.wardenEstimate 0 [] [], rfl, by decide⟩
theorem Wf.fullLoadPeriodEnd (die : Nat) : Wf.Statement (.fullLoadPeriodEnd die) := ⟨.fullLoadPeriodEnd 0, rfl, by decide⟩
theorem Wf.stepDownDecision : Wf.Statement (.stepDownDecision) := ⟨.stepDownDecision, rfl, by decide⟩
theorem Wf.stepUpDecision : Wf.Statement (.stepUpDecision) := ⟨.stepUpDecision, rfl, by decide⟩
theorem Wf.dvfsStepChange : Wf.Statement (.dvfsStepChange) := ⟨.dvfsStepChange, rfl, by decide⟩
theorem Wf.pclkStepChange : Wf.Statement (.pclkStepChange) := ⟨.pclkStepChange, rfl, by decide⟩
theorem Wf.dilutionRise (p : Nat) : Wf.Statement (.dilutionRise p) := ⟨.dilutionRise 0, rfl, by decide⟩
theorem Wf.dilutionFall (p : Nat) : Wf.Statement (.dilutionFall p) := ⟨.dilutionFall 0, rfl, by decide⟩
theorem Wf.idleCuePending (p : Nat) : Wf.Statement (.idleCuePending p) := ⟨.idleCuePending 0, rfl, by decide⟩
theorem Wf.shedAssert : Wf.Statement (.shedAssert) := ⟨.shedAssert, rfl, by decide⟩
theorem Wf.shedRelease : Wf.Statement (.shedRelease) := ⟨.shedRelease, rfl, by decide⟩
theorem Wf.flowLow (tenths : Nat) : Wf.Statement (.flowLow tenths) := ⟨.flowLow 0, rfl, by decide⟩
theorem Wf.flowRestored (tenths : Nat) : Wf.Statement (.flowRestored tenths) := ⟨.flowRestored 0, rfl, by decide⟩
theorem Wf.thermalTrip (die : Nat) (celsius : Nat) : Wf.Statement (.thermalTrip die celsius) := ⟨.thermalTrip 0 0, rfl, by decide⟩
theorem Wf.tripRecheck (die : Nat) (celsius : Nat) : Wf.Statement (.tripRecheck die celsius) := ⟨.tripRecheck 0 0, rfl, by decide⟩
theorem Wf.flitRetry (link : Nat) (dir : Nat) (data : BitVec 1024) (err : BitVec 1064) (back : Bool) : Wf.Statement (.flitRetry link dir data err back) := ⟨.flitRetry 0 0 0 0 false, rfl, by decide⟩
theorem Wf.trussLinkFailure (link : Nat) : Wf.Statement (.trussLinkFailure link) := ⟨.trussLinkFailure 0, rfl, by decide⟩
theorem Wf.tileOutOfService (pos : Nat) : Wf.Statement (.tileOutOfService pos) := ⟨.tileOutOfService 0, rfl, by decide⟩
theorem Wf.hubFailure (h : Nat) : Wf.Statement (.hubFailure h) := ⟨.hubFailure 0, rfl, by decide⟩
theorem Wf.fohFailover (f : Nat) : Wf.Statement (.fohFailover f) := ⟨.fohFailover 0, rfl, by decide⟩
theorem Wf.mirrorLinkDown : Wf.Statement (.mirrorLinkDown) := ⟨.mirrorLinkDown, rfl, by decide⟩
theorem Wf.partitionReset (p : Nat) (tr : Training) : Wf.Statement (.partitionReset p tr) := ⟨.partitionReset 0 ⟨[], []⟩, rfl, by decide⟩
theorem Wf.coldReset (tr : Training) : Wf.Statement (.coldReset tr) := ⟨.coldReset ⟨[], []⟩, rfl, by decide⟩
theorem Wf.deviceReset (tr : Training) : Wf.Statement (.deviceReset tr) := ⟨.deviceReset ⟨[], []⟩, rfl, by decide⟩
theorem Wf.deviceReady : Wf.Statement (.deviceReady) := ⟨.deviceReady, rfl, by decide⟩
theorem Wf.sigIndexReserve (stored : Bool) : Wf.Statement (.sigIndexReserve stored) := ⟨.sigIndexReserve false, rfl, by decide⟩
theorem Wf.nop (q : Nat) : Wf.Statement (.nop q) := ⟨.nop 0, rfl, by decide⟩
theorem Wf.fenceSignal (q : Nat) : Wf.Statement (.fenceSignal q) := ⟨.fenceSignal 0, rfl, by decide⟩
theorem Wf.fenceWait (q : Nat) : Wf.Statement (.fenceWait q) := ⟨.fenceWait 0, rfl, by decide⟩
theorem Wf.fenceWaitRead (q : Nat) : Wf.Statement (.fenceWaitRead q) := ⟨.fenceWaitRead 0, rfl, by decide⟩
theorem Wf.order (q : Nat) : Wf.Statement (.order q) := ⟨.order 0, rfl, by decide⟩
theorem Wf.copy (q : Nat) : Wf.Statement (.copy q) := ⟨.copy 0, rfl, by decide⟩
theorem Wf.fill (q : Nat) : Wf.Statement (.fill q) := ⟨.fill 0, rfl, by decide⟩
theorem Wf.copyChecked (q : Nat) : Wf.Statement (.copyChecked q) := ⟨.copyChecked 0, rfl, by decide⟩
theorem Wf.copyComplete (q : Nat) : Wf.Statement (.copyComplete q) := ⟨.copyComplete 0, rfl, by decide⟩
theorem Wf.playLoad (q : Nat) (plan : Plan) : Wf.Statement (.playLoad q plan) := ⟨.playLoad 0 ⟨[], [], [], [], [], [], [], [], []⟩, rfl, by decide⟩
theorem Wf.playRun (q : Nat) : Wf.Statement (.playRun q) := ⟨.playRun 0, rfl, by decide⟩
theorem Wf.playUnload (q : Nat) : Wf.Statement (.playUnload q) := ⟨.playUnload 0, rfl, by decide⟩
theorem Wf.map (q : Nat) (picks : List Nat) : Wf.Statement (.map q picks) := ⟨.map 0 [], rfl, by decide⟩
theorem Wf.unmap (q : Nat) : Wf.Statement (.unmap q) := ⟨.unmap 0, rfl, by decide⟩
theorem Wf.asInvalidate (q : Nat) : Wf.Statement (.asInvalidate q) := ⟨.asInvalidate 0, rfl, by decide⟩
theorem Wf.objCreate (q : Nat) (picks : List Nat) : Wf.Statement (.objCreate q picks) := ⟨.objCreate 0 [], rfl, by decide⟩
theorem Wf.objRelease (q : Nat) : Wf.Statement (.objRelease q) := ⟨.objRelease 0, rfl, by decide⟩
theorem Wf.objectReleaseEnd (obj : Nat) : Wf.Statement (.objectReleaseEnd obj) := ⟨.objectReleaseEnd 0, rfl, by decide⟩
theorem Wf.contextCreate (q : Nat) (picks : List Nat) : Wf.Statement (.contextCreate q picks) := ⟨.contextCreate 0 [], rfl, by decide⟩
theorem Wf.contextDestroy (q : Nat) : Wf.Statement (.contextDestroy q) := ⟨.contextDestroy 0, rfl, by decide⟩
theorem Wf.abort (q : Nat) (idx : Nat) : Wf.Statement (.abort q idx) := ⟨.abort 0 0, rfl, by decide⟩
theorem Wf.abortEffect (q : Nat) (idx : Nat) : Wf.Statement (.abortEffect q idx) := ⟨.abortEffect 0 0, rfl, by decide⟩
theorem Wf.energyQuery (q : Nat) : Wf.Statement (.energyQuery q) := ⟨.energyQuery 0, rfl, by decide⟩
theorem Wf.windowOpen (q : Nat) : Wf.Statement (.windowOpen q) := ⟨.windowOpen 0, rfl, by decide⟩
theorem Wf.windowClose (q : Nat) : Wf.Statement (.windowClose q) := ⟨.windowClose 0, rfl, by decide⟩
theorem Wf.queueCreate (q : Nat) : Wf.Statement (.queueCreate q) := ⟨.queueCreate 0, rfl, by decide⟩
theorem Wf.queueDestroy (q : Nat) : Wf.Statement (.queueDestroy q) := ⟨.queueDestroy 0, rfl, by decide⟩
theorem Wf.partitionSet (q : Nat) : Wf.Statement (.partitionSet q) := ⟨.partitionSet 0, rfl, by decide⟩
theorem Wf.resetPartition (q : Nat) : Wf.Statement (.resetPartition q) := ⟨.resetPartition 0, rfl, by decide⟩
theorem Wf.resetDevice (q : Nat) : Wf.Statement (.resetDevice q) := ⟨.resetDevice 0, rfl, by decide⟩
theorem Wf.tileReset (q : Nat) (tr : Training) : Wf.Statement (.tileReset q tr) := ⟨.tileReset 0 ⟨[], []⟩, rfl, by decide⟩
theorem Wf.tileMap (q : Nat) : Wf.Statement (.tileMap q) := ⟨.tileMap 0, rfl, by decide⟩
theorem Wf.powerCap (q : Nat) : Wf.Statement (.powerCap q) := ⟨.powerCap 0, rfl, by decide⟩
theorem Wf.clockStep (q : Nat) : Wf.Statement (.clockStep q) := ⟨.clockStep 0, rfl, by decide⟩
theorem Wf.calibrate (q : Nat) : Wf.Statement (.calibrate q) := ⟨.calibrate 0, rfl, by decide⟩
theorem Wf.powerState (q : Nat) : Wf.Statement (.powerState q) := ⟨.powerState 0, rfl, by decide⟩
theorem Wf.healthRead (q : Nat) : Wf.Statement (.healthRead q) := ⟨.healthRead 0, rfl, by decide⟩
theorem Wf.routeSet (q : Nat) : Wf.Statement (.routeSet q) := ⟨.routeSet 0, rfl, by decide⟩
theorem Wf.linkTrust (q : Nat) : Wf.Statement (.linkTrust q) := ⟨.linkTrust 0, rfl, by decide⟩
theorem Wf.ethSet (q : Nat) : Wf.Statement (.ethSet q) := ⟨.ethSet 0, rfl, by decide⟩
theorem Wf.peerSet (q : Nat) : Wf.Statement (.peerSet q) := ⟨.peerSet 0, rfl, by decide⟩
theorem Wf.qpSet (q : Nat) : Wf.Statement (.qpSet q) := ⟨.qpSet 0, rfl, by decide⟩
theorem Wf.fwStage (q : Nat) : Wf.Statement (.fwStage q) := ⟨.fwStage 0, rfl, by decide⟩
theorem Wf.fwCommit (q : Nat) : Wf.Statement (.fwCommit q) := ⟨.fwCommit 0, rfl, by decide⟩
theorem Wf.attest (q : Nat) : Wf.Statement (.attest q) := ⟨.attest 0, rfl, by decide⟩
theorem Wf.ownerKey (q : Nat) : Wf.Statement (.ownerKey q) := ⟨.ownerKey 0, rfl, by decide⟩
theorem Wf.command (tag : Nat) (packet : List W64) (data : List Byte) : Wf.Statement (.command tag packet data) := ⟨.command 0 [] [], rfl, by decide⟩
theorem Wf.regRead (tag : Nat) (off : Nat) : Wf.Statement (.regRead tag off) := ⟨.regRead 0 0, rfl, by decide⟩
theorem Wf.regWrite (tag : Nat) (off : Nat) (value : W64) : Wf.Statement (.regWrite tag off value) := ⟨.regWrite 0 0 0, rfl, by decide⟩
theorem Wf.registerWrite (port : Nat) (off : Nat) (width : Nat) (value : W64) : Wf.Statement (.registerWrite port off width value) := ⟨.registerWrite 0 0 4 0, rfl, by decide⟩
theorem Wf.callboardWrite (port : Nat) (queue : Nat) (value : W64) : Wf.Statement (.callboardWrite port queue value) := ⟨.callboardWrite 0 0 0, rfl, by decide⟩
theorem Wf.houseRingWrite (port : Nat) (value : W64) : Wf.Statement (.houseRingWrite port value) := ⟨.houseRingWrite 0 0, rfl, by decide⟩
theorem Wf.apertureInstall (port : Nat) (e : Nat) (value : W64) : Wf.Statement (.apertureInstall port e value) := ⟨.apertureInstall 0 0 0, rfl, by decide⟩
theorem Wf.apertureRemove (port : Nat) (e : Nat) (value : W64) : Wf.Statement (.apertureRemove port e value) := ⟨.apertureRemove 0 0 0, rfl, by decide⟩
theorem Wf.apertureActionEnd (port : Nat) : Wf.Statement (.apertureActionEnd port) := ⟨.apertureActionEnd 0, rfl, by decide⟩
theorem Wf.msixUnmask (port : Nat) (vec : Nat) (control : BitVec 32) : Wf.Statement (.msixUnmask port vec control) := ⟨.msixUnmask 0 0 0, rfl, by decide⟩
theorem Wf.bar2Resize (port : Nat) (log2 : Nat) : Wf.Statement (.bar2Resize port log2) := ⟨.bar2Resize 0 30, rfl, by decide⟩
theorem Wf.gpDebugHalt (path : Path) : Wf.Statement (.gpDebugHalt path) := ⟨.gpDebugHalt .eth, rfl, by decide⟩
theorem Wf.gpDebugResume (path : Path) : Wf.Statement (.gpDebugResume path) := ⟨.gpDebugResume .eth, rfl, by decide⟩
theorem Wf.gpDebugStep (path : Path) : Wf.Statement (.gpDebugStep path) := ⟨.gpDebugStep .eth, rfl, by decide⟩
theorem Wf.gpDebugRead (path : Path) : Wf.Statement (.gpDebugRead path) := ⟨.gpDebugRead .eth, rfl, by decide⟩
theorem Wf.gpDebugWrite (path : Path) : Wf.Statement (.gpDebugWrite path) := ⟨.gpDebugWrite .eth, rfl, by decide⟩
theorem Wf.gpDebugActionEnd : Wf.Statement (.gpDebugActionEnd) := ⟨.gpDebugActionEnd, rfl, by decide⟩
theorem Wf.linkRetrain (l : Nat) : Wf.Statement (.linkRetrain l) := ⟨.linkRetrain 0, rfl, by decide⟩
theorem Wf.podTimeWrite (path : Path) (ns : W64) : Wf.Statement (.podTimeWrite path ns) := ⟨.podTimeWrite .eth 0, rfl, by decide⟩
theorem Wf.bar0AtomicOp (port : Nat) (off : Nat) (op : Nat) (size : Nat) (operand : W64) (comparand : W64) : Wf.Statement (.bar0AtomicOp port off op size operand comparand) := ⟨.bar0AtomicOp 0 0 0 8 0 0, rfl, by decide⟩
theorem Wf.bar2Read (port : Nat) (off : Nat) (len : Nat) : Wf.Statement (.bar2Read port off len) := ⟨.bar2Read 0 0 0, rfl, by decide⟩
theorem Wf.bar2Write (port : Nat) (off : Nat) (data : List Byte) (poisoned : Bool) : Wf.Statement (.bar2Write port off data poisoned) := ⟨.bar2Write 0 0 [] false, rfl, by decide⟩
theorem Wf.bar2AtomicOp (port : Nat) (off : Nat) (op : Nat) (size : Nat) (operand : W64) (comparand : W64) : Wf.Statement (.bar2AtomicOp port off op size operand comparand) := ⟨.bar2AtomicOp 0 0 0 8 0 0, rfl, by decide⟩
theorem Wf.linkDown (port : Nat) (bmeCleared : Bool) : Wf.Statement (.linkDown port bmeCleared) := ⟨.linkDown 0 false, rfl, by decide⟩
theorem Wf.linkReturned (port : Nat) (gen : Nat) (lanes : Nat) : Wf.Statement (.linkReturned port gen lanes) := ⟨.linkReturned 0 0 0, rfl, by decide⟩
theorem Wf.holdLimit (port : Nat) : Wf.Statement (.holdLimit port) := ⟨.holdLimit 0, rfl, by decide⟩
theorem Wf.hotReset (port : Nat) : Wf.Statement (.hotReset port) := ⟨.hotReset 0, rfl, by decide⟩
theorem Wf.flr (port : Nat) : Wf.Statement (.flr port) := ⟨.flr 0, rfl, by decide⟩
theorem Wf.completionTimeout (port : Nat) (tag : Nat) : Wf.Statement (.completionTimeout port tag) := ⟨.completionTimeout 0 0, rfl, by decide⟩
theorem Wf.poisonedCompletion (port : Nat) (tag : Nat) : Wf.Statement (.poisonedCompletion port tag) := ⟨.poisonedCompletion 0 0, rfl, by decide⟩
theorem Wf.malformedTlp (port : Nat) : Wf.Statement (.malformedTlp port) := ⟨.malformedTlp 0, rfl, by decide⟩
theorem Wf.receiverError (port : Nat) : Wf.Statement (.receiverError port) := ⟨.receiverError 0, rfl, by decide⟩
theorem Wf.mxeWorkList (t : Nat) (u : Nat) : Wf.Statement (.mxeWorkList t u) := ⟨.mxeWorkList 0 0, rfl, by decide⟩
theorem Wf.pass (t : Nat) (u : Nat) : Wf.Statement (.pass t u) := ⟨.pass 0 0, rfl, by decide⟩
theorem Wf.combine (t : Nat) (u : Nat) : Wf.Statement (.combine t u) := ⟨.combine 0 0, rfl, by decide⟩
theorem Wf.finish (t : Nat) (u : Nat) : Wf.Statement (.finish t u) := ⟨.finish 0 0, rfl, by decide⟩
theorem Wf.save (t : Nat) (u : Nat) : Wf.Statement (.save t u) := ⟨.save 0 0, rfl, by decide⟩
theorem Wf.partialSum (t : Nat) (u : Nat) : Wf.Statement (.partialSum t u) := ⟨.partialSum 0 0, rfl, by decide⟩
theorem Wf.vxeWorkList (t : Nat) (u : Nat) : Wf.Statement (.vxeWorkList t u) := ⟨.vxeWorkList 0 0, rfl, by decide⟩
theorem Wf.vectorAdd (t : Nat) (u : Nat) : Wf.Statement (.vectorAdd t u) := ⟨.vectorAdd 0 0, rfl, by decide⟩
theorem Wf.vectorSub (t : Nat) (u : Nat) : Wf.Statement (.vectorSub t u) := ⟨.vectorSub 0 0, rfl, by decide⟩
theorem Wf.vectorMul (t : Nat) (u : Nat) : Wf.Statement (.vectorMul t u) := ⟨.vectorMul 0 0, rfl, by decide⟩
theorem Wf.vectorFma (t : Nat) (u : Nat) : Wf.Statement (.vectorFma t u) := ⟨.vectorFma 0 0, rfl, by decide⟩
theorem Wf.vectorDiv (t : Nat) (u : Nat) : Wf.Statement (.vectorDiv t u) := ⟨.vectorDiv 0 0, rfl, by decide⟩
theorem Wf.vectorMin (t : Nat) (u : Nat) : Wf.Statement (.vectorMin t u) := ⟨.vectorMin 0 0, rfl, by decide⟩
theorem Wf.vectorMax (t : Nat) (u : Nat) : Wf.Statement (.vectorMax t u) := ⟨.vectorMax 0 0, rfl, by decide⟩
theorem Wf.vectorAbs (t : Nat) (u : Nat) : Wf.Statement (.vectorAbs t u) := ⟨.vectorAbs 0 0, rfl, by decide⟩
theorem Wf.vectorNeg (t : Nat) (u : Nat) : Wf.Statement (.vectorNeg t u) := ⟨.vectorNeg 0 0, rfl, by decide⟩
theorem Wf.scaleAdd (t : Nat) (u : Nat) : Wf.Statement (.scaleAdd t u) := ⟨.scaleAdd 0 0, rfl, by decide⟩
theorem Wf.vectorClamp (t : Nat) (u : Nat) : Wf.Statement (.vectorClamp t u) := ⟨.vectorClamp 0 0, rfl, by decide⟩
theorem Wf.vectorSelect (t : Nat) (u : Nat) : Wf.Statement (.vectorSelect t u) := ⟨.vectorSelect 0 0, rfl, by decide⟩
theorem Wf.vectorConvert (t : Nat) (u : Nat) : Wf.Statement (.vectorConvert t u) := ⟨.vectorConvert 0 0, rfl, by decide⟩
theorem Wf.vectorSqrt (t : Nat) (u : Nat) : Wf.Statement (.vectorSqrt t u) := ⟨.vectorSqrt 0 0, rfl, by decide⟩
theorem Wf.vectorRsqrt (t : Nat) (u : Nat) : Wf.Statement (.vectorRsqrt t u) := ⟨.vectorRsqrt 0 0, rfl, by decide⟩
theorem Wf.vectorRcp (t : Nat) (u : Nat) : Wf.Statement (.vectorRcp t u) := ⟨.vectorRcp 0 0, rfl, by decide⟩
theorem Wf.vectorExp (t : Nat) (u : Nat) : Wf.Statement (.vectorExp t u) := ⟨.vectorExp 0 0, rfl, by decide⟩
theorem Wf.vectorLog (t : Nat) (u : Nat) : Wf.Statement (.vectorLog t u) := ⟨.vectorLog 0 0, rfl, by decide⟩
theorem Wf.vectorTanh (t : Nat) (u : Nat) : Wf.Statement (.vectorTanh t u) := ⟨.vectorTanh 0 0, rfl, by decide⟩
theorem Wf.vectorSigmoid (t : Nat) (u : Nat) : Wf.Statement (.vectorSigmoid t u) := ⟨.vectorSigmoid 0 0, rfl, by decide⟩
theorem Wf.vectorErf (t : Nat) (u : Nat) : Wf.Statement (.vectorErf t u) := ⟨.vectorErf 0 0, rfl, by decide⟩
theorem Wf.vectorCmp (t : Nat) (u : Nat) : Wf.Statement (.vectorCmp t u) := ⟨.vectorCmp 0 0, rfl, by decide⟩
theorem Wf.maskLoad (t : Nat) (u : Nat) : Wf.Statement (.maskLoad t u) := ⟨.maskLoad 0 0, rfl, by decide⟩
theorem Wf.reduceSum (t : Nat) (u : Nat) : Wf.Statement (.reduceSum t u) := ⟨.reduceSum 0 0, rfl, by decide⟩
theorem Wf.reduceMax (t : Nat) (u : Nat) : Wf.Statement (.reduceMax t u) := ⟨.reduceMax 0 0, rfl, by decide⟩
theorem Wf.reduceMin (t : Nat) (u : Nat) : Wf.Statement (.reduceMin t u) := ⟨.reduceMin 0 0, rfl, by decide⟩
theorem Wf.reduceArgmax (t : Nat) (u : Nat) : Wf.Statement (.reduceArgmax t u) := ⟨.reduceArgmax 0 0, rfl, by decide⟩
theorem Wf.reduceSumsq (t : Nat) (u : Nat) : Wf.Statement (.reduceSumsq t u) := ⟨.reduceSumsq 0 0, rfl, by decide⟩
theorem Wf.expSubSum (t : Nat) (u : Nat) : Wf.Statement (.expSubSum t u) := ⟨.expSubSum 0 0, rfl, by decide⟩
theorem Wf.rmsScale (t : Nat) (u : Nat) : Wf.Statement (.rmsScale t u) := ⟨.rmsScale 0 0, rfl, by decide⟩
theorem Wf.meanVar (t : Nat) (u : Nat) : Wf.Statement (.meanVar t u) := ⟨.meanVar 0 0, rfl, by decide⟩
theorem Wf.gather (t : Nat) (u : Nat) : Wf.Statement (.gather t u) := ⟨.gather 0 0, rfl, by decide⟩
theorem Wf.scatter (t : Nat) (u : Nat) : Wf.Statement (.scatter t u) := ⟨.scatter 0 0, rfl, by decide⟩
theorem Wf.scatterAdd (t : Nat) (u : Nat) : Wf.Statement (.scatterAdd t u) := ⟨.scatterAdd 0 0, rfl, by decide⟩
theorem Wf.sgdMomentum (t : Nat) (u : Nat) : Wf.Statement (.sgdMomentum t u) := ⟨.sgdMomentum 0 0, rfl, by decide⟩
theorem Wf.adamw (t : Nat) (u : Nat) : Wf.Statement (.adamw t u) := ⟨.adamw 0 0, rfl, by decide⟩
theorem Wf.gpWorkList (t : Nat) (u : Nat) : Wf.Statement (.gpWorkList t u) := ⟨.gpWorkList 0 0, rfl, by decide⟩
theorem Wf.blockRelease (t : Nat) (u : Nat) : Wf.Statement (.blockRelease t u) := ⟨.blockRelease 0 0, rfl, by decide⟩
theorem Wf.moverWorkList (t : Nat) (u : Nat) : Wf.Statement (.moverWorkList t u) := ⟨.moverWorkList 0 0, rfl, by decide⟩
theorem Wf.transferRecord (t : Nat) (u : Nat) : Wf.Statement (.transferRecord t u) := ⟨.transferRecord 0 0, rfl, by decide⟩
theorem Wf.transferTile (job : Job) : Wf.Statement (.transferTile job) := ⟨.transferTile (.run 0), rfl, by decide⟩
theorem Wf.signalNode (p : Nat) (run : Nat) (node : Nat) : Wf.Statement (.signalNode p run node) := ⟨.signalNode 0 0 0, rfl, by decide⟩
theorem Wf.windowPut (p : Nat) (run : Nat) (node : Nat) (xfer : Nat) : Wf.Statement (.windowPut p run node xfer) := ⟨.windowPut 0 0 0 0, rfl, by decide⟩
theorem Wf.windowGet (p : Nat) (run : Nat) (node : Nat) (xfer : Nat) : Wf.Statement (.windowGet p run node xfer) := ⟨.windowGet 0 0 0 0, rfl, by decide⟩
theorem Wf.copyLeavingPartition (p : Nat) (run : Nat) (node : Nat) (xfer : Nat) : Wf.Statement (.copyLeavingPartition p run node xfer) := ⟨.copyLeavingPartition 0 0 0 0, rfl, by decide⟩
theorem Wf.tableWalk (stream : Nat) (c : Nat) (va : Nat) : Wf.Statement (.tableWalk stream c va) := ⟨.tableWalk 0 0 0, rfl, by decide⟩
theorem Wf.rdShared (x : Nat) (line : Nat) : Wf.Statement (.rdShared x line) := ⟨.rdShared 0 0, rfl, by decide⟩
theorem Wf.rdOwn (x : Nat) (line : Nat) : Wf.Statement (.rdOwn x line) := ⟨.rdOwn 0 0, rfl, by decide⟩
theorem Wf.ownNodata (x : Nat) (line : Nat) : Wf.Statement (.ownNodata x line) := ⟨.ownNodata 0 0, rfl, by decide⟩
theorem Wf.upgrade (x : Nat) (line : Nat) : Wf.Statement (.upgrade x line) := ⟨.upgrade 0 0, rfl, by decide⟩
theorem Wf.putS (x : Nat) (line : Nat) : Wf.Statement (.putS x line) := ⟨.putS 0 0, rfl, by decide⟩
theorem Wf.putE (x : Nat) (line : Nat) : Wf.Statement (.putE x line) := ⟨.putE 0 0, rfl, by decide⟩
theorem Wf.putM (x : Nat) (line : Nat) : Wf.Statement (.putM x line) := ⟨.putM 0 0, rfl, by decide⟩
theorem Wf.readOnce (c : Nat) (pa : Nat) (len : Nat) : Wf.Statement (.readOnce c pa len) := ⟨.readOnce 0 0 0, rfl, by decide⟩
theorem Wf.writeInv (c : Nat) (pa : Nat) (mask : Nat) (data : List Byte) : Wf.Statement (.writeInv c pa mask data) := ⟨.writeInv 0 0 0 [], rfl, by decide⟩
theorem Wf.homeAtomic (c : Nat) (pa : Nat) (op : Nat) (size : Nat) (operand : W64) (comparand : W64) : Wf.Statement (.homeAtomic c pa op size operand comparand) := ⟨.homeAtomic 0 0 0 8 0 0, rfl, by decide⟩
theorem Wf.downgrade (y : Nat) (line : Nat) : Wf.Statement (.downgrade y line) := ⟨.downgrade 0 0, rfl, by decide⟩
theorem Wf.invalidate (y : Nat) (line : Nat) : Wf.Statement (.invalidate y line) := ⟨.invalidate 0 0, rfl, by decide⟩
theorem Wf.readOnceSnoop (y : Nat) (line : Nat) : Wf.Statement (.readOnceSnoop y line) := ⟨.readOnceSnoop 0 0, rfl, by decide⟩
theorem Wf.grant (x : Nat) (line : Nat) : Wf.Statement (.grant x line) := ⟨.grant 0 0, rfl, by decide⟩
theorem Wf.darkPeriod (stack : Nat) (ch : Nat) (lanes : Nat) : Wf.Statement (.darkPeriod stack ch lanes) := ⟨.darkPeriod 0 0 0, rfl, by decide⟩
theorem Wf.forcedDark (stack : Nat) (ch : Nat) (lanes : Nat) : Wf.Statement (.forcedDark stack ch lanes) := ⟨.forcedDark 0 0 0, rfl, by decide⟩
theorem Wf.burstRetry (pa : Nat) (first : BitVec 288) (reread : BitVec 288) (lanes : Nat) (again : BitVec 288) : Wf.Statement (.burstRetry pa first reread lanes again) := ⟨.burstRetry 0 0 0 0 0, rfl, by decide⟩
theorem Wf.uncorrectableBurst (pa : Nat) : Wf.Statement (.uncorrectableBurst pa) := ⟨.uncorrectableBurst 0, rfl, by decide⟩
theorem Wf.laneLossOfLock (stack : Nat) (ch : Nat) (lane : Nat) : Wf.Statement (.laneLossOfLock stack ch lane) := ⟨.laneLossOfLock 0 0 0, rfl, by decide⟩
theorem Wf.stackFailure (stack : Nat) : Wf.Statement (.stackFailure stack) := ⟨.stackFailure 0, rfl, by decide⟩
theorem Wf.caps (l : Nat) (attempt : Nat) (body : List Byte) : Wf.Statement (.caps l attempt body) := ⟨.caps 0 0 [], rfl, by decide⟩
theorem Wf.hello (l : Nat) (attempt : Nat) (body : List Byte) : Wf.Statement (.hello l attempt body) := ⟨.hello 0 0 [], rfl, by decide⟩
theorem Wf.proof (l : Nat) (attempt : Nat) (body : List Byte) : Wf.Statement (.proof l attempt body) := ⟨.proof 0 0 [], rfl, by decide⟩
theorem Wf.refuse (l : Nat) (attempt : Nat) (body : List Byte) : Wf.Statement (.refuse l attempt body) := ⟨.refuse 0 0 [], rfl, by decide⟩
theorem Wf.timeout (l : Nat) : Wf.Statement (.timeout l) := ⟨.timeout 0, rfl, by decide⟩
theorem Wf.quarantineRetry (l : Nat) : Wf.Statement (.quarantineRetry l) := ⟨.quarantineRetry 0, rfl, by decide⟩
theorem Wf.tenonLinkDown (l : Nat) : Wf.Statement (.tenonLinkDown l) := ⟨.tenonLinkDown 0, rfl, by decide⟩
theorem Wf.write (l : Nat) (header : List W64) (payload : List Byte) (sig : Bool) : Wf.Statement (.write l header payload sig) := ⟨.write 0 [0, 0, 0, 0] [] false, rfl, by decide⟩
theorem Wf.readReq (l : Nat) (header : List W64) (payload : List Byte) : Wf.Statement (.readReq l header payload) := ⟨.readReq 0 [0, 0, 0, 0] [], rfl, by decide⟩
theorem Wf.readResp (l : Nat) (header : List W64) (payload : List Byte) : Wf.Statement (.readResp l header payload) := ⟨.readResp 0 [0, 0, 0, 0] [], rfl, by decide⟩
theorem Wf.signal (l : Nat) (header : List W64) (payload : List Byte) : Wf.Statement (.signal l header payload) := ⟨.signal 0 [0, 0, 0, 0] [], rfl, by decide⟩
theorem Wf.ack (l : Nat) (header : List W64) (payload : List Byte) : Wf.Statement (.ack l header payload) := ⟨.ack 0 [0, 0, 0, 0] [], rfl, by decide⟩
theorem Wf.ackTimeout (xfer : Nat) : Wf.Statement (.ackTimeout xfer) := ⟨.ackTimeout 0, rfl, by decide⟩
theorem Wf.timeAnnouncement (now : W64) : Wf.Statement (.timeAnnouncement now) := ⟨.timeAnnouncement 0, rfl, by decide⟩
theorem Wf.announce (l : Nat) (header : List W64) (payload : List Byte) (arrived : W64) (departed : W64) : Wf.Statement (.announce l header payload arrived departed) := ⟨.announce 0 [0, 0, 0, 0] [] 0 0, rfl, by decide⟩
theorem Wf.reply (l : Nat) (header : List W64) (payload : List Byte) (arrived : W64) : Wf.Statement (.reply l header payload arrived) := ⟨.reply 0 [0, 0, 0, 0] [] 0, rfl, by decide⟩
theorem Wf.lockLoss : Wf.Statement (.lockLoss) := ⟨.lockLoss, rfl, by decide⟩
theorem Wf.tenonDatagram (port : Nat) (peer : Nat) (transport : W64) (packet : List W64) (payload : List Byte) (sig : Bool) : Wf.Statement (.tenonDatagram port peer transport packet payload sig) := ⟨.tenonDatagram 0 0 0 [0, 0, 0, 0] [] false, rfl, by decide⟩
theorem Wf.retransmission (port : Nat) (peer : Nat) : Wf.Statement (.retransmission port peer) := ⟨.retransmission 0 0, rfl, by decide⟩
theorem Wf.rdmaWrite (port : Nat) (qpn : Nat) (psn : Nat) (rkey : BitVec 32) (va : Nat) (first : Bool) (last : Bool) (ce : Bool) (payload : List Byte) : Wf.Statement (.rdmaWrite port qpn psn rkey va first last ce payload) := ⟨.rdmaWrite 0 0 0 0 0 false false false [], rfl, by decide⟩
theorem Wf.rdmaReadRequest (port : Nat) (qpn : Nat) (psn : Nat) (rkey : BitVec 32) (va : Nat) (len : Nat) (ce : Bool) : Wf.Statement (.rdmaReadRequest port qpn psn rkey va len ce) := ⟨.rdmaReadRequest 0 0 0 0 0 0 false, rfl, by decide⟩
theorem Wf.arpRequest (port : Nat) (ip : Nat) : Wf.Statement (.arpRequest port ip) := ⟨.arpRequest 0 0, rfl, by decide⟩
theorem Wf.neighborSolicitation (port : Nat) (ip : Nat) : Wf.Statement (.neighborSolicitation port ip) := ⟨.neighborSolicitation 0 0, rfl, by decide⟩
theorem Wf.echoRequest (port : Nat) (ip : Nat) (data : List Byte) : Wf.Statement (.echoRequest port ip data) := ⟨.echoRequest 0 0 [], rfl, by decide⟩
theorem Wf.pause (port : Nat) (prio : Nat) (quanta : Nat) : Wf.Statement (.pause port prio quanta) := ⟨.pause 0 0 0, rfl, by decide⟩
theorem Wf.interrupt (c : Nat) : Wf.Statement (.interrupt c) := ⟨.interrupt 0, rfl, by decide⟩
theorem Wf.add (a : Agent) : Wf.Statement (.add a) := ⟨.add (.core 0), rfl, by decide⟩
theorem Wf.sub (a : Agent) : Wf.Statement (.sub a) := ⟨.sub (.core 0), rfl, by decide⟩
theorem Wf.mul (a : Agent) : Wf.Statement (.mul a) := ⟨.mul (.core 0), rfl, by decide⟩
theorem Wf.mulhi (a : Agent) : Wf.Statement (.mulhi a) := ⟨.mulhi (.core 0), rfl, by decide⟩
theorem Wf.div (a : Agent) : Wf.Statement (.div a) := ⟨.div (.core 0), rfl, by decide⟩
theorem Wf.rem (a : Agent) : Wf.Statement (.rem a) := ⟨.rem (.core 0), rfl, by decide⟩
theorem Wf.imin (a : Agent) : Wf.Statement (.imin a) := ⟨.imin (.core 0), rfl, by decide⟩
theorem Wf.imax (a : Agent) : Wf.Statement (.imax a) := ⟨.imax (.core 0), rfl, by decide⟩
theorem Wf.andOp (a : Agent) : Wf.Statement (.andOp a) := ⟨.andOp (.core 0), rfl, by decide⟩
theorem Wf.orOp (a : Agent) : Wf.Statement (.orOp a) := ⟨.orOp (.core 0), rfl, by decide⟩
theorem Wf.xorOp (a : Agent) : Wf.Statement (.xorOp a) := ⟨.xorOp (.core 0), rfl, by decide⟩
theorem Wf.notOp (a : Agent) : Wf.Statement (.notOp a) := ⟨.notOp (.core 0), rfl, by decide⟩
theorem Wf.shl (a : Agent) : Wf.Statement (.shl a) := ⟨.shl (.core 0), rfl, by decide⟩
theorem Wf.shr (a : Agent) : Wf.Statement (.shr a) := ⟨.shr (.core 0), rfl, by decide⟩
theorem Wf.popc (a : Agent) : Wf.Statement (.popc a) := ⟨.popc (.core 0), rfl, by decide⟩
theorem Wf.clz (a : Agent) : Wf.Statement (.clz a) := ⟨.clz (.core 0), rfl, by decide⟩
theorem Wf.mad (a : Agent) : Wf.Statement (.mad a) := ⟨.mad (.core 0), rfl, by decide⟩
theorem Wf.setp (a : Agent) : Wf.Statement (.setp a) := ⟨.setp (.core 0), rfl, by decide⟩
theorem Wf.sel (a : Agent) : Wf.Statement (.sel a) := ⟨.sel (.core 0), rfl, by decide⟩
theorem Wf.mov (a : Agent) : Wf.Statement (.mov a) := ⟨.mov (.core 0), rfl, by decide⟩
theorem Wf.pand (a : Agent) : Wf.Statement (.pand a) := ⟨.pand (.core 0), rfl, by decide⟩
theorem Wf.por (a : Agent) : Wf.Statement (.por a) := ⟨.por (.core 0), rfl, by decide⟩
theorem Wf.pxor (a : Agent) : Wf.Statement (.pxor a) := ⟨.pxor (.core 0), rfl, by decide⟩
theorem Wf.pnot (a : Agent) : Wf.Statement (.pnot a) := ⟨.pnot (.core 0), rfl, by decide⟩
theorem Wf.p2r (a : Agent) : Wf.Statement (.p2r a) := ⟨.p2r (.core 0), rfl, by decide⟩
theorem Wf.r2p (a : Agent) : Wf.Statement (.r2p a) := ⟨.r2p (.core 0), rfl, by decide⟩
theorem Wf.addi (a : Agent) : Wf.Statement (.addi a) := ⟨.addi (.core 0), rfl, by decide⟩
theorem Wf.muli (a : Agent) : Wf.Statement (.muli a) := ⟨.muli (.core 0), rfl, by decide⟩
theorem Wf.andi (a : Agent) : Wf.Statement (.andi a) := ⟨.andi (.core 0), rfl, by decide⟩
theorem Wf.ori (a : Agent) : Wf.Statement (.ori a) := ⟨.ori (.core 0), rfl, by decide⟩
theorem Wf.xori (a : Agent) : Wf.Statement (.xori a) := ⟨.xori (.core 0), rfl, by decide⟩
theorem Wf.shli (a : Agent) : Wf.Statement (.shli a) := ⟨.shli (.core 0), rfl, by decide⟩
theorem Wf.shri (a : Agent) : Wf.Statement (.shri a) := ⟨.shri (.core 0), rfl, by decide⟩
theorem Wf.setpi (a : Agent) : Wf.Statement (.setpi a) := ⟨.setpi (.core 0), rfl, by decide⟩
theorem Wf.movi (a : Agent) : Wf.Statement (.movi a) := ⟨.movi (.core 0), rfl, by decide⟩
theorem Wf.movhi (a : Agent) : Wf.Statement (.movhi a) := ⟨.movhi (.core 0), rfl, by decide⟩
theorem Wf.fadd (a : Agent) : Wf.Statement (.fadd a) := ⟨.fadd (.core 0), rfl, by decide⟩
theorem Wf.fsub (a : Agent) : Wf.Statement (.fsub a) := ⟨.fsub (.core 0), rfl, by decide⟩
theorem Wf.fmul (a : Agent) : Wf.Statement (.fmul a) := ⟨.fmul (.core 0), rfl, by decide⟩
theorem Wf.ffma (a : Agent) : Wf.Statement (.ffma a) := ⟨.ffma (.core 0), rfl, by decide⟩
theorem Wf.fdiv (a : Agent) : Wf.Statement (.fdiv a) := ⟨.fdiv (.core 0), rfl, by decide⟩
theorem Wf.fsqrt (a : Agent) : Wf.Statement (.fsqrt a) := ⟨.fsqrt (.core 0), rfl, by decide⟩
theorem Wf.fmin (a : Agent) : Wf.Statement (.fmin a) := ⟨.fmin (.core 0), rfl, by decide⟩
theorem Wf.fmax (a : Agent) : Wf.Statement (.fmax a) := ⟨.fmax (.core 0), rfl, by decide⟩
theorem Wf.fabs (a : Agent) : Wf.Statement (.fabs a) := ⟨.fabs (.core 0), rfl, by decide⟩
theorem Wf.fneg (a : Agent) : Wf.Statement (.fneg a) := ⟨.fneg (.core 0), rfl, by decide⟩
theorem Wf.fsetp (a : Agent) : Wf.Statement (.fsetp a) := ⟨.fsetp (.core 0), rfl, by decide⟩
theorem Wf.frcp (a : Agent) : Wf.Statement (.frcp a) := ⟨.frcp (.core 0), rfl, by decide⟩
theorem Wf.frsqrt (a : Agent) : Wf.Statement (.frsqrt a) := ⟨.frsqrt (.core 0), rfl, by decide⟩
theorem Wf.fexp (a : Agent) : Wf.Statement (.fexp a) := ⟨.fexp (.core 0), rfl, by decide⟩
theorem Wf.flog (a : Agent) : Wf.Statement (.flog a) := ⟨.flog (.core 0), rfl, by decide⟩
theorem Wf.faddi (a : Agent) : Wf.Statement (.faddi a) := ⟨.faddi (.core 0), rfl, by decide⟩
theorem Wf.fmuli (a : Agent) : Wf.Statement (.fmuli a) := ⟨.fmuli (.core 0), rfl, by decide⟩
theorem Wf.fcvt (a : Agent) : Wf.Statement (.fcvt a) := ⟨.fcvt (.core 0), rfl, by decide⟩
theorem Wf.ftoi (a : Agent) : Wf.Statement (.ftoi a) := ⟨.ftoi (.core 0), rfl, by decide⟩
theorem Wf.itof (a : Agent) : Wf.Statement (.itof a) := ⟨.itof (.core 0), rfl, by decide⟩
theorem Wf.load (a : Agent) : Wf.Statement (.load a) := ⟨.load (.core 0), rfl, by decide⟩
theorem Wf.store (a : Agent) : Wf.Statement (.store a) := ⟨.store (.core 0), rfl, by decide⟩
theorem Wf.zline (a : Agent) : Wf.Statement (.zline a) := ⟨.zline (.core 0), rfl, by decide⟩
theorem Wf.prefetch (a : Agent) : Wf.Statement (.prefetch a) := ⟨.prefetch (.core 0), rfl, by decide⟩
theorem Wf.memFence (a : Agent) : Wf.Statement (.memFence a) := ⟨.memFence (.core 0), rfl, by decide⟩
theorem Wf.aadd (a : Agent) : Wf.Statement (.aadd a) := ⟨.aadd (.core 0), rfl, by decide⟩
theorem Wf.afadd (a : Agent) : Wf.Statement (.afadd a) := ⟨.afadd (.core 0), rfl, by decide⟩
theorem Wf.amin (a : Agent) : Wf.Statement (.amin a) := ⟨.amin (.core 0), rfl, by decide⟩
theorem Wf.amax (a : Agent) : Wf.Statement (.amax a) := ⟨.amax (.core 0), rfl, by decide⟩
theorem Wf.aand (a : Agent) : Wf.Statement (.aand a) := ⟨.aand (.core 0), rfl, by decide⟩
theorem Wf.aor (a : Agent) : Wf.Statement (.aor a) := ⟨.aor (.core 0), rfl, by decide⟩
theorem Wf.axor (a : Agent) : Wf.Statement (.axor a) := ⟨.axor (.core 0), rfl, by decide⟩
theorem Wf.aswap (a : Agent) : Wf.Statement (.aswap a) := ⟨.aswap (.core 0), rfl, by decide⟩
theorem Wf.acas (a : Agent) : Wf.Statement (.acas a) := ⟨.acas (.core 0), rfl, by decide⟩
theorem Wf.nopInstr (a : Agent) : Wf.Statement (.nopInstr a) := ⟨.nopInstr (.core 0), rfl, by decide⟩
theorem Wf.bra (a : Agent) : Wf.Statement (.bra a) := ⟨.bra (.core 0), rfl, by decide⟩
theorem Wf.brx (a : Agent) : Wf.Statement (.brx a) := ⟨.brx (.core 0), rfl, by decide⟩
theorem Wf.call (a : Agent) : Wf.Statement (.call a) := ⟨.call (.core 0), rfl, by decide⟩
theorem Wf.exitThread (a : Agent) : Wf.Statement (.exitThread a) := ⟨.exitThread (.core 0), rfl, by decide⟩
theorem Wf.barBlock (a : Agent) : Wf.Statement (.barBlock a) := ⟨.barBlock (.core 0), rfl, by decide⟩
theorem Wf.barCluster (a : Agent) : Wf.Statement (.barCluster a) := ⟨.barCluster (.core 0), rfl, by decide⟩
theorem Wf.trap (a : Agent) : Wf.Statement (.trap a) := ⟨.trap (.core 0), rfl, by decide⟩
theorem Wf.eret (a : Agent) : Wf.Statement (.eret a) := ⟨.eret (.core 0), rfl, by decide⟩
theorem Wf.wfi (a : Agent) : Wf.Statement (.wfi a) := ⟨.wfi (.core 0), rfl, by decide⟩
theorem Wf.sread (a : Agent) : Wf.Statement (.sread a) := ⟨.sread (.core 0), rfl, by decide⟩
theorem Wf.swrite (a : Agent) : Wf.Statement (.swrite a) := ⟨.swrite (.core 0), rfl, by decide⟩
theorem Wf.shflIdx (a : Agent) : Wf.Statement (.shflIdx a) := ⟨.shflIdx (.core 0), rfl, by decide⟩
theorem Wf.shflUp (a : Agent) : Wf.Statement (.shflUp a) := ⟨.shflUp (.core 0), rfl, by decide⟩
theorem Wf.shflDown (a : Agent) : Wf.Statement (.shflDown a) := ⟨.shflDown (.core 0), rfl, by decide⟩
theorem Wf.shflXor (a : Agent) : Wf.Statement (.shflXor a) := ⟨.shflXor (.core 0), rfl, by decide⟩
theorem Wf.voteAll (a : Agent) : Wf.Statement (.voteAll a) := ⟨.voteAll (.core 0), rfl, by decide⟩
theorem Wf.voteAny (a : Agent) : Wf.Statement (.voteAny a) := ⟨.voteAny (.core 0), rfl, by decide⟩
theorem Wf.voteBallot (a : Agent) : Wf.Statement (.voteBallot a) := ⟨.voteBallot (.core 0), rfl, by decide⟩
theorem Wf.barGroup (a : Agent) : Wf.Statement (.barGroup a) := ⟨.barGroup (.core 0), rfl, by decide⟩
theorem Wf.gmma (a : Agent) : Wf.Statement (.gmma a) := ⟨.gmma (.core 0), rfl, by decide⟩
theorem Wf.wclkHouseCycle : Wf.Statement (.wclkHouseCycle) := ⟨.wclkHouseCycle, rfl, by decide⟩
theorem Wf.busbarPowerLoss : Wf.Statement (.busbarPowerLoss) := ⟨.busbarPowerLoss, rfl, by decide⟩
theorem Wf.busMasterEnableSet (port : Nat) : Wf.Statement (.busMasterEnableSet port) := ⟨.busMasterEnableSet 0, rfl, by decide⟩
theorem Wf.readCompletion (port : Nat) (tag : Nat) (data : List Byte) : Wf.Statement (.readCompletion port tag data) := ⟨.readCompletion 0 0 [], rfl, by decide⟩
theorem Wf.phyTrained (l : Nat) (ok : Bool) : Wf.Statement (.phyTrained l ok) := ⟨.phyTrained 0 false, rfl, by decide⟩
theorem Wf.ethernetLinkUp (l : Nat) (rate : Nat) : Wf.Statement (.ethernetLinkUp l rate) := ⟨.ethernetLinkUp 0 200, rfl, by decide⟩
theorem Wf.ethernetLinkDown (l : Nat) : Wf.Statement (.ethernetLinkDown l) := ⟨.ethernetLinkDown 0, rfl, by decide⟩
theorem Wf.frameRetry (l : Nat) (seq : Nat) : Wf.Statement (.frameRetry l seq) := ⟨.frameRetry 0 0, rfl, by decide⟩
theorem Wf.linkCtlWrite (path : Path) (l : Nat) (value : W64) : Wf.Statement (.linkCtlWrite path l value) := ⟨.linkCtlWrite .eth 0 0, rfl, by decide⟩
theorem Wf.modulePartFault (part : Nat) : Wf.Statement (.modulePartFault part) := ⟨.modulePartFault 0, rfl, by decide⟩
theorem Wf.badOpcodePacket (q : Nat) : Wf.Statement (.badOpcodePacket q) := ⟨.badOpcodePacket 0, rfl, by decide⟩
theorem Wf.illegalWord (c : Nat) : Wf.Statement (.illegalWord c) := ⟨.illegalWord 0, rfl, by decide⟩

end Sys2Proof.Laws
end

