-- ==== Sys2Proof/Tests/Slice0.lean ====
section
/-! SUPPORT. Tests: ill-formed commands that the check refuses, small runs whose results the spec gives, and for every
statement with hypotheses states and operands that meet them. -/

namespace Sys2Proof.Tests
open Sys2Proof Sys2Proof.Machine
set_option Elab.async false

/-! ### Small machines -/

/-- Memory with bytes at an address. -/
def withBytes (s : State) (a : Nat) (bs : List Byte) : State :=
  { s with mem := { s.mem with cells := tputN 0 s.mem.cells a bs } }

/-- Memory with 64-bit words at an address. -/
def withWords (s : State) (a : Nat) (ws : List W64) : State := withBytes s a (wordBytes ws)

/-- A ready device with partition 0 on bay 0, running, and context 5 live in it, bound to port 0. -/
def dev : State :=
  { State.reset with
    mgmt := { State.reset.mgmt with phase := 5 }
    parts := [(0, { state := 2, shape := { defined := true, scratch := 2 } })]
    ctxs := [(5, { st := .live, part := 0 })] }

/-- The line of the words at 0x1000, shared. -/
def codeLine (ws : List W64) : Line := { line := 0x20, st := .s, data := BitVec.ofNat 1024 (leNat (wordBytes ws)) }

/-- Core 1 of `dev` in supervisor mode about to execute a word its L2 holds, with registers and predicates. -/
def onCore (w : W64) (g : Table W64) (p : BitVec 8) : State :=
  let s := withWords dev 0x1000 [w]
  { s with cores := [(1, { on := true, pc := 0x1000, g, p, mode := 1, tvec := 0x2000 })]
           coh := { s.coh with l2 := [(73, [codeLine [w]])] } }

/-- Group processor 3 of tile 0 of `dev` with a block of 64 threads at word 0 of some code; thread 0 has registers and
predicates of its own. -/
def onGp (ws : List W64) (g : Table W64) (p : BitVec 8) : State :=
  let s := withWords dev (tileBase dev 0 + 0x400) ws
  { s with eng := { s.eng with
      units := [(11, { cur := some ⟨0, 0, 0, 0⟩, ctx := 5, count := 1 })]
      gp := [(3, { running := true, threads := [(0, { g, p })]
                   blk := { codeAt := 0x400, codeBytes := 8 * ws.length, threads := 64, cluster := 1, rankGp := 3, localBytes := 4096 } })] } }

/-- A word of formats A and X; of format B; of format C (R227, R228, R230). -/
def wordA (f op rd rs1 rs2 rs3 ty pd aux : Nat) : W64 :=
  BitVec.ofNat 64 (f * 2 ^ 61 + op * 2 ^ 52 + rd * 2 ^ 41 + rs1 * 2 ^ 35 + rs2 * 2 ^ 29 + rs3 * 2 ^ 23 + ty * 2 ^ 19 + pd * 2 ^ 16 + aux * 2 ^ 12)

def wordB (f op rd rs1 iw imm : Nat) : W64 :=
  BitVec.ofNat 64 (f * 2 ^ 61 + op * 2 ^ 52 + rd * 2 ^ 41 + rs1 * 2 ^ 35 + iw * 2 ^ 32 + imm)

/-- What CoreIssues asks, as a test. -/
def coreReads (s : State) (c f op : Nat) (w : W64) : Bool :=
  coreRuns s c && !coreHeld s c && !interruptDue (coreOf s c) && (match coreFetch s c with | .word v => v == w | _ => false) &&
    xFmt w == f && xOp w == op && legalOnCore w

theorem coreIssues_of {s : State} {c f op : Nat} {w : W64} (h : coreReads s c f op w = true) : CoreIssues s c f op w := by
  simp only [coreReads, Bool.and_eq_true, Bool.not_eq_true', beq_iff_eq] at h
  obtain ⟨⟨⟨⟨⟨⟨h1, h2⟩, h0⟩, h3⟩, h4⟩, h5⟩, h6⟩ := h
  refine ⟨h1, h2, h0, ?_, h4, h5, h6⟩
  split at h3
  · next v hv => rw [hv, eq_of_beq h3]
  · cases h3

/-- What GpIssues asks of the next issue, with a condition on it, as a test. -/
def gpReads (s : State) (t g f op k : Nat) (q : Issue → Bool) : Bool :=
  match gpIssue s t g with
  | some (k', i) => k' == k && !breakHits s t g k i.pc && xFmt i.word == f && xOp i.word == op && legalOnGp i.word && q i
  | none => false

theorem gpIssues_of {s : State} {t g f op k : Nat} {q : Issue → Bool} (h : gpReads s t g f op k q = true) :
    ∃ i, GpIssues s t g f op k i ∧ q i = true := by
  unfold gpReads at h
  split at h
  · next k' i hi =>
    simp only [Bool.and_eq_true, Bool.not_eq_true', beq_iff_eq] at h
    obtain ⟨⟨⟨⟨⟨h1, h2⟩, h3⟩, h4⟩, h5⟩, h6⟩ := h
    subst h1
    exact ⟨i, ⟨hi, h2, h3, h4, h5⟩, h6⟩
  · cases h

/-! ### Xichai rows on registers -/

/-- Integer, floating and predicate rows of format A issue on a core and on a group processor. -/
theorem test_rows_of_format_a_issue : ∀ op ∈ upFrom 0x000 0x014 ++ upFrom 0x040 0x00F ++ upFrom 0x080 3 ++ upFrom 0x0C0 6,
    let w := wordA 0 op 3 1 2 5 1 2 1
    coreReads (onCore w [(1, 5), (2, 7)] 1) 1 0 op w = true ∧
    gpReads (onGp [w, 0] [(1, 5), (2, 7)] 1) 0 3 0 op 0 (fun i => !fallsOut (onGp [w, 0] [] 0) 0 3 i.pc) = true := by decide +kernel

/-- Rows of format B issue on both. -/
theorem test_rows_of_format_b_issue : ∀ op ∈ upFrom 0x000 0x00C,
    let w := wordB 1 op 3 1 0 0xFFFFFFF8
    coreReads (onCore w [(1, 5)] 1) 1 1 op w = true ∧ gpReads (onGp [w, 0] [(1, 5)] 1) 0 3 1 op 0 (fun _ => true) = true := by decide +kernel

/-- NOP issues; on its last word a group processor falls out. -/
theorem test_nop_issues : coreReads (onCore (wordB 3 0 0 0 0 0) [] 0) 1 3 0 (wordB 3 0 0 0 0 0) = true ∧
    gpReads (onGp [wordB 3 0 0 0 0 0] [] 0) 0 3 3 0 0 (fun i => fallsOut (onGp [0] [] 0) 0 3 i.pc) = true := by decide +kernel

/-- A guard that is off on a core: GUARDED with the predicate 0 that reads 0. -/
theorem test_guard_off : coreReads (onCore (wordA 0 0 3 1 2 0 3 0 0 ||| 2 ^ 51) [] 0) 1 0 0 (wordA 0 0 3 1 2 0 3 0 0 ||| 2 ^ 51) = true ∧
    guardOk (wordA 0 0 3 1 2 0 3 0 0 ||| 2 ^ 51) 0 = false := by decide +kernel

/-- BRA, BRX and CALL issue, on a group processor with a target that is good and with one that is not. -/
theorem test_transfers_issue : ∀ x ∈ [(0x001, (16 : W64), (4096 : Nat)), (0x002, 16, 0), (0x003, 16, 4096)],
    let w := wordB 3 x.1 1 2 0 (if x.1 = 2 then 0 else 16)
    let far := wordB 3 x.1 1 2 0 (if x.1 = 2 then 0 else 4096)
    coreReads (onCore w [(1, 0x1008)] 0) 1 3 x.1 w = true ∧
    gpReads (onGp [w, 0, 0] [(1, x.2.1)] 0) 0 3 3 x.1 0 (fun i => !fallsOut (onGp [w, 0, 0] [] 0) 0 3 i.pc &&
      (active (onGp [w, 0, 0] [(1, x.2.1)] 0) 0 3 i).all (fun n => goodTarget (onGp [w, 0, 0] [] 0) 0 3
        (if x.1 = 2 then if n = 0 then 16 else 0 else 16))) = true ∧
    gpReads (onGp [far, 0, 0] [(1, 4096)] 0) 0 3 3 x.1 0 (fun i => (active (onGp [far, 0, 0] [(1, 4096)] 0) 0 3 i).contains 0 &&
      !goodTarget (onGp [far, 0, 0] [] 0) 0 3 4096) = true := by decide +kernel

/-- EXIT, BAR.BLOCK and BAR.CLUSTER issue before the last word. -/
theorem test_stops_issue : ∀ op ∈ [0x005, 0x006, 0x007],
    gpReads (onGp [wordB 3 op 0 0 0 0, 0] [] 0) 0 3 3 op 0 (fun i => !fallsOut (onGp [0, 0] [] 0) 0 3 i.pc) = true := by decide +kernel

/-- A running block none of whose threads stands at BAR.CLUSTER. -/
theorem test_block_at_barrier :
    let s := { onGp [0, 0] [] 0 with eng := { (onGp [0, 0] [] 0).eng with gp := [(3, { gpOf (onGp [0, 0] [] 0) 0 3 with
      threads := tputN {} [] 0 ((upFrom 0 64).map (fun n => ({ st := if n = 5 then .exited else .barBlock } : Thread))) })] } }
    (gpOf s 0 3).running = true ∧ ∀ n ∈ threadsOf (gpOf s 0 3), (threadAt (gpOf s 0 3) n).st ≠ .barCluster := by decide +kernel

/-- TRAP, ERET and WFI on a core, in and out of supervisor mode and of a trap handler. -/
theorem test_system_words_issue : ∀ m ∈ [(0 : BitVec 5), 1, 4, 5],
    let put := fun (w : W64) => { onCore w [] 0 with cores := [(1, { coreOf (onCore w [] 0) 1 with mode := m })] }
    coreReads (put (wordB 3 0x008 0 0 0 7)) 1 3 0x008 (wordB 3 0x008 0 0 0 7) = true ∧
    coreReads (put (wordB 3 0x020 0 0 0 0)) 1 3 0x020 (wordB 3 0x020 0 0 0 0) = true ∧
    coreReads (put (wordB 3 0x021 0 0 0 0)) 1 3 0x021 (wordB 3 0x021 0 0 0 0) = true ∧
    coreReads (put (wordB 1 0x011 0 1 0 0x103)) 1 1 0x011 (wordB 1 0x011 0 1 0 0x103) = true ∧
    coreSpecial (put 0) 1 0x103 = some 0x2000 ∧
    (bit m modeInTrap = decide (m = 4 ∨ m = 5)) ∧ bit m modeSup = decide (m = 1 ∨ m = 5) := by decide +kernel

/-- A pending interrupt with IEN; an illegal word. -/
theorem test_interrupt_and_illegal :
    (let s := { onCore 0 [] 0 with cores := [(1, { coreOf (onCore 0 [] 0) 1 with mode := 3, ipend := 1 })] }
     coreRuns s 1 = true ∧ (coreOf s 1).waiting = false ∧ (coreOf s 1).arrived = none ∧ (coreOf s 1).ipend ≠ 0 ∧ bit (coreOf s 1).mode modeIen = true ∧
       bit (coreOf s 1).mode modeInTrap = false) ∧
    (let s := onCore (BitVec.ofNat 64 (7 * 2 ^ 61)) [] 0
     coreRuns s 1 = true ∧ coreHeld s 1 = false ∧ (match coreFetch s 1 with | .word v => v == BitVec.ofNat 64 (7 * 2 ^ 61) | _ => false) = true ∧
       legalOnCore (BitVec.ofNat 64 (7 * 2 ^ 61)) = false) := by decide +kernel

/-- TRAP on a group processor whose list belongs to the live context 5. -/
theorem test_gp_trap_issues :
    let s := onGp [wordB 3 0x008 0 0 0 9, 0] [] 0
    gpReads s 0 3 3 0x008 0 (fun i => !(active s 0 3 i).isEmpty) = true ∧ (unitOf s 0 11).ctx = 5 ∧ (ctxOf s 5).st = .live ∧ (ctxOf s 5).fault = none := by
  decide +kernel

/-- SREAD of THREAD on a group processor, and of every special register of a core; CORE_ID and CUE in user mode. -/
theorem test_special_registers :
    gpReads (onGp [wordB 1 0x010 3 0 0 0, 0] [] 0) 0 3 1 0x010 0 (fun i => !fallsOut (onGp [0, 0] [] 0) 0 3 i.pc) = true ∧
    ∀ k ∈ upFrom 0x100 0xA, coreReads (onCore (wordB 1 0x010 3 0 0 k) [] 0) 1 1 0x010 (wordB 1 0x010 3 0 0 k) = true ∧
      coreReads (onCore (wordB 1 0x011 0 1 0 k) [(1, 0x1234567)] 0) 1 1 0x011 (wordB 1 0x011 0 1 0 k) = true ∧
      (coreSpecial (onCore 0 [] 0) 1 k).isSome = true := by decide +kernel

/-- The collectives issue with all 32 lanes of group 0 in their mask, and with a mask that lacks the own lane. -/
theorem test_collectives_issue : ∀ op ∈ [0x000, 0x001, 0x002, 0x003, 0x008, 0x009, 0x00A, 0x010, 0x020],
    let w := wordA 4 op 8 0 4 12 (if op = 0x020 then 1 else 0) 0 (if op = 0x020 then 8 else 0)
    let whole := tputN {} [] 0 ((upFrom 0 64).map (fun _ => ({ g := [(if op = 0x020 then 0 else 12, 0xFFFFFFFF)] } : Thread)))
    let s := { onGp [w, 0] [] 0 with eng := { (onGp [w, 0] [] 0).eng with gp := [(3, { gpOf (onGp [w, 0] [] 0) 0 3 with threads := whole })] } }
    gpReads s 0 3 4 op 0 (fun i => !fallsOut s 0 3 i.pc && !i.threads.isEmpty &&
      i.threads.all (fun n => n / 32 == 0 && memberMask i.word (laneOf s 0 3 n) == 0xFFFFFFFF && maskOk i.word (n % 32) 0xFFFFFFFF)) = true ∧
    (op ≠ 0x020 → gpReads (onGp [w, 0] [] 0) 0 3 4 op 0 (fun i => i.threads.contains 0 && !maskOk i.word 0 (memberMask i.word (laneOf (onGp [w, 0] [] 0) 0 3 0))) = true) := by
  decide +kernel

/-! ### Xichai rows on memory -/

/-- A word of format M: operation, RD, RA, size, scope, order, SX, offset (R229). -/
def wordM (op rd rs1 space size scope ord off : Nat) : W64 :=
  BitVec.ofNat 64 (2 * 2 ^ 61 + op * 2 ^ 52 + rd * 2 ^ 41 + rs1 * 2 ^ 35 + space * 2 ^ 33 + size * 2 ^ 30 + scope * 2 ^ 27 + ord * 2 ^ 25 + off)

/-- `onCore` with line 0x40 (address 0x2000) in the core's L2, modified; g1 points into it. -/
def onLine (w : W64) (a : Nat) : State :=
  let s := onCore w [(1, BitVec.ofNat 64 a), (2, 7), (3, 9)] 0
  { s with coh := { s.coh with l2 := [(73, [{ line := 0x40, st := .m, data := 0xFEDCBA9876543210 }, codeLine [w]])] } }

/-- Word of an access with opcode `op`: 64 bits, at system scope where it is an atomic. -/
def accessWord (op : Nat) : W64 :=
  wordM op (if op = 2 then 0 else 4) 1 0 (if op = 2 then 0 else 3) (if op < 0x10 then 0 else 6) 0 (if op = 0x018 then 2 * 2 ^ 18 + 3 * 2 ^ 12 else if op < 0x10 then 0 else 2 * 2 ^ 18)

/-- Every access row on a core whose line is held, at the start and the end of the line. -/
theorem test_core_accesses_ready : ∀ op ∈ [0x000, 0x001, 0x002] ++ upFrom 0x010 9, ∀ a ∈ [0x2000, 0x2078],
    let w := accessWord op
    let s := onLine w a
    coreReads s 1 2 op w = true ∧ guardOk w (coreOf s 1).p = true ∧ ctxLive s (coreOf s 1).ctx = true ∧
      memAddr w (coreLane (coreOf s 1)) = a ∧ globalFault s 0 w a = none ∧ globalAddr s 0 a w = a ∧ foreign a = false ∧
      releaseWaits s w 2017 0 = false ∧ missing s 73 (.core 1) w [a / 128] = [] := by decide +kernel

/-- Every access row on a core whose line is not held. -/
theorem test_core_accesses_miss : ∀ op ∈ [0x000, 0x001, 0x002] ++ upFrom 0x010 9,
    let w := accessWord op
    let s := onLine w 0x3000
    coreReads s 1 2 op w = true ∧ globalFault s 0 w 0x3000 = none ∧ globalAddr s 0 0x3000 w = 0x3000 ∧ foreign 0x3000 = false ∧
      releaseWaits s w 2017 0 = false ∧ lineReady s 73 0x60 (lineUse w) = false ∧ requested s 73 0x60 = false := by decide +kernel

/-- Every access row on the local memory of a group processor. -/
theorem test_local_accesses_issue : ∀ op ∈ [0x000, 0x001] ++ upFrom 0x010 9,
    let w := wordM op 4 1 1 3 (if op < 0x10 then 0 else 1) 0 (if op < 0x10 then 0 else 2 * 2 ^ 18)
    let s := onGp [w, 0] [(1, 0xFF8)] 0
    gpReads s 0 3 2 op 0 (fun i => !fallsOut s 0 3 i.pc && xSpace i.word == 1 && !(active s 0 3 i).isEmpty &&
      (active s 0 3 i).all (fun n => (threadFault s 0 3 i.word (laneOf s 0 3 n)).isNone) && !releaseWaits s i.word 11 (unitOf s 0 11).ctx) = true := by
  decide +kernel

/-- FENCE and PREFETCH on a core and on a group processor. -/
theorem test_fence_and_prefetch_issue :
    let f := wordM 0x004 0 0 0 0 6 3 0
    let p := wordM 0x003 0 1 0 0 0 0 0
    coreReads (onCore f [] 0) 1 2 0x004 f = true ∧ releaseWaits (onCore f [] 0) f 2017 0 = false ∧ coreReads (onCore p [(1, 0x4000)] 0) 1 2 0x003 p = true ∧
    gpReads (onGp [p, 0] [(1, 0x4000)] 0) 0 3 2 0x003 0 (fun i => !fallsOut (onGp [p, 0] [] 0) 0 3 i.pc) = true ∧
    gpReads (onGp [f, 0] [] 0) 0 3 2 0x004 0 (fun i => !fallsOut (onGp [f, 0] [] 0) 0 3 i.pc && !(active (onGp [f, 0] [] 0) 0 3 i).isEmpty &&
      !releaseWaits (onGp [f, 0] [] 0) i.word 11 5 && acquires i.word && decide (4 ≤ xScope i.word)) = true := by decide +kernel

/-! ### Debugger and work lists -/

/-- `onGp` with context 5 debuggable and GP 3 of tile 0, group 0, selected. -/
def debugged (halted : Nat) : State :=
  let s := onGp [0, 0] [] 0
  { s with ctxs := [(5, { st := .live, debug := true })]
           eng := { s.eng with dbgSel := BitVec.ofNat 64 (5 * 2 ^ 40 + 3 * 2 ^ 28), dbgData := 77
                               gp := [(3, { gpOf s 0 3 with halted })] } }

/-- A debug action finds its group live, halted or not; one is in progress; a path does not reach; no group is live. -/
theorem test_debug_actions_are_due :
    (∀ h ∈ [0, 1], let s := debugged h
      s.eng.dbgBusy = none ∧ dbgReaches s .eth = true ∧ dbgLive s ≠ [] ∧ dbgHalted s = decide (h = 1) ∧ dbgRead s = some 0 ∧
      bits s.eng.dbgAddr 63 60 = 0 ∧ bits s.eng.dbgAddr 31 0 = 0) ∧
    dbgSeen (debugged 0) (.port 1) = false ∧
    (let s := { debugged 0 with ctxs := [(5, { st := .live })] }
     dbgSeen s .eth = true ∧ dbgReaches s .eth = false) ∧ (debugged 0).eng.dbgBusy = none ∧
    (let s := { debugged 0 with eng := { (debugged 0).eng with dbgSel := BitVec.ofNat 64 (5 * 2 ^ 40 + 4 * 2 ^ 28) } }
     s.eng.dbgBusy = none ∧ dbgReaches s .eth = true ∧ dbgLive s = []) ∧
    { debugged 0 with eng := { (debugged 0).eng with dbgBusy := some 2 } }.eng.dbgBusy = some 2 := by decide +kernel

/-- A unit of tile 0 with a start waiting whose header counts `n` records, at offset 0x800. -/
def waitingUnit (u n : Nat) : State :=
  let s := withWords dev (tileBase dev 0 + 0x800) [BitVec.ofNat 64 (5 * 2 ^ 48 + n * 2 ^ 40), 9]
  { s with eng := { s.eng with units := [(u, { waiting := [⟨0x800, 1, 0, 2⟩, ⟨0x900, 1, 0, 2⟩] })] } }

/-- Work lists wait at a unit of each kind, with the least and the greatest count. -/
theorem test_work_lists_wait : ∀ x ∈ [(0, 1), (0, 64), (4, 128), (8, 16), (23, 1), (24, 64)],
    let s := waitingUnit x.1 x.2
    tileRuns s 0 = true ∧ (unitOf s 0 x.1).cur = none ∧ (unitOf s 0 x.1).broken = false ∧ (unitOf s 0 x.1).waiting = [⟨0x800, 1, 0, 2⟩, ⟨0x900, 1, 0, 2⟩] ∧
      bits (tileWord s 0 0x800) 47 40 = x.2 := by decide +kernel

/-- GP 3 of tile 0 has reached a block record, in order or with 31 threads. -/
def blockWaits (threads : Nat) : State :=
  let s := withWords dev (tileBase dev 0 + 0x840)
    [BitVec.ofNat 64 (0x1000 * 2 ^ 32 + 64), BitVec.ofNat 64 (8 * 2 ^ 32 + threads * 2 ^ 16 + 2 ^ 8), 0, BitVec.ofNat 64 (0x2000 * 2 ^ 32 + 8 * 2 ^ 16),
     BitVec.ofNat 64 (4096 * 2 ^ 32), 3]
  let s := withBytes s (tileBase dev 0 + 0x2000) [1, 2, 3, 4, 5, 6, 7, 8]
  { s with eng := { s.eng with units := [(11, { cur := some ⟨0x800, 1, 0, 2⟩, ctx := 5, count := 1 })] } }

theorem test_blocks_are_due : ∀ n ∈ [31, 32, 256],
    let s := blockWaits n
    tileRuns s 0 = true ∧ (match blockDue s 0 3 with
      | some ws => blockError ws == decide (n = 31) && (blockOf ws).cluster == 1
      | none => false) = true ∧ (unitOf s 0 11).ctx = 5 ∧ (ctxOf s 5).st = .live ∧ (ctxOf s 5).fault = none := by decide +kernel

/-! ### Vector and matrix records -/

/-- Vector engine 0 of tile 0 at the first of one record: operation, formats of X, Y, Z, OUT, OUT2, further bits of word 0,
with 8 × 4 elements, level 0 reduced where `axes` is 1, and five slots. -/
def onVec (op : Nat) (f : List Nat) (more axes : Nat) (slots : List W64) : State :=
  let w0 := op * 2 ^ 48 + (f.getD 0 1) * 2 ^ 44 + (f.getD 1 1) * 2 ^ 40 + (f.getD 2 1) * 2 ^ 36 + (f.getD 3 1) * 2 ^ 32 + (f.getD 4 1) * 2 ^ 28 + more + 2 * 2 ^ 10 + axes * 2 ^ 5
  let s := withWords dev (tileBase dev 0 + 0x800) ([BitVec.ofNat 64 (5 * 2 ^ 48 + 2 ^ 40), 0, 0, 0, 0, 0, 0, 0,
    BitVec.ofNat 64 w0, 0, 0, BitVec.ofNat 64 (8 * 2 ^ 32 + 4), 0, 0] ++ slots)
  { s with eng := { s.eng with units := [(4, { cur := some ⟨0x800, 1, 0, 2⟩, ctx := 5, count := 1 })] } }

/-- Slots in the tile store, 32 bytes from one row to the next. -/
def storeSlots : List W64 :=
  [0x1000, 0x2000, 0x3000, 0x4000, 0x5000].flatMap (fun a => [BitVec.ofNat 64 (a * 2 ^ 32), BitVec.ofNat 64 (32 * 2 ^ 32 + 128), 0])

/-- Slots in registers v0, v2, v4, v6 and v8. -/
def regSlots : List W64 := [0, 2, 4, 6, 8].flatMap (fun n => [BitVec.ofNat 64 (2 ^ 63 + n * 2 ^ 58), 0, 0])

/-- What VecDue asks, as a test. -/
def vecReads (s : State) (t u code : Nat) : Bool :=
  match curVec s t u with
  | some w => tileRuns s t && decide (u < 4) && decide (w.r.op = code) && !vecError s t w
  | none => false

theorem vecDue_of {s : State} {t u code : Nat} (h : vecReads s t u code = true) : ∃ w, VecDue s t u code w := by
  unfold vecReads at h
  split at h
  · next w hw =>
    simp only [Bool.and_eq_true, decide_eq_true_eq, Bool.not_eq_true'] at h
    exact ⟨w, hw, h.1.1.1, h.1.1.2, h.1.2, h.2⟩
  · cases h

/-- Elementwise records and MASK_LOAD are due, their operands being registers. -/
theorem test_elementwise_records_due : ∀ op ∈ vecElemOps ++ [opMaskLoad],
    vecReads (onVec op [1, 1, 1, if op = 0x20 then 0xB else 1, 1] 0 0 regSlots) 0 0 op = true := by decide +kernel

/-- Records are due whose operands lie in the tile store. -/
theorem test_store_records_due : ∀ op ∈ [0x01, 0x30, 0x50], vecReads (onVec op [1, 1, 1, 1, 1] 0 (if op = 0x30 then 1 else 0) storeSlots) 0 0 op = true := by
  decide +kernel

/-- Reductions are due, level 0 being reduced; weight updates are due. -/
theorem test_reduction_records_due : ∀ op ∈ vecReduceOps ++ vecWeightOps,
    vecReads (onVec op [1, 1, 1, 1, 1] 0 (if op < 0x50 then 1 else 0) regSlots) 0 0 op = true := by decide +kernel

/-- The record of a weight update without a node has no parameters to read. -/
theorem test_weight_parameters : ∀ op ∈ vecWeightOps, let s := onVec op [1, 1, 1, 1, 1] 0 0 regSlots
    (match curVec s 0 0 with
    | some w => decide (paramsAt s 0 w = .ok []) && (badPiece s []).isNone
    | none => false) = true := by decide +kernel

/-- A record of a table of 3 rows at 0x10_0000 of context 0 (a granule of the house): GATHER, SCATTER or SCATTER_ADD, its index
vector holding the row `j`; tile 0 and hub 0 have slots of channel 0 and of the brace between them. -/
def onTable (op j : Nat) : State :=
  let tab : List W64 := [0x100000, BitVec.ofNat 64 (32 * 2 ^ 32 + 3), 32]
  let sl := fun (i : Nat) => (storeSlots.drop (3 * i)).take 3
  let s := onVec op [1, 1, 1, 1, 1] 0 0 (if op = 0x40 then tab ++ storeSlots.drop 3 else sl 0 ++ sl 1 ++ sl 2 ++ tab ++ sl 4)
  let s := withBytes s (tileBase dev 0 + 0x2000) (leBytes 4 j)
  let runs := [BitVec.ofNat 64 (8 * 2 ^ 24 + 64 * 2 ^ 8), BitVec.ofNat 64 (2 ^ 60 + 8 * 2 ^ 24 + 64 * 2 ^ 8)]
  let s := modOrder s 0 (fun o => { o with pos := 7, kind := .advance, live := true })
  let w0 := BitVec.ofNat 64 (2 ^ 63 + 2 * 2 ^ 16 + 7)
  { s with eng := { s.eng with units := [(4, { cur := some ⟨0x800, 1, 0, 2⟩, ctx := 0, count := 1 })]
                               prog := [(progKey 0 7, [w0, 0]), (progKey 72 7, [w0, 0])], runs := [(0, runs), (32768 * 72, runs)] } }

/-- Table records are due and their rows go through, with an index at either end of the table. -/
theorem test_table_records_due : ∀ x ∈ [(0x40, 3), (0x41, 2), (0x42, 3)],
    let op := x.1
    let j := x.2
    vecReads (onTable op j) 0 0 op = true ∧
    (match curVec (onTable op j) 0 0 with
     | some w => (match tableRows (if op = 0x40 then 0 else 3) (op != 0x41) (op != 0x40) (onTable op j) 0 w
        (overRows (if op = 0x40 then gatherRow 0 0 w else scatterRow (op == 0x42) 0 w) (onTable op j) w.rows) with | .ok _ => true | _ => false) &&
       decide (indexVal (onTable op j) 0 w 0 = j) && !fmtScaled (w.r.fmt 0) && decide ((w.r.slot (if op = 0x40 then 0 else 3)).rows = 3) &&
       decide (rowAccess (onTable op j) w.x.ctx [(0x100000, 32)] needWrite = .ok [(0x100000, 32)]) && (badPiece (onTable op j) [(0x100000, 32)]).isNone
     | none => false) = true := by decide +kernel

/-- Matrix engine 0 of tile 0 at a record: OP, ACC_IN, ACC_OUT, format of D and whether the output is due. -/
def onMxe (op accIn accOut dFmt : Nat) (outDue : Bool) : State :=
  let w0 := op * 2 ^ 60 + 1 * 2 ^ 56 + 1 * 2 ^ 52 + 0xF * 2 ^ 48 + dFmt * 2 ^ 44 + accIn * 2 ^ 34 + accOut * 2 ^ 32 + 3 * 2 ^ 24 + 31 * 2 ^ 16
  let s := withWords dev (tileBase dev 0 + 0x800) [BitVec.ofNat 64 (5 * 2 ^ 48 + 2 ^ 40), 0, 0, 0, 0, 0, 0, 0,
    BitVec.ofNat 64 w0, 32, BitVec.ofNat 64 (0x10000 * 2 ^ 32 + 0x20000), 0, BitVec.ofNat 64 (0x100000 * 2 ^ 32),
    BitVec.ofNat 64 (0x200000 * 2 ^ 32 + 0x300000), BitVec.ofNat 64 (0xFFFFFFFF * 2 ^ 32 + 0xFFFFFFFF), BitVec.ofNat 64 (0xFF800000 * 2 ^ 32 + 0x7F800000)]
  { s with eng := { s.eng with units := [(0, { cur := some ⟨0x800, 1, 0, 2⟩, ctx := 5, count := 1, outDue })] } }

/-- PASS (FRESH and, behind a KEEP of no elements, CONTINUE) and COMBINE records in order. -/
theorem test_pass_records_due :
    (∀ accIn ∈ [0, 1], let s0 := onMxe 1 accIn 0 1 false
      let s := { s0 with eng := { s0.eng with mxe := [(0, { b0 := { held := true, ctx := 5 } })] } }
      (match curRecord s 0 0 with
       | some (x, r) => tileRuns s 0 && !x.outDue && decide (r.op = 1) && decide (r.accIn = accIn) && !passError s 0 0 x.legacy r
       | none => false) = true) ∧
    (match curRecord (onMxe 2 0 2 1 false) 0 0 with
     | some (x, r) => !x.outDue && decide (r.op = 2) && !combineError x.legacy r
     | none => false) = true := by decide +kernel

/-- Outputs that are due: SAVE, PARTIAL, FINISH unscaled and scaled. -/
theorem test_outputs_due : ∀ x ∈ [(1, 1), (3, 1), (2, 1), (2, 4)],
    (match curRecord (onMxe 1 0 x.1 x.2 true) 0 0 with
     | some (y, r) => y.outDue && decide (r.accOut = x.1) && (fmtScaled r.dFmt == decide (x.2 = 4)) && tileRuns (onMxe 1 0 x.1 x.2 true) 0
     | none => false) = true := by decide +kernel

/-! ### Commands of queues -/

/-- Word 0 of a packet (R381). -/
def packet0 (op ctx len seq : Nat) : W64 := BitVec.ofNat 64 (op * 2 ^ 56 + ctx * 2 ^ 44 + len * 2 ^ 32 + seq)

/-- The command at the head of a queue, started at cue 4. -/
def headed (op ctx len : Nat) (ws : List W64) : Cmd := { idx := 3, entries := len, words := packet0 op ctx len 9 :: ws, taken := 3, started := some 4 }

/-- A state at cue 4 with a started command at the head of queue `q`; queues from 2 on are of context 5. -/
def queued (s : State) (q kind : Nat) (c : Cmd) : State :=
  { s with clk := { s.clk with cue := 4 }
           queues := [(q, { used := true, ctx := if q < 2 ∨ q = 1024 then 0 else 5, kind, cmds := [c] })] }

/-- What CmdDue asks, as a test. -/
def cmdReads (s : State) (q op : Nat) (c : Cmd) : Bool :=
  dueCmd s q op == some c && cmdOf s q c.idx == some c && deskCheck s q (wordAt c.words 0) == none && !actsOnFree s q (wordAt c.words 0)

theorem cmdDue_of {s : State} {q op : Nat} {c : Cmd} (h : cmdReads s q op c = true) : CmdDue s q op c := by
  simp only [cmdReads, Bool.and_eq_true, Bool.not_eq_true', beq_iff_eq] at h
  exact ⟨h.1.1.1, h.1.1.2, h.1.2, h.2⟩

/-- NOP on queues of every kind with a context, ORDER on a house queue with and without one. -/
theorem test_nop_and_order_due :
    (∀ q ∈ [0, 1, 1024], cmdReads (queued dev q 2 (headed 0 0 4 [])) q 0 (headed 0 0 4 []) = true) ∧
    (∀ q ∈ [2, 1023], ∀ k ∈ [0, 1], cmdReads (queued dev q k (headed 0 5 1 [])) q 0 (headed 0 5 1 []) = true) ∧
    (∀ c ∈ [0, 5], let cm := headed 3 c 1 []
      let s := queued dev 1 2 cm
      cmdReads s 1 3 cm = true ∧ cmdCtx s 1 cm = c ∧ isHouse 1 = true) := by decide +kernel

/-- A fence of context 0 at physical address 0x4000 that a signal or a wait names, and a read of it in progress; the fence at its least
and greatest value. -/
theorem test_fences_are_reached : ∀ v ∈ [0, 2 ^ 64 - 1],
    let at_ := fun (op : Nat) (stage : Nat) => { headed op 0 1 [0x4000, 77] with stage }
    let s := fun (op stage : Nat) => queued (withWords dev 0x4000 [BitVec.ofNat 64 v]) 0 2 (at_ op stage)
    (∀ op ∈ [1, 2], cmdReads (s op 0) 0 op (at_ op 0) = true) ∧
    (match fenceAt (s 1 0) 0 0x4000 needSignal with | .at pa => pa == 0x4000 | _ => false) = true ∧
    (match fenceAt (s 2 0) 0 0x4000 needRead with | .at pa => pa == 0x4000 | _ => false) = true ∧
    dirOf (s 1 0) (0x4000 / 128) = {} ∧ (s 1 0).coh.queue = [] ∧ (readWord (s 1 0) 0x4000).toNat = v ∧
    headCmd (queueOf (s 2 1) 0) = some (at_ 2 1) ∧ cmdOf (s 2 1) 0 3 = some (at_ 2 1) ∧ (ctxOf (s 2 1) (cmdCtx (s 2 1) 0 (at_ 2 1))).fault = none := by
  decide +kernel

/-- ENERGY_QUERY in each scope; a packet of an opcode no table defines. -/
theorem test_energy_query_due :
    (∀ scope ∈ [0, 1, 2, 3], let c := headed 0x60 5 1 [BitVec.ofNat 64 (7 * 2 ^ 32 + scope)]
      let s := queued dev 0 2 c
      let s := setQueue s 7 { used := true, ctx := 5 }
      cmdReads s 0 0x60 c = true ∧ cmdCtx s 0 c = 5 ∧ queueUsed s (bits (wordAt c.words 1) 41 32) = true ∧ bits (wordAt c.words 1) 1 0 = scope) ∧
    (∀ op ∈ [0x04, 0xFF], let c := headed op 0 1 []
      let s := queued dev 0 2 c
      headCmd (queueOf s 0) = some c ∧ cmdOf s 0 3 = some c ∧ c.started = some s.clk.cue ∧ pktOp (wordAt c.words 0) ∉ knownOps ∧
        s.sec.limp = false ∧ isHouse 0 = true) := by decide +kernel

/-- ABORT: found on a house queue, dispatched on another, and at its effect with a target that waits. -/
theorem test_aborts_reach_their_target :
    let w : List W64 := [BitVec.ofNat 64 7, 21]
    let target : Cmd := { idx := 0, words := [packet0 0x10 5 2 21], taken := 3 }
    let house := { headed 0x50 0 1 w with started := none }
    let own := headed 0x50 5 1 w
    let with7 := fun (s : State) => setQueue s 7 { used := true, ctx := 5, cmds := [target] }
    let s := with7 (queued dev 1024 2 house)
    let s' := with7 (queued dev 2 0 own)
    let c1 := { own with stage := 1 }
    let s'' := let x := with7 (queued dev 2 0 c1); { x with clk := { x.clk with cue := 5 } }
    cmdOf s 1024 3 = some house ∧ pktOp (wordAt house.words 0) = 0x50 ∧ isHouse 1024 = true ∧ deskCheck s 1024 (wordAt house.words 0) = none ∧
    mayAbort s 1024 7 = true ∧ cmdReads s' 2 0x50 own = true ∧ mayAbort s' 2 7 = true ∧ isHouse 2 = false ∧
    cmdOf s'' 2 3 = some c1 ∧ c1.started.getD 0 + 1 ≤ s''.clk.cue ∧ bit (wordAt c1.words 1) 63 = false ∧ bits (wordAt c1.words 1) 9 0 = 7 ∧
    ctxFalling s'' (queueOf s'' 2).ctx = false ∧ ctxFalling s'' (queueOf s'' 7).ctx = false ∧
    (queueOf s'' 7).recent.find? (fun r => r.1 == bits (wordAt c1.words 2) 31 0 && r.2.2 == s''.clk.cue) = none ∧
    (queueOf s'' 7).cmds.find? (fun y => pktSeq (wordAt y.words 0) == bits (wordAt c1.words 2) 31 0 && (7, y.idx) != (2, 3)) = some target ∧
    cmdOf s'' 7 0 = some target ∧ target.started = none ∧ target.fin = none := by decide +kernel

/-! ### Copies -/

/-- `dev` with a page of 512 MiB for context 5: virtual addresses below 2 ^ 29 are physical ones from 2 ^ 29, granted whole; `o` is the
owner entry of its first granule. -/
def paged : State :=
  let s := withWords (withWords dev 0x200000 [BitVec.ofNat 64 (2 ^ 63 + 0x210000)]) 0x210000 [BitVec.ofNat 64 (2 ^ 63 + 15 * 2 ^ 58 + 2 ^ 62 + 2 ^ 29)]
  { s with ctxs := [(5, { st := .live, part := 0, root := 0x200000 })]
           mem := { s.mem with owner := [(1, 0x2000), (256, 0x2005)] } }

/-- A COPY, FILL or COPY_CHECKED of 16 bytes from 0x100 to 0x1000, of none, and with no tile in service. -/
theorem test_copy_commands_due : ∀ op ∈ [0x10, 0x11, 0x12], ∀ q ∈ [2, 1023],
    let c := fun (n : Nat) => headed op 5 2 [0x100, 0x1000, BitVec.ofNat 64 (n * 2 ^ 32 + 1), BitVec.ofNat 64 (2 ^ 32 + 1), 0, 0, 0, 0, 0, 0, 0x1122334455667788]
    let s := queued paged q 1 (c 16)
    let x := packetTransfer 5 ((liveTiles s 0).getD (q % 9) 0) op (c 16).words
    cmdReads s q op (c 16) = true ∧ copyFormat s x = none ∧ (liveTiles s 0).length = 9 ∧
    (let s := queued paged q 1 (c 0)
     cmdReads s q op (c 0) = true ∧ copyFormat s (packetTransfer 5 (q % 9) op (c 0).words) = some 3) ∧
    let s := { s with panel := { s.panel with posOut := (upFrom 0 10).map (fun n => (n, true)) } }
    cmdReads s q op (c 16) = true ∧ liveTiles s 0 = [] := by decide +kernel

/-- A copy command whose last write is done; one that fills pages of its context. -/
def copying (x : Transfer) (op : Nat) : State :=
  let s := queued paged 2 1 { headed op 5 2 [] with stage := 1 }
  { s with eng := { s.eng with copies := [(2, some x)] } }

def fill16 : Transfer :=
  { ctx := 5, srcKind := 2, src := 0, dst := 0x1000, counts := [16, 1, 1, 1], srcStride := [0, 0, 0], dstStride := [0, 0, 0], pattern := 0x1122334455667788 }

theorem test_copy_completes :
    let x := { fill16 with ended := some 3, at_ := 16 }
    let s := copying x 0x11
    let c := { headed 0x11 5 2 [] with stage := 1 }
    headCmd (queueOf s 2) = some c ∧ cmdOf s 2 3 = some c ∧ tget none s.eng.copies 2 = some x ∧ 3 < s.clk.cue ∧
      s.net.xfers.any (fun kv => kv.2.used && kv.2.kind == 1 && kv.2.owner.1 == 2) = false := by decide +kernel

theorem test_fill_tile_due :
    let s := copying fill16 0x11
    tileServes s 0 = true ∧ (ctxOf s 5).fault = none ∧ fill16.at_ < streamLen fill16 ∧ fill16.srcPlace = [] ∧ fill16.dstPlace = [] ∧ fill16.xfer = none ∧ fill16.xferIn = none ∧ portsTake s [] = true ∧
    (match resolveRuns s 5 (dstRuns fill16 0 (tileLen fill16)) needWrite with
      | .ok ps => ps == [(2 ^ 29 + 0x1000, 16)] && ps.all (fun p => cacheable p.1) && (badPartial s ps).isNone
      | .bad _ _ => false) = true := by decide +kernel

/-- `s` with an entry in force for tile 0 whose one slot-run record sends over a joist (R53). -/
def sending (s : State) : State :=
  { modOrder s 0 (fun o => { o with pos := 7, kind := .advance, live := true }) with
    eng := { s.eng with prog := [(progKey 0 7, [BitVec.ofNat 64 (2 ^ 63 + 2 ^ 16 + 7), 0])], runs := [(0, [BitVec.ofNat 64 (2 ^ 52 + 8 * 2 ^ 24 + 64 * 2 ^ 8)])] } }

/-- A sound record of a mover's list (its 16 words), and a tile of a transfer between tile stores or from a pattern. -/
theorem test_mover_records_due :
    let words : List W64 := [BitVec.ofNat 64 (2 ^ 62 + 2 ^ 61 + 2 ^ 32), 0x100, 0x2000, BitVec.ofNat 64 (16 * 2 ^ 32 + 1), BitVec.ofNat 64 (2 ^ 32 + 1)]
    let s := withWords dev (tileBase dev 0 + 0x840) words
    let s := { sending s with eng := { (sending s).eng with units := [(24, { cur := some ⟨0x800, 1, 0, 2⟩, ctx := 5, count := 1 })] } }
    tileRuns s 0 = true ∧ (unitOf s 0 24).recNo < (unitOf s 0 24).count ∧ badRecord s 0 (tileWords s 0 0x840 16) = false ∧
    ∀ k ∈ [1, 2], let x := { recordTransfer s 0 5 (tileWords s 0 0x840 16) with srcKind := k }
      (ctxOf s x.ctx).fault = none ∧ x.srcTile < 72 ∧ x.dstKind = 1 ∧ x.dstTile = 1 ∧ x.mode = 0 ∧ x.save = false ∧ x.at_ < streamLen x ∧
      (∀ r ∈ srcRuns x x.at_ (tileLen x), r.1 + r.2 ≤ tileSize) ∧ (∀ r ∈ dstRuns x x.at_ (tileLen x), r.1 + r.2 ≤ tileSize) ∧
      x.fetch = none ∧ x.srcPlace = [] ∧ x.dstPlace = [] ∧ x.xfer = none ∧ portsTake s [] = true ∧
      transferGranted s 0 (if k = 1 then (srcRuns x x.at_ (tileLen x)).map (fun r => (tileBase s x.srcTile + r.1, r.2)) else [])
        ((dstRuns x x.at_ (tileLen x)).map (fun r => (tileBase s x.dstTile + r.1, r.2))) = true := by decide +kernel

/-! ### Nodes of a run -/

/-- `paged` with a page of 64 KiB of the host of port 0 at virtual address 2 ^ 42 for context 5. -/
def hosted : State :=
  withWords (withWords (withWords paged 0x200008 [BitVec.ofNat 64 (2 ^ 63 + 0x220000)]) 0x220000 [BitVec.ofNat 64 (2 ^ 63 + 0x230000)]) 0x230000
    [BitVec.ofNat 64 (2 ^ 63 + 15 * 2 ^ 58 + 2 ^ 62 + 0x800000000000)]

/-- An external FP32 tensor of 16 elements at a virtual address (R67). -/
def tensor16 (va : Nat) : List W64 := [BitVec.ofNat 64 (2 ^ 60 + 2 ^ 53 + 2 ^ 48), BitVec.ofNat 64 va, 0, 16]

/-- A run of context 5 whose plan has a SIGNAL of fence 0x4000 first, then a node. -/
def running (node : List W64) : State :=
  { hosted with parts := [(0, { partOf hosted 0 with
      order := { runs := [{ id := 6, ctx := 5, slot := 2, begun := true, done := [0], ready := [0] }] }
      scripts := [(2, { used := true, ctx := 5, nodes := [[0x0700000000000000, 0x4000, 77], node], uses := [([], [0])], tensors := [tensor16 0x1000, tensor16 (2 ^ 42)] })] })]
                net := { hosted.net with routes := [(9, 3)], links := [(3, { state := 4 })] } }

theorem test_signal_node_due :
    let s := running [0x0700000000000000, 0x4000, 77]
    (∃ x, nodeDue s 0 6 1 7 = some x ∧ earlierDone s 0 x.1 1 = true) ∧
    (match fenceAt s 5 0x4000 needSignal with | .at pa => pa == 0x20004000 && decide (dirOf s (pa / 128) = {}) && s.coh.queue.isEmpty | _ => false) = true := by
  have h : (nodeDue (running [0x0700000000000000, 0x4000, 77]) 0 6 1 7).any
      (fun x => earlierDone (running [0x0700000000000000, 0x4000, 77]) 0 x.1 1) = true := by decide +kernel
  refine ⟨?_, by decide +kernel⟩
  cases hx : nodeDue (running [0x0700000000000000, 0x4000, 77]) 0 6 1 7 with
  | none => rw [hx] at h; cases h
  | some x => rw [hx] at h; exact ⟨x, rfl, h⟩

/-- COPY of tensor 0 to tensor 1, which the host holds; a WINDOW_GET into and a WINDOW_PUT of tensor 0, with device 9 of link 3. -/
theorem test_transfer_nodes_due :
    let copy := running [0x0400000000000000, BitVec.ofNat 64 (2 ^ 32)]
    let get := running [0x0600000000000000, BitVec.ofNat 64 (9 * 2 ^ 24 + 5 * 2 ^ 12), BitVec.ofNat 64 (7 * 2 ^ 48)]
    let put := running [0x0500000000000000, BitVec.ofNat 64 (9 * 2 ^ 24 + 5 * 2 ^ 12), BitVec.ofNat 64 (7 * 2 ^ 48)]
    (nodeDue copy 0 6 1 4).any (fun x => sourceReady x.1 x.2.1 1 0 && (nodeSteps x.2.1 1).isEmpty && x.2.1.tensors.getD 0 [] == tensor16 0x1000) = true ∧
    (nodeDue get 0 6 1 6).any (fun x => bits (wordAt x.2.2 1) 47 24 == 9) = true ∧
    (nodeDue put 0 6 1 5).any (fun x => sourceReady x.1 x.2.1 1 0 && !bit (wordAt x.2.2 3) 63) = true ∧
    leaves copy 5 (tensor16 (2 ^ 42)) = true ∧ leaves put 5 (tensor16 0x1000) = false ∧ tensorPacked (tensor16 0x1000) = 64 ∧
    (match resolveRuns put 5 (tensorRuns (tensor16 0x1000) 0 64) needRead with | .ok ps => ps == [(0x20001000, 64)] && (badPiece put ps).isNone | _ => false) = true ∧
    (xferOf copy 0).used = false ∧ routeOf put put.clk.cueMaster 9 = 3 ∧ (linkOf put 3).state = 4 := by decide +kernel

/-! ### Caches and homes -/

/-- `dev` with a directory entry for line 0x40 and requests that wait at its home. -/
def homed (e : DirEntry) (q : List (Nat × Asker)) : State :=
  { dev with coh := { dev.coh with dir := [(0x40, e)], queue := q } }

/-- Every request of a cache is first for its line: held by none, shared with cache 74, owned by it. -/
theorem test_cache_requests_due : ∀ r ∈ [Req.rdShared, .rdOwn, .ownNodata, .upgrade],
    ∀ e ∈ [({} : DirEntry), { sharers := 2 ^ 73 + 2 ^ 74 }, { sharers := 2 ^ 74, owned := true }],
    let s := homed e [(0x40, .cache 73 r)]
    homeServes s 0x40 = true ∧ nextAsker s 0x40 = some (.cache 73 r) ∧ (dirOf s 0x40).data = none ∧ badBurst s (128 * 0x40) 128 = none ∧
      (s.coh.dir.filter (fun kv => kv.1 % 131072 == 0x40 && homeHub (128 * kv.1) == homeHub (128 * 0x40))).length < 16 := by
  decide +kernel

/-- Uncached requests are first for their line: no cache holds it, one owns it. -/
theorem test_uncached_requests_due : ∀ e ∈ [({} : DirEntry), { sharers := 2 ^ 74, owned := true }],
    let s := { homed e [] with mem := { dev.mem with owner := [(0, 0x2005)] } }
    (dirOf s 0x40).busy = none ∧ (∀ q ∈ s.coh.queue, q.1 ≠ 0x40) ∧ homeServes s 0x40 = true ∧ ownerOk s 5 0x2000 = true ∧ ownerOk s 5 0x2078 = true ∧ deadAddr s 0x2000 = none ∧ deadAddr s 0x2078 = none ∧
      (dirOf s 0x40).data = none ∧ badBurst s 0x2000 128 = none ∧ s.mem.bad = [] ∧
      (e.sharers ≠ 0 → bitList e.sharers 200 ≠ []) := by decide +kernel

/-- PUTs of a line in the writeback buffer: from the owner, with a copy no snoop has taken and with one that a snoop has; from a sharer,
the only one and one of two; from a cache that the entry does not record; from one that holds the line again. -/
theorem test_puts_due : ∀ x ∈ [(Req.putS, Mesi.s), (.putE, .e), (.putM, .m)], ∀ taken ∈ [false, true],
    ∀ e ∈ [({ sharers := 2 ^ 74 } : DirEntry), { sharers := 2 ^ 73 }, { sharers := 2 ^ 73 + 2 ^ 74 }, { sharers := 2 ^ 73, owned := true }],
    let v : Line := { line := 0x40, st := x.2, data := 9, taken }
    let s := homed e [(0x40, .cache 73 x.1)]
    let s := { s with coh := { s.coh with wb := [(73, [v])] } }
    homeServes s 0x40 = true ∧ nextAsker s 0x40 = some (.cache 73 x.1) ∧
      (tget [] s.coh.wb 73).find? (fun l => l.line == 0x40 && putOf l.st == x.1) = some v ∧ l2Find s 73 0x40 = none ∧
      ((dirOf s 0x40).sharers.testBit 73 = false ∨ (dirOf s 0x40).owned = decide (e.owned = true)) ∧
      l2Find (setL2 s 73 [{ line := 0x40, st := .s, data := 8 }]) 73 0x40 ≠ none := by decide +kernel

/-- A grant finds room in its set, or 16 lines there. -/
theorem test_grants_due : ∀ n ∈ [0, 15, 16],
    let s := homed { granted := some (73, .s, some 7) } []
    let s := setL2 s 73 ((upFrom 1 n).map (fun k => { line := 0x40 + 512 * k, st := .e, data := 0 }))
    (dirOf s 0x40).granted = some (73, .s, some 7) ∧ s.coh.waiters = [] ∧
      (((l2Of s 73).filter (fun l => l.line != 0x40)).filter (fun l => l.line % l2Sets 73 == 0x40 % l2Sets 73)).length = n := by decide +kernel

/-- The last answer to a snoop of each kind is due from cache 74, which holds the line; and one of two answers. -/
theorem test_snoops_due : ∀ st ∈ [Mesi.m, .e, .s],
    let e := fun (a : Asker) (k : Nat) => { busy := some a, awaiting := [(74, k)], sharers := 2 ^ 74, owned := decide (st ≠ .s) : DirEntry }
    let s := fun (a : Asker) (k : Nat) => setL2 (homed (e a k) []) 74 [{ line := 0x40, st, data := 9 }]
    (∀ r ∈ [Req.rdShared, .rdOwn, .ownNodata, .upgrade], let t := s (.cache 73 r) (if r = .rdShared then 0 else 1)
      (dirOf t 0x40).busy = some (.cache 73 r) ∧ (dirOf t 0x40).awaiting = [(74, if r = .rdShared then 0 else 1)] ∧ (dirOf t 0x40).data = none ∧
        t.mem.bad = [] ∧ copyOf t 74 0x40 = some { line := 0x40, st, data := 9 } ∧ (st = .m → (dirOf t 0x40).owned = true)) ∧
    (dirOf (s (.read 5 0x2000 16) 2) 0x40).busy = some (.read 5 0x2000 16) ∧ (dirOf (s (.read 5 0x2000 16) 2) 0x40).awaiting = [(74, 2)] ∧
    (dirOf (s (.read 5 0x2000 16) 2) 0x40).sharers ≠ 0 ∧
    ([(74, 1), (75, 1)].erase (74, 1) ≠ ([] : List (Nat × Nat))) := by decide +kernel

/-! ### Power, cues and sequencers -/

def withClk (s : State) (f : Clock → Clock) : State := { s with clk := f s.clk }
def withOrder (s : State) (f : Order → Order) : State := modOrder s 0 f

/-- Steps of the clocks may be decided and changed: over and under counts at their limits, at the extreme steps. -/
theorem test_module_law_due : ∀ x ∈ [(15, 0), (0, 7), (1, 1), (10, 4)],
    let s := withClk dev (fun c => { c with aclk := x.1, pclk := x.2, overCount := 8, underCount := 1024, aclkDue := some 3, pclkDue := some 4, cue := 4 })
    s.clk.shed = false ∧ s.clk.flowLow = false ∧ s.clk.stopped = false ∧ 8 ≤ s.clk.overCount ∧ 1024 ≤ s.clk.underCount ∧ 3 ≤ s.clk.cue ∧ 4 ≤ s.clk.cue ∧
      (withClk s (fun c => { c with shed := true, flowLow := true })).clk.shed = true := by decide +kernel

theorem test_dilution_due : ∀ l ∈ [1, 7],
    let s := modPart dev 0 (fun x => { x with cap := 100, overCount := 8, underCount := 1024, level := l, advances := 8 - l })
    (partOf s 0).cap ≠ 0 ∧ 8 ≤ (partOf s 0).overCount ∧ 1024 ≤ (partOf s 0).underCount ∧ (partOf s 0).level ≠ 0 ∧ (partOf s 0).idlePending = false ∧
      8 - (partOf s 0).level ≤ (partOf s 0).advances ∧ partRuns s 0 = true ∧ partCues s 0 = true := by decide +kernel

/-- A warden's report is due for a die of each kind; a full-load period ends; trips and rechecks of a die of each kind. -/
theorem test_wardens_due : ∀ die ∈ [0, 78, 80, 87, 90, 105],
    let s := modDie (withClk dev (fun c => { c with cue := 70 })) die (fun d => { d with fullFrom := some 6, recheck := true })
    s.clk.cue ≠ 0 ∧ (dieOf s die).estCue ≠ s.clk.cue ∧ (dieOf s die).fullFrom = some 6 ∧ 6 + 64 = beat s ∧ (dieOf s die).unpowered = false ∧
      (dieOf s die).recheck = true ∧ ¬ (88 ≤ die ∧ die < 90) ∧
      (let t := modDie s die (fun d => { d with unpowered := true, tripped := some 68 })
       (dieOf t die).unpowered = true ∧ (dieOf t die).tripped = some 68 ∧ 68 + 1 < beat t) := by decide +kernel

/-- A boundary and a call point are due, with each verdict formed; the house-cycle work; an idle tick. -/
theorem test_boundaries_due :
    (∀ v ∈ [Verdict.hold, .advance, .idle, .reset],
      let s := withOrder (withClk dev (fun c => { c with cue := 2 ^ 20 - 1, called := true })) (fun o => { o with verdict := some v })
      s.mgmt.off = false ∧ s.clk.stopped = false ∧ s.clk.called = true ∧ partCues s 0 = true ∧ (partOf s 0).order.verdict = some v) ∧
    (let s := withOrder (withClk dev (fun c => { c with cue := 9, stopped := true, restarting := true })) (fun o => { o with verdict := some .advance })
     s.mgmt.off = false ∧ (s.clk.stopped = true ∧ s.clk.restarting = true ∧ s.clk.called = false) ∧ partCues s 0 = true ∧ (partOf s 0).order.verdict = some .advance) ∧
    (let s := withClk dev (fun c => { c with cue := 3 })
     isOff s = false ∧ s.clk.called = false ∧ s.clk.cue ≠ 0 ∧ s.clk.stopped = false ∧ partCues s 0 = true ∧ partCues s 1 = false) ∧
    (let s := withClk dev (fun c => { c with houseCycleDue := true })
     let s := { s with net := { s.net with links := [(3, { state := 3 })], peers := [(1, { valid := true })] } }
     s.clk.houseCycleDue = true ∧ twf ({} : Link) s.net.links = true ∧ twf ({} : Peer) s.net.peers = true) ∧
    isOff dev = false ∧ (withClk dev (fun c => { c with stopped := true })).clk.stopped = true := by decide +kernel

/-- 256 holds of one entry with late work of a live context; a position to compose; 1,024 empty cues. -/
theorem test_sequencers_due :
    (let s := withClk (withOrder dev (fun o => { o with live := true, pos := 4, kind := .hold, holdCount := 256, verdict := some .hold, runs := [{ id := 6, ctx := 5 }] })) (fun c => { c with cue := 9 })
     let s := { s with eng := { s.eng with units := [(0, { waiting := [⟨0x800, 6, 4, 0⟩] })] } }
     partCues s 0 = true ∧ (partOf s 0).order.holdCount = 256 ∧ (partOf s 0).order.kind = .hold ∧ (partOf s 0).order.verdict = some .hold ∧ stalled s 0 = [(5, 0)] ∧
       (ctxOf s 5).st = .live ∧ (ctxOf s 5).fault = none) ∧
    (∀ n ∈ [0, 14], let s := withOrder dev (fun o => { o with entered := 1030, nextPos := 1030 + n, fixed := (upFrom 1030 n).map (fun k => { pos := k, written := true }) ++ [{ pos := 1030 + n, written := false }] })
      partRuns s 0 = true ∧ (partOf s 0).resetBegun = false ∧ (partOf s 0).order.nextPos < (partOf s 0).order.entered + 15 ∧
        (∀ x ∈ (partOf s 0).order.fixed, (partOf s 0).order.nextPos ≤ x.pos → x.written = false) ∧
        ∀ x ∈ (partOf s 0).order.fixed, x.pos % 1024 = (partOf s 0).order.nextPos % 1024 → x.pos = (partOf s 0).order.nextPos) ∧
    (let s := modPart dev 0 (fun x => { x with emptyCues := 1024 })
     partCues s 0 = true ∧ 1024 ≤ (partOf s 0).emptyCues ∧ partBusy s 0 = false ∧ (partOf s 0).resetCause = none) := by decide +kernel

/-- One step that starts a unit of tile 3 for node 1. -/
def oneNodeStep : List PlanStep := [{ claim := ⟨8, 0, 0, 0, 0⟩, entries := [⟨3, 1, [], [], [1], []⟩], hubs := [], chain := false }]

/-- A run that has left, with its PLAY_RUN; a context with a fault of an earlier cue. -/
theorem test_completions_and_losses_due :
    let c := { headed 0x21 5 1 [] with stage := 1 }
    let s := queued (withOrder dev (fun o => { o with runs := [{ id := 6, ctx := 5, queue := 2, idx := 3, left := true, slot := 2, done := [0] }] })) 2 0 c
    let s := modPart s 0 (fun x => { x with scripts := [(2, { used := true, ctx := 5, nodes := [[0x0700000000000000], [0x0100000000000000]], steps := oneNodeStep })] })
    let t := { s with ctxs := [(5, { st := .live, part := 0, fault := some { cue := 3, status := 0x105 } })] }
    (match runOf s 0 6 with
      | some r => r.left && r.xfers.isEmpty && (scriptOf s 0 r.slot).nodes.length == 2 && !(nodeSteps (scriptOf s 0 r.slot) 1).isEmpty && r.done.contains 0 && (partOf s 0).order.loads.isEmpty && cmdOf s r.queue r.idx == some c
      | none => false) = true ∧
    (ctxOf t 5).st = .live ∧ (ctxOf t 5).fault = some { cue := 3, status := 0x105 } ∧ 3 < t.clk.cue := by decide +kernel

/-! ### Address spaces, contexts, queues, objects, windows -/

/-- `hosted` with both stacks of bay 0 in service and room for table nodes in granule 1. -/
def backed : State :=
  { hosted with ctxs := [(5, { st := .live, part := 0, root := 0x200000, nodes := [(1, 4)] })]
                mem := { hosted.mem with mstacks := [(0, { state := 1 }), (1, { state := 1 })] } }

/-- A MAP of one page of the partition's memory at 2 ^ 42 + 2 ^ 17 is provided. -/
theorem test_map_due :
    let c := headed 0x30 5 1 [BitVec.ofNat 64 (15 * 2 ^ 59 + 2 ^ 42 + 2 ^ 17), 1, 0, 0]
    let s := queued backed 0 2 c
    cmdReads s 0 0x30 c = true ∧ cmdCtx s 0 c = 5 ∧ mapFormat s 5 (wordAt c.words) = none ∧ pinnedRange s 5 (2 ^ 42 + 2 ^ 17) 65536 = false ∧
    chooseStacks s 0 0 = some [0, 1] ∧
    (match mapPages 5 0 false 0 0x100000000000 15 [0, 1] (2 ^ 42 + 2 ^ 17) 0 1 0 s [3] with
      | .got _ _ rest => rest.isEmpty
      | _ => false) = true := by decide +kernel

/-- `backed` with an object of two granules, shared and not yet mapped. -/
def withObject : State := setObj backed 4 { state := 1, gen := 7, creator := 5, shared := true, granules := [3, 5] }

/-- MAPs of two pages of an object, of two pages of the host and of two of a remote window are provided. -/
theorem test_maps_of_other_targets_due : ∀ x ∈ [((1 : Nat), (4 : Nat)), (2, 0x800000080000), (3, 0x100000000000)],
    let c := headed 0x30 5 1 [BitVec.ofNat 64 ((if x.1 = 1 then 15 else 12) * 2 ^ 59 + 2 ^ 42 + 2 ^ 17), BitVec.ofNat 64 (x.1 * 2 ^ 62 + 2),
      if x.1 = 1 then BitVec.ofNat 64 (7 * 2 ^ 32 + 4) else if x.1 = 2 then 0x80000 else BitVec.ofNat 64 (9 * 2 ^ 24 + 5 * 2 ^ 12), 0x20000]
    let s := queued withObject 0 2 c
    let s' := if x.1 = 3 then modSlot s 0 (fun _ => {
        valid := true, owner := 5, gid := bits (wordAt c.words 3) 47 24, window := bits (wordAt c.words 3) 23 12
        epoch := bits (wordAt c.words 4) 63 48, base := bits (wordAt c.words 4) 39 0, pages := 0 }) else s
    cmdReads s 0 0x30 c = true ∧ mapFormat s 5 (wordAt c.words) = none ∧ (x.1 = 1 → mappable s 5 4 7 c.taken = true) ∧ (ctxOf s 5).binding < 2 ∧
    (upFrom 0 4096).find? (fun d => !(slotOf s d).valid) = some 0 ∧ pinnedRange s 5 (2 ^ 42 + 2 ^ 17) 131072 = false ∧ chooseStacks s 0 0 = some [0, 1] ∧
    (match mapPages 5 0 false x.1 x.2 (if x.1 = 1 then 15 else 12) [0, 1] (2 ^ 42 + 2 ^ 17) (if x.1 = 1 then 2 else 0) 2 0 s' [3] with
      | .got _ _ _ => true
      | _ => false) = true := by decide +kernel

/-- A MAP of one page of the host beside the page of `hosted`; UNMAP of that page; AS_INVALIDATE. -/
theorem test_map_of_host_page_due :
    let va := 2 ^ 42 + 2 ^ 16
    let m := headed 0x30 5 1 [BitVec.ofNat 64 (12 * 2 ^ 59 + va), BitVec.ofNat 64 (2 * 2 ^ 62 + 1), 0x70000, 0]
    let s := queued backed 0 2 m
    let u := headed 0x31 5 1 [BitVec.ofNat 64 (2 ^ 42), 1]
    let s' := queued backed 0 2 u
    let i := headed 0x32 5 1 []
    cmdReads s 0 0x30 m = true ∧ mapFormat s 5 (wordAt m.words) = none ∧ bit (wordAt m.words 1) 63 = false ∧ bits (wordAt m.words 2) 63 62 = 2 ∧
      bits (wordAt m.words 2) 31 0 = 1 ∧ (ctxOf s 5).binding < 2 ∧ pinnedRange s 5 va 65536 = false ∧ walk s (ctxOf s 5).root va = none ∧
      nodeAt s (ctxOf s 5).root va 1 = some 0x230008 ∧ dirOf s (0x230008 / 128) = {} ∧ s.coh.queue = [] ∧
    cmdReads s' 0 0x31 u = true ∧ cutsBig s' 5 (2 ^ 42) 65536 = false ∧ pinnedRange s' 5 (2 ^ 42) 65536 = false ∧
      (walk s' (ctxOf s' 5).root (2 ^ 42)).any (fun x => !x.2 && (hostOf (entryPa x.1)).isSome) = true ∧
      nodeAt s' (ctxOf s' 5).root (2 ^ 42) 1 = some 0x230000 ∧
    cmdReads (queued backed 0 2 i) 0 0x32 i = true ∧ cmdCtx (queued backed 0 2 i) 0 i = 5 := by decide +kernel

/-- CONTEXT_CREATE of number 4095, with and without DEBUG; CONTEXT_DESTROY of context 5 and its queue. -/
theorem test_contexts_due : ∀ d ∈ [0, 1], ∀ q ∈ [0, 1024],
    let c := headed 0x42 0 1 [BitVec.ofNat 64 (d * 2 ^ 20 + 4095), 11]
    let s := queued backed q 2 c
    let x := headed 0x43 0 1 [5]
    let s' := setQueue (queued backed q 2 x) 2 { used := true, ctx := 5 }
    cmdReads s q 0x42 c = true ∧ isHouse q = true ∧ (ctxOf s 4095).st = .free ∧ (partOf s 0).state = 2 ∧ pathMay s q 0 = true ∧
    (match createContext s 4095 0 0 false (d == 1) 11 [3] with | .got _ _ _ => true | _ => false) = true ∧
    cmdReads s' q 0x43 x = true ∧ twf ({} : Queue) s'.queues = true ∧ (ctxOf s' 5).st ≠ .free ∧ pathOwns s' q 5 = true ∧ ctxQueues s' 5 = [2] ∧
    (let y := { x with stage := 1 }
     let s := setQueue (queued backed q 2 y) 2 { used := true, ctx := 5 }
     cmdOf s q 3 = some y ∧ pktOp (wordAt y.words 0) = 0x43 ∧ y.fin = none ∧ twf ({} : Queue) s.queues = true ∧ (ctxOf s 5).st ≠ .free ∧ ctxQueues s 5 = [2]) := by
  decide +kernel

/-- QUEUE_CREATE and QUEUE_DESTROY of the first and last numbers. -/
theorem test_queues_due : ∀ x ∈ [(2, 0), (1023, 10)],
    let n := x.1
    let ord := x.2
    let c := headed 0xA0 0 1 [BitVec.ofNat 64 (5 * 2 ^ 52 + 2 ^ 50 + ord * 2 ^ 46 + n), 0x10000, 0x40000, BitVec.ofNat 64 (2 ^ 63), 0]
    let s := queued backed 0 2 c
    let x := headed 0xA1 0 1 [BitVec.ofNat 64 n]
    let s' := setQueue (queued backed 0 2 x) n { used := true, ctx := 5 }
    cmdReads s 0 0xA0 c = true ∧ (queueOf s n).used = false ∧ (ctxOf s 5).st = .live ∧ (ctxOf s 5).binding = 0 ∧
    ringMapped s 5 0x10000 (64 * 2 ^ (ord + 6)) needRead = true ∧ ringMapped s 5 0x40000 (32 * 2 ^ (ord + 6)) needWrite = true ∧
    cmdReads s' 0 0xA1 x = true ∧ (queueOf s' n).used = true := by decide +kernel

/-- A queue of the application cores. -/
theorem test_core_queue_due :
    let c := headed 0xA0 0 1 [BitVec.ofNat 64 (5 * 2 ^ 52 + 2), 0x10000, 0x40000, 13, 0x50000]
    let s := queued { backed with ctxs := [(5, { ctxOf backed 5 with binding := 2 })] } 0 2 c
    cmdReads s 0 0xA0 c = true ∧ (ctxOf s 5).binding = 2 ∧ bits (wordAt c.words 4) 3 0 ≤ 13 ∧ ringMapped s 5 0x50000 8 needRead = true := by decide +kernel

/-- OBJ_CREATE of two granules, OBJ_RELEASE, and the end of a release. -/
theorem test_objects_due :
    let c := headed 0x40 5 1 [BitVec.ofNat 64 (2 ^ 63 + 2)]
    let s := queued backed 0 2 c
    let r := headed 0x41 5 1 [BitVec.ofNat 64 (7 * 2 ^ 32)]
    let o : Obj := { state := 1, gen := 7, creator := 5, granules := [3] }
    let s' := setObj (queued backed 0 2 r) 0 o
    let w := { r with stage := 1, passed := true }
    let s'' := setObj (queued backed 0 2 w) 0 { o with state := 2, waiter := some (0, 3) }
    cmdReads s 0 0x40 c = true ∧ chooseStacks s 0 0 = some [0, 1] ∧ freeNumber s.objs 1 0 = some 0 ∧
    (match takeObject 0 5 true [0, 1] 2 0 s [3, stackBytes / 0x200000] [] with | .got gs _ _ => gs == [3, stackBytes / 0x200000] | _ => false) = true ∧
    cmdReads s' 0 0x41 r = true ∧ (objOf s' 0).state = 1 ∧ (objOf s' 0).gen = bits (wordAt r.words 1) 63 32 ∧ isHouse 0 = true ∧
    (objOf s'' 0).state = 2 ∧ (objOf s'' 0).moved = [] ∧ (objOf s'' 0).waiter = some (0, 3) ∧ cmdOf s'' 0 3 = some w ∧ w.fin = none ∧ w.counted = none := by decide +kernel

/-- WINDOW_OPEN and WINDOW_CLOSE of window 4095 over a mapped range. -/
theorem test_windows_due :
    let o := headed 0x70 5 1 [0x10000, BitVec.ofNat 64 (4095 * 2 ^ 52 + 7 * 2 ^ 49 + 1), BitVec.ofNat 64 (2 ^ 48 + 9 * 2 ^ 24 + 9)]
    let s := queued backed 0 2 o
    let c := headed 0x71 5 1 [BitVec.ofNat 64 (4095 * 2 ^ 52)]
    let s' := queued { backed with net := { backed.net with windows := [(4095, { opened := true, ctx := 5 })] } } 0 2 c
    cmdReads s 0 0x70 o = true ∧ (windowOf s 4095).opened = false ∧ (windowOf s 4095).epoch < bits (wordAt o.words 3) 63 48 ∧
    rangeMapped s 5 0x10000 0x20000 (windowNeed true true true) = true ∧
    cmdReads s' 0 0x71 c = true ∧ (windowOf s' 4095).opened = true ∧ (windowOf s' 4095).ctx = 5 ∧
    cmdReads (queued backed 0 2 c) 0 0x71 c = true := by decide +kernel

/-! ### Plays -/

/-- The example play of `spec/03_play_format.md`, with an EXTENT[0] of tensor 1. -/
def examplePlay (extent : Nat) : List Byte :=
  wordBytes ([0x5941_4C50_0001_0040, 0x0000_0240_0000_0000, 0x0000_0040_0000_0003, 0x0000_01C0_0000_0001, 0, 0x0000_0200_0000_0001, 0, 0x31] ++
    [0x2141_0000_0000_0000, 0x0010_0000_0000, 0, 0x0000_0800_0000_1000, 0, 0, 8192] ++ List.replicate 9 0 ++
    [0x4041_0000_0000_0000, 0x0010_0100_0000, 0x0010_0200_0000, BitVec.ofNat 64 (0x0000_0400_0000_0000 + extent), 0, 0, 4096] ++ List.replicate 9 0 ++
    [0x2441_0000_0000_0000, 0x0010_0300_0000, 0, 0x0000_0800_0000_0400, 0, 0, 2048] ++ List.replicate 9 0 ++
    [0x0100_0002_0000_0000, 0x0000_0001_FFFF_0002, 0xFFFF_FFFF_0000_0000, 0xFF80_0000_7F80_0000, 0, 0, 0, 0] ++ [0x0400_0000_0000_0000, 5, 0, 0] ++ List.replicate 4 0)

/-- Its validation, and that with an extent that is no multiple of 32, give what the spec says (log 91: its 4,000 is a multiple). -/
theorem test_example_play :
    (examplePlay 4096).length = 576 ∧ validatePlay (examplePlay 4096) 0x40 576 = none ∧ playPriority (playConstraints (examplePlay 4096)) = 5 ∧
    (validatePlay (examplePlay 4016) 0x40 576).map rejectWord = some 0x0009_0100_0000_0001 := by decide +kernel

/-- A play of one SIGNAL node. -/
def signalPlay : List Byte := wordBytes [0x5941_4C50_0001_0040, 0x0000_0080_0000_0000, 0, 0x0000_0040_0000_0001, 0, 0, 0, 0x31, 0x0700000000000000, 0x4000, 77, 0, 0, 0, 0, 0]

/-- A plan of one step in which no engine works. -/
def oneStep : Plan :=
  { steps := [{ claim := ⟨0, 0, 0, 0, 0⟩, entries := [], hubs := [], chain := false }]
    regions := [], image := [], targets := [], moves := [], granules := [], places := [], linear := [], pieces := [] }

/-- A PLAY_LOAD behind another one, and at its turn with the play's bytes there: sound, and too long by its header. -/
theorem test_play_loads_due : ∀ n ∈ [128, 192],
    let c := headed 0x20 5 1 [0x40, BitVec.ofNat 64 n]
    let s := withOrder (queued backed 2 0 c) (fun o => { o with loads := [(7, 0)] })
    let k := { headed 0x20 5 1 [0x40, 128] with idx := 0, asked := true, stage := 1 }
    let s := setQueue s 7 { used := true, ctx := 5, cmds := [k] }
    let d := { c with stage := 1, asked := true, got := [(0, signalPlay ++ List.replicate (n - 128) 0)] }
    let t := withOrder (queued backed 2 0 d) (fun o => { o with loads := [(2, 3)] })
    cmdReads s 2 0x20 c = true ∧ (partOf s 0).order.loads = [(7, 0)] ∧ cmdOf s 7 0 = some k ∧
    loadTurn t 2 0x20 = some d ∧ cmdOf t 2 3 = some d ∧ (gotBytes d).length = loadLen n ∧
    validatePlay (gotBytes d) 0x40 n = (if n = 128 then none else some (0x0002, 0, 1)) ∧
    (planFails t 0 5 (ctxBusy t 5 2 3) (gotBytes d) oneStep).isNone = true ∧ planValid t 0 5 (ctxBusy t 5 2 3) (gotBytes d) oneStep = true := by decide +kernel

/-- An external FP32 tensor of 16 elements, its kind and random key given (R67). -/
def keyedTensor (kind key va : Nat) : List W64 :=
  [BitVec.ofNat 64 (2 ^ 60 + kind * 2 ^ 56 + 2 ^ 53 + 2 ^ 48 + key), BitVec.ofNat 64 va, 0, 16] ++ List.replicate 12 0

/-- A play of one VECTOR node: tensor 2 is the sum of tensors 0 and 1 (R66, R67, R79). -/
def sumPlay : List Byte :=
  wordBytes ([0x5941_4C50_0001_0040, 0x0000_0200_0000_0000, 0x0000_0040_0000_0003, 0x0000_01C0_0000_0001, 0, 0, 0, 0x31] ++
    keyedTensor 1 7 0x1000 ++ keyedTensor 1 8 0x2000 ++ keyedTensor 4 9 0x3000 ++
    [0x0200_0100_0000_0000, 0x0000_0001_FFFF_0002, 0xFFFF_FFFF_0000_0000, 0, 0, 0, 0, 0])

/-- A slot-run record of 8 windows of a channel of stack 0 for position 0, and one of 64 slots of brace 0 (R53). -/
def windowRun (ch : Nat) : W64 := BitVec.ofNat 64 (2 ^ 60 + ch * 2 ^ 40 + 8 * 2 ^ 8)
def braceRun : W64 := BitVec.ofNat 64 (64 * 2 ^ 8)

/-- An entry of tile 0 that starts one unit with its list, for one cue and node 0. -/
def startOne (u desc : Nat) (runs : List W64) : TileEntry :=
  { tile := 0, start := 2 ^ u, desc := List.replicate u 0 ++ [desc], span := [], nodes := [], runs }

/-- A record that moves 64 bytes; the header of a list of context 5 (R155, R187, R334, R335). -/
def moveRecord (w0 src dst : Nat) : List W64 :=
  [BitVec.ofNat 64 w0, BitVec.ofNat 64 src, BitVec.ofNat 64 dst, BitVec.ofNat 64 (64 * 2 ^ 32 + 1), BitVec.ofNat 64 (2 ^ 32 + 1)] ++ List.replicate 11 0
def listHead (count : Nat) : List W64 := BitVec.ofNat 64 (5 * 2 ^ 48 + count * 2 ^ 40) :: List.replicate 7 0

/-- A plan of `sumPlay` in three steps: a mover brings both tensors to the store of tile 0, vector engine 0 adds, the mover takes the
sum back. -/
def sumPlan : Plan :=
  { oneStep with
    steps := [
      { claim := ⟨1, 1, 0, 0, 0⟩, entries := [startOne 24 0x800 [windowRun 0x20, windowRun 0x40]]
        hubs := [⟨0, [braceRun, windowRun 0x20, windowRun 0x40]⟩], chain := false },
      { claim := ⟨1, 0, 0, 0, 0⟩, entries := [startOne 4 0xC00 []], hubs := [], chain := false },
      { claim := ⟨1, 1, 0, 0, 0⟩, entries := [startOne 24 0xA00 [windowRun 0x60, braceRun]], hubs := [⟨0, [windowRun 0x60]⟩], chain := false }]
    regions := [(0, 0x800, 0x1000)]
    image := [(0, 0x800, wordBytes (listHead 2 ++ moveRecord (2 ^ 61) 0x1000 0x1000 ++ moveRecord (2 ^ 61) 0x2000 0x1040)),
      (0, 0xA00, wordBytes (listHead 1 ++ moveRecord (2 ^ 62) 0x1080 0x3000)),
      (0, 0xC00, wordBytes (listHead 1 ++ ([BitVec.ofNat 64 (2 ^ 48 + 2 ^ 44 + 2 ^ 40 + 2 ^ 36 + 2 ^ 32 + 2 ^ 28 + 4 * 2 ^ 25 + 2 ^ 10), 0, 0,
        BitVec.ofNat 64 (16 * 2 ^ 32 + 1), BitVec.ofNat 64 (2 ^ 32 + 1), BitVec.ofNat 64 (2 ^ 32)] ++
        [0x1000, 0x1040, 0, 0x1080, 0].flatMap (fun a => [BitVec.ofNat 64 (a * 2 ^ 32), 0, 0]) ++ [0, 0, 0])))] }

/-- A sound play of one node with a plan of three steps. -/
theorem test_sum_play_due :
    let c := headed 0x20 5 1 [0x40, 512]
    let d := { c with stage := 1, asked := true, got := [(0, sumPlay)] }
    let t := withOrder (queued backed 2 0 d) (fun o => { o with loads := [(2, 3)] })
    loadTurn t 2 0x20 = some d ∧ cmdOf t 2 3 = some d ∧ (gotBytes d).length = loadLen 512 ∧ validatePlay sumPlay 0x40 512 = none ∧
    (planFails t 0 5 (ctxBusy t 5 2 3) sumPlay sumPlan).isNone = true ∧ planValid t 0 5 (ctxBusy t 5 2 3) sumPlay sumPlan = true ∧ sumPlan.moves = [] := by
  decide +kernel

/-- PLAY_RUN and PLAY_UNLOAD of a resident handle, with and without a run of it, and of one that is not resident. -/
theorem test_runs_and_unloads_due : ∀ runs ∈ [[], [({ id := 4, slot := 9 } : Run)]],
    let s := fun (op h : Nat) => withOrder (modPart (queued backed 2 0 (headed op 5 1 [BitVec.ofNat 64 h])) 0
      (fun x => { x with scripts := [(9, { used := true, gen := 3, ctx := 5, granules := [8] })] })) (fun o => { o with runs })
    (∀ op ∈ [0x21, 0x22], ∀ h ∈ [0x309, 0x209], cmdReads (s op h) 2 op (headed op 5 1 [BitVec.ofNat 64 h]) = true ∧
      namedScript (s op h) 5 h 3 (2, 3) = if h = 0x309 then some 9 else none) ∧
    (partOf (s 0x22 0x309) 0).order.loads = [] ∧ (ctxOf (s 0x22 0x309) 5).fault = none := by decide +kernel

/-! ### Truss, resets, partitions, power -/

def withTruss (s : State) (l : Nat) (x : Truss) : State := { s with panel := { s.panel with truss := [(l, x)] } }
def failing : Truss := { failed := true, pending := true }

/-- Failures of truss links that have not taken effect: a brace, one brace of an FOH, a joist that a script of context 5 uses. -/
theorem test_truss_failures_due :
    (∀ l ∈ [0, 79], l % 10 ≠ 9 → (trussOf (withTruss dev l failing) l).failed = true ∧ (posTile (withTruss dev l failing) l).isSome = true ∧
      posIsOut (withTruss dev l failing) l = false) ∧
    (∀ l ∈ [80, 81, 82, 83], isTruss l = true ∧ (trussOf (withTruss dev l failing) l).pending = true ∧
      (trussOf (withTruss dev l failing) (if l % 2 = 0 then l + 1 else l - 1)).failed = false) ∧
    (let s := modPart (withTruss dev 96 failing) 0 (fun x => { x with
       scripts := [(2, { used := true, ctx := 5, steps := [{ claim := ⟨8, 0, 0, 0, 0⟩, entries := [⟨3, 0, [], [], [], [BitVec.ofNat 64 (96 * 2 ^ 52)]⟩], hubs := [], chain := false }] })] })
     joistLive s 96 = true ∧ 5 ∈ joistDependents s 96 ∧ (ctxOf s 5).st = .live ∧ (ctxOf s 5).fault = none) ∧
    isTruss 0 = true ∧ isTruss 175 = true := by decide +kernel

/-- A flit that arrives with one bit wrong fails its CRC; an end with nothing to send again, and one that sends a bad flit again. -/
theorem test_flits_due :
    (let f : Flits := {}
     f.replay = [] ∧ f.cursor = 0 ∧ f.expect = f.send ∧ f.retries = 0) ∧
    (∀ n ∈ [1, 16], let f : Flits := { replay := [(0, 5)], send := 1, retries := n }
      f.replay = [(f.bad, 5)] ∧ f.cursor = 0 ∧ f.expect = f.bad ∧ 0 < f.retries) ∧
    (trussOf dev 0).failed = false := by decide +kernel

theorem test_bad_crc (q : BitVec 8) (d : BitVec 1024) : let err := BitVec.ofNat 1064 (2 ^ 1063)
    flitCrc q d ^^^ err.extractLsb' 1032 32 ≠ flitCrc (q ^^^ err.extractLsb' 1024 8) (d ^^^ err.extractLsb' 0 1024) := by
  have h : (BitVec.ofNat 1064 (2 ^ 1063)).extractLsb' 1024 8 = 0 ∧ (BitVec.ofNat 1064 (2 ^ 1063)).extractLsb' 0 1024 = 0 ∧
      (BitVec.ofNat 1064 (2 ^ 1063)).extractLsb' 1032 32 = BitVec.ofNat 32 (2 ^ 31) := by decide +kernel
  intro err e
  rw [h.1, h.2.1, h.2.2, show q ^^^ 0 = q by simp, show d ^^^ 0 = d by simp] at e
  have e := congrArg (fun x => x.getLsbD 31) e
  rw [BitVec.getLsbD_xor, show (BitVec.ofNat 32 (2 ^ 31)).getLsbD 31 = true by decide] at e
  cases c : (flitCrc q d).getLsbD 31 <;> rw [c] at e <;> cases e

/-- A position, a hub, and one of two FOHs in service; a context that depends on the tile. -/
theorem test_failures_due :
    let s := modPart dev 0 (fun x => { x with
       scripts := [(2, { used := true, ctx := 5, steps := [{ claim := ⟨8, 0, 0, 0, 0⟩, entries := [], hubs := [], chain := false }] })] })
    posTile s 3 = some 3 ∧ posIsOut s 3 = false ∧ tileDependents s 3 = [5] ∧ (∀ h ∈ [0, 7], hubIsUp s h = true) ∧ bayPart s 0 = some 0 ∧
    fohIsUp s 0 = true ∧ fohIsUp s 1 = true ∧ tget 0 s.panel.missed 0 < 16 ∧ (dieOf s (fohDie 0)).unpowered = false ∧
    (let m := { s with panel := { s.panel with missed := [(1, 16)] } }
     16 ≤ tget 0 m.panel.missed 1 ∧ fohIsUp m 0 = true ∧ fohIsUp m 1 = true) ∧ twf ({} : Context) s.ctxs = true ∧ (ctxOf s 5).binding = 0 := by decide +kernel

/-- A partition's reset has begun, with a new shape and a house command that waits. -/
theorem test_partition_reset_due : ∀ d ∈ [false, true],
    let c := { headed 0x80 0 1 [0] with stage := 1 }
    let s := modPart (queued dev 0 2 c) 0 (fun x => { x with state := 1, resetBegun := true, newShape := some { defined := d }, waiters := [(0, 3)] })
    (partOf s 0).resetBegun = true ∧ (0, 3) ∈ (partOf s 0).waiters ∧ isHouse 0 = true ∧ cmdOf s 0 3 = some c ∧ (ctxOf s 5).part = 0 := by decide +kernel

/-- States from which a cold reset, a device reset, readiness and a house cycle on WCLK follow. -/
theorem test_resets_due :
    State.reset.mgmt.phase = 0 ∧ (let s := { dev with mgmt := { dev.mgmt with resetDue := some 0 } }; s.mgmt.resetDue = some 0 ∧ 0 ≤ s.clk.cue) ∧
    dev.mgmt.phase = 5 ∧ dev.sec.limp = false ∧ (∀ p < 8, (partOf dev p).shape.defined = true → (partOf dev p).state ≠ 1) ∧
    (let s := withClk dev (fun c => { c with stopped := true })
     isOff s = false ∧ s.clk.stopped = true ∧ twf ({} : Link) s.net.links = true) := by decide +kernel

/-- A TILE_MAP with the identity map and understudy 9, and with one that names slot 0 twice (R16, R17). -/
theorem test_tile_map_due : ∀ w ∈ [9 * 2 ^ 50 + 0x876543210, 9 * 2 ^ 50 + 0x876543200],
    let c := headed 0x84 0 1 [0, BitVec.ofNat 64 w]
    let s := queued dev 0 2 c
    cmdReads s 0 0x84 c = true ∧ c.started = some 4 ∧ 4 ≤ s.clk.cue := by decide +kernel

/-- PARTITION_SET: sound, misaligned, of a reserved binding, undefining; RESET_PARTITION; RESET_DEVICE; TILE_RESET. -/
theorem test_partition_commands_due :
    let s := fun (op : Nat) (w : Nat) => queued dev 1024 2 (headed op 0 1 [BitVec.ofNat 64 w])
    let set := fun (first log b : Nat) => 2 ^ 63 + first * 2 ^ 57 + log * 2 ^ 55 + b * 2 ^ 53
    (∀ w ∈ [set 4 2 0, set 4 3 0, set 0 0 3, 0], cmdReads (s 0x80 w) 1024 0x80 (headed 0x80 0 1 [BitVec.ofNat 64 w]) = true) ∧
    shapeBarred (s 0x80 0) 1024 0 { defined := true, first := 4, sizeLog := 2 } = false ∧
    (nextShape (s 0x80 0) 0).defined = true ∧ pathBarred (s 0x80 0) 1024 0 = false ∧
    (∀ w ∈ [0, 1], cmdReads (s 0x81 w) 1024 0x81 (headed 0x81 0 1 [BitVec.ofNat 64 w]) = true ∧ ((partOf (s 0x81 w) w).shape.defined = true ↔ w = 0)) ∧
    cmdReads (s 0x82 0) 1024 0x82 (headed 0x82 0 1 [0]) = true ∧
    (∀ w ∈ [0, 71, 72], cmdReads (s 0x83 w) 1024 0x83 (headed 0x83 0 1 [BitVec.ofNat 64 w]) = true ∧ (w < 72 → (tilePos (s 0x83 w) w).isSome = true)) ∧
    bayPart (s 0x83 0) 0 = some 0 ∧ (partOf (s 0x83 0) 0).resetCause = none ∧ (dieOf (s 0x83 0) 0).unpowered = false := by decide +kernel

/-- POWER_CAP at the ends of its ranges and past them; CLOCK_STEP; CALIBRATE; POWER_STATE of each kind. -/
theorem test_power_commands_due :
    let s := fun (q op : Nat) (w : Nat) => queued dev q 2 (headed op 0 1 [BitVec.ofNat 64 w, 100])
    (∀ x ∈ [(1500, 85), (5000, 110), (1499, 85), (5001, 110), (1500, 84), (5000, 111)], let w := x.1 * 2 ^ 48 + x.2 * 2 ^ 40 + 1
      cmdReads (s 1024 0x85 w) 1024 0x85 (headed 0x85 0 1 [BitVec.ofNat 64 w, 100]) = true ∧ bits (BitVec.ofNat 64 w) 63 48 = x.1 ∧
        bits (BitVec.ofNat 64 w) 47 40 = x.2 ∧ bits (100 : W64) 15 0 = 100 ∧ pathBarred (s 1024 0x85 w) 1024 0 = false) ∧
    (∀ q ∈ [0, 1024], cmdReads (s q 0x86 (9 * 2 ^ 60)) q 0x86 (headed 0x86 0 1 [BitVec.ofNat 64 (9 * 2 ^ 60), 100]) = true) ∧
    shedding (s 0 0x86 0) = false ∧
    (∀ q ∈ [0, 1024], cmdReads (s q 0x87 0) q 0x87 (headed 0x87 0 1 [0, 100]) = true) ∧ calibrationBad 0 = false ∧ calibrationBad (BitVec.ofNat 64 (2 * 2 ^ 62 + 48 * 2 ^ 48)) = true ∧
    (∀ k ∈ [0, 1, 2, 3], cmdReads (s 1024 0x88 (k * 2 ^ 62)) 1024 0x88 (headed 0x88 0 1 [BitVec.ofNat 64 (k * 2 ^ 62), 100]) = true) ∧
    (partOf (s 1024 0x88 0) 0).power = 0 ∧ (partOf (s 1024 0x88 0) 0).order.runs = [] ∧ partBusy (s 1024 0x88 0) 0 = false ∧
    (partOf (modPart (s 1024 0x88 0) 0 (fun x => { x with power := 2 })) 0).power = 2 ∧
    (∀ kv ∈ ({ s 1024 0x88 (3 * 2 ^ 62) with ctxs := [] } : State).ctxs, kv.2.st = .free) := by decide +kernel

/-! ### Security and configuration -/

def key68 : List Byte := List.replicate 68 7

/-- Its SHAKE256 hash, computed outside the model from FIPS 202. -/
def keyHash : List Byte :=
  [0x0C, 0x80, 0x1E, 0xFA, 0x51, 0x91, 0x08, 0xA7, 0x6C, 0xE6, 0x81, 0xC1, 0xB5, 0x4D, 0xD7, 0xEF, 0x8C, 0xA5, 0x75, 0x8F,
   0x83, 0xCE, 0x89, 0x4A, 0xE7, 0x6D, 0x9E, 0xE3, 0x6A, 0x45, 0xAF, 0x1A]

theorem test_shake256 : shake256 key68 = keyHash := by decide +kernel

/-- OWNER_KEY from the jack with no slot and all four taken, and from a house queue. -/
theorem test_owner_key_due :
    let c := headed 0x93 0 2 ((upFrom 0 16).map (fun i => BitVec.ofNat 64 i))
    let s := fun (q n : Nat) => let t := queued dev q 2 c; { t with sec := { t.sec with ownerSlots := List.replicate n [1] } }
    (∀ n ∈ [0, 4], cmdReads (s 1024 n) 1024 0x93 c = true ∧ (s 1024 n).sec.ownerSlots.length = n) ∧ cmdReads (s 0 0) 0 0x93 c = true := by
  decide +kernel

/-- ATTEST to memory of context 5, with the factory certificate. -/
theorem test_attest_due :
    let c := headed 0x92 5 1 [1, 2, 3, 4, 0x10000, 1]
    let s := queued backed 0 2 c
    let s := { s with sec := { s.sec with left := 1 } }
    cmdReads s 0 0x92 c = true ∧ cmdCtx s 0 c = 5 ∧ s.sec.left ≠ 0 ∧
    (match resolveRuns s 5 [(0x10000, 10341), (0x10000 + 10368, 2948)] needWrite with
      | .ok pas => pas.all (fun x => !inRemote x.1) && (badPartial s (pas.filter (fun x => cacheable x.1))).isNone && piecesTaken s pas
      | .bad _ _ => false) = true := by decide +kernel

/-- FW_STAGE of 8 bytes: from the jack, opening a session and in an open one; from a house queue, its bytes not asked for and there. -/
theorem test_stage_due : ∀ b ∈ [0, 1],
    let w : List W64 := [BitVec.ofNat 64 (b * 2 ^ 63 + 9), BitVec.ofNat 64 (8 * 2 ^ 32 + 65536), BitVec.ofNat 64 (2 ^ 42)]
    let c := { headed 0x90 5 1 w with got := [(0, [1, 2, 3, 4, 5, 6, 7, 8])] }
    let stage := fun (s : State) => { s with sec := { s.sec with stage := { opened := true, session := 9 } } }
    let s := stage (queued backed 1024 2 c)
    let d := { c with stage := 1, asked := true }
    let a := { headed 0x90 5 1 w with got := [] }
    cmdReads s 1024 0x90 c = true ∧ stageReject s c = none ∧ (gotBytes c).length = 8 ∧ tget false s.sec.stage.blocks 1 = false ∧
    chunkBlocks 65536 8 = [1] ∧ headCmd (queueOf (stage (queued backed 0 2 d)) 0) = some d ∧ cmdReads (stage (queued backed 0 2 a)) 0 0x90 a = true ∧
    (match stageSource (stage (queued backed 0 2 a)) 0 a with
      | .ok pas => pas.all (fun x => (hostOf x.1).any (fun h => h.1 == 0))
      | .bad _ _ => false) = true := by decide +kernel

/-- Copy 1 of the owner image, 96 bytes of header and code under a registered key. -/
def ownerHead : List Byte := leBytes 4 0x4E574F54 ++ leBytes 4 3 ++ leBytes 8 0 ++ leBytes 4 96 ++ key68 ++ List.replicate 8 0

def signedOwner : State :=
  { dev with sec := { dev.sec with ownerSlots := [keyHash], flash := tputN 0xFF [] (copyBase 1 1) ownerHead } }

/-- A signature that verifies makes the owner image pass; without the key the copy fails. -/
theorem test_owner_copy_passes (h : Config.xmssVerify key68 (ownerImage signedOwner 1) (flashAt signedOwner (copyBase 1 1 + 96) 2820) = true) :
    copyPasses signedOwner 1 1 = true ∧ activeCopy signedOwner 1 = 0 := by
  have e : flashAt signedOwner (copyBase 1 1 + 20) 68 = key68 := by decide +kernel
  have n : ownerLength signedOwner 1 = 96 := by decide +kernel
  have m : flashNat signedOwner (copyBase 1 1) 4 = 0x4E574F54 := by decide +kernel
  have v : ¬ ownerSvn signedOwner 1 < signedOwner.sec.ownerFloor := by decide +kernel
  have k : some (shake256 key68) = signedOwner.sec.ownerSlots.getLast? := by rw [test_shake256]; rfl
  have o : ¬ (96 + 2820 > copySize 1) := by decide
  refine ⟨?_, by decide +kernel⟩
  simp only [copyPasses, checkOwner, e, n, m, ← k, h]
  simp [v, o]

/-- FW_COMMIT in each form. -/
theorem test_commit_due :
    (∀ k ∈ [0, 1, 2, 3], let c := headed 0x91 0 1 [BitVec.ofNat 64 (k * 2 ^ 62 + 2 ^ 61 + 9)]
      let t := queued signedOwner 0 2 c
      let s := { t with sec := { t.sec with stage := { opened := true, session := 9, target := 1 }, ownerOk := true } }
      cmdReads s 0 0x91 c = true ∧ bits (wordAt c.words 1) 63 62 = k ∧ bits (wordAt c.words 1) 61 61 = 1 ∧ s.sec.stage.session = bits (wordAt c.words 1) 31 0 ∧
        s.sec.pend = false ∧ s.sec.limp = false) ∧
    copyPasses dev 1 1 = false ∧ copyPasses dev 0 1 = false := by decide +kernel

/-- Commands that configure routes, trust and peers are due; HEALTH_READ with and without a destination. -/
theorem test_configuration_due :
    let s := fun (q op : Nat) (w : List W64) => queued backed q 2 (headed op 0 1 w)
    (∀ op ∈ [0x8A, 0x8B, 0x8C, 0x8D, 0x8E], ∀ q ∈ [0, 1024], cmdReads (s q op [0]) q op (headed op 0 1 [0]) = true) ∧
    (∀ v ∈ [0x2F, 0x30, 0xFD, 0xFF], let w : List W64 := [BitVec.ofNat 64 (9 * 2 ^ 24 + v)]
      cmdReads (s 0 0x8A w) 0 0x8A (headed 0x8A 0 1 w) = true ∧ bits (wordAt (headed 0x8A 0 1 w).words 1) 7 0 = v) ∧
    (∀ p ∈ [7, 8, 9], bits (BitVec.ofNat 64 (p * 2 ^ 60)) 63 60 = p ∧
      cmdReads (s 1024 0x8C [BitVec.ofNat 64 (p * 2 ^ 60)]) 1024 0x8C (headed 0x8C 0 1 [BitVec.ofNat 64 (p * 2 ^ 60)]) = true) ∧
    cmdReads (s 1024 0x89 [0]) 1024 0x89 (headed 0x89 0 1 [0]) = true ∧
    (let c := headed 0x89 5 1 [0x10000]
     let s := queued backed 0 2 c
     cmdReads s 0 0x89 c = true ∧
     (match resolve s 5 0x10000 4096 needWrite with
      | .ok pas => pas.all (fun x => !inRemote x.1) && (badPartial s (pas.filter (fun x => cacheable x.1))).isNone && piecesTaken s pas
      | .bad _ _ => false) = true) := by decide +kernel

/-- An own certificate for the device's identity key, issued under an installed anchor, with GID 9. -/
def ownCert : List Byte :=
  leBytes 4 1 ++ leBytes 4 9 ++ List.replicate 8 0 ++ identityBytes ++ keyHash ++ List.replicate 2832 0

/-- It may be installed where the signature verifies. -/
theorem test_own_cert (h : Config.xmssVerify key68 (ownCert.take 128) (ownCert.drop 128) = true) :
    ownCertOk { dev with sec := { dev.sec with anchors := [(0, some (key68, 0))] } } ownCert = true ∧ ownCert.length = 2948 ∧ certGid ownCert = 9 := by
  have e : issuerOf { dev with sec := { dev.sec with anchors := [(0, some (key68, 0))] } } ownCert = some (key68, 0) := by decide +kernel
  have f : certField ownCert 16 68 = identityBytes := by
    have l : (leBytes 4 1 ++ leBytes 4 9 ++ List.replicate 8 (0 : Byte)).length = 16 := by decide
    have m : identityBytes.length = 68 := by decide +kernel
    unfold certField ownCert
    rw [List.append_assoc, List.append_assoc, ← l, List.drop_left, ← m, List.take_left]
  refine ⟨?_, by decide +kernel, by decide +kernel⟩
  simp [ownCertOk, e, f, h]

/-! ### Host ports and the jack -/

def withPort (s : State) (p : Nat) (x : Port) : State := setPort s p x

/-- A callboard entry of the port, of a queue bound to it and of one bound to the other; a house ring in the port's window, and
enabled at another place; a kept TAG and a new one. -/
theorem test_registers_due :
    (∀ p ∈ [0, 1], (portOf dev p).lost = false ∧ (portOf dev p).events < 16 ∧ isMsix (0x220 + 8 * p) = false) ∧
    (let s := setQueue dev 2 { used := true, binding := 0 }
     (queueOf s 2).used = true ∧ (queueOf s 2).closing = false ∧ (queueOf s 2).binding = 0) ∧
    (let s := withPort dev 1 { houseDone := BitVec.ofNat 64 0xC00000001000 }
     ownWindow 1 (bits (BitVec.ofNat 64 (2 ^ 63 + 0xC00000002000)) 47 12 * 4096) = true ∧ ownWindow 1 (bits (portOf s 1).houseDone 47 11 * 2048) = true ∧
       bit (portOf s 1).houseRing 63 = false ∧ ownWindow 0 (bits (BitVec.ofNat 64 (2 ^ 63 + 0xC00000002000)) 47 12 * 4096) = false) ∧
    (let s := withPort dev 0 { houseRing := BitVec.ofNat 64 (2 ^ 63 + 0x800000001000) }
     bit (portOf s 0).houseRing 63 = true ∧ bits (BitVec.ofNat 64 (2 ^ 63 + 0x800000002000)) 47 12 ≠ bits (portOf s 0).houseRing 47 12) ∧
    (let s := { dev with mgmt := { dev.mgmt with replies := [{ tag := 7, data := none }] } }
     s.mgmt.replies.length ≤ 64 ∧ (s.mgmt.replies.any (fun r => r.tag == 7)) = true ∧ (s.mgmt.replies.any (fun r => r.tag == 8)) = false ∧
       (cmdOf s 1024 8).isSome = false) := by decide +kernel

/-- Entry 2 of port 0: BAR2 bytes 0x20000 to 0x3FFFF give VA 0x10000 of context 5, for reads, writes and AtomicOps. -/
def mapped : State :=
  withPort backed 0 { apertures := [(2, { w0 := BitVec.ofNat 64 (15 * 2 ^ 60 + 5 * 2 ^ 40 + 0x20000), w1 := BitVec.ofNat 64 (2 ^ 40 + 1) })] }

/-- An action with each RESULT: the word and the entry whose install ends, beside `mapped`'s entry 2. -/
theorem test_aperture_actions_due : ∀ x ∈ [(15 * 2 ^ 60 + 5 * 2 ^ 40 + 0x40000, 0), (2 ^ 63 + 1, 4), (2 ^ 63 + 6 * 2 ^ 40, 1), (2 ^ 63 + 5 * 2 ^ 40 + 0x30000, 3),
      (2 ^ 63 + 2 ^ 62 + 5 * 2 ^ 40 + 0x50000, 2)],
    let w : W64 := BitVec.ofNat 64 x.1
    let w1 : W64 := if x.2 = 2 then BitVec.ofNat 64 (2 ^ 27) else BitVec.ofNat 64 (2 ^ 40 + 1)
    let s := modPort mapped 0 (fun y => { y with apAction := some (3, some w), apertures := y.apertures ++ [(3, { w1 })] })
    (portOf s 0).apAction = some (3, some w) ∧ (apertureOf (portOf s 0) 3).w1 = w1 ∧ (portOf mapped 0).apAction = none ∧ (portOf mapped 0).lost = false ∧
    (decide (bits w 59 52 ≠ 0 ∨ bits w 15 0 ≠ 0 ∨ (apertureOf (portOf s 0) 3).odd = true)) = decide (x.2 = 4) ∧
    (x.2 ≠ 4 → (decide (bits w 51 40 = 0 ∨ (ctxOf s (bits w 51 40)).st ≠ .live ∨ (ctxOf s (bits w 51 40)).binding ≠ 0)) = decide (x.2 = 1)) ∧
    (x.2 = 3 → bits w 39 16 * 65536 < 0x20000 + 0x20000) ∧
    (x.2 = 2 → translate s 5 (bits w1 38 0 * 65536) 8 = none ∨ (translate s 5 (bits w1 38 0 * 65536) 8).any (fun pa => !cacheable pa) = true) ∧
    (x.2 = 0 → (pagesOf 0x10000 0x20000).all (fun pg => (translate s 5 pg.1 14).any cacheable) = true) ∧
    twf ({} : Aperture) (portOf s 0).apertures = true := by decide +kernel

/-- Requests of 8 bytes at the ends of the range of `mapped`'s entry are covered; none is past it. -/
theorem test_host_requests_due :
    (∀ off ∈ [0x20000, 0x3FFF8], ∀ g ∈ [(62, 8), (61, 4), (60, 14)],
      ((portOf mapped 0).apertures.find? (fun kv => apValid kv.2 && decide (apStart kv.2 ≤ off) && decide (off + 8 ≤ apStart kv.2 + apBytes kv.2))).any
        (fun x => x.1 == 2 && bit x.2.w0 g.1 && (pagesOf (apVa x.2 + (off - apStart x.2)) 8).all (fun pg => (translate mapped 5 pg.1 g.2).any cacheable)) = true ∧
      (match resolve mapped 5 (0x10000 + (off - 0x20000)) 8 g.2 with
        | .ok ps => ps == [(0x20010000 + (off - 0x20000), 8)]
        | .bad _ _ => false) = true ∧ napAddr mapped (0x20010000 + (off - 0x20000)) = false) ∧
    (portOf mapped 0).lost = false ∧ mapped.sec.limp = false ∧ mapped.coh.dir = [] ∧ mapped.coh.queue = [] ∧ mapped.mem.bad = [] ∧
    ((portOf mapped 0).apertures.any (fun kv => apValid kv.2 && decide (apStart kv.2 ≤ 0x3FFF9) && decide (0x3FFF9 + 8 ≤ apStart kv.2 + apBytes kv.2))) = false ∧
    (let s := { mapped with mem := { mapped.mem with bad := [(0x20010000 / 32, true)] } }
     badPiece s [(0x20010000, 8)] = some 0x20010000) ∧
    (let s := setObj mapped 262143 { state := 1 }
     (objOf s 262143).state = 1 ∧ (objOf s 262143).binding = 0) ∧
    (let s := withPort dev 0 { msix := [(3, { pend := true })], silent := false }
     (msixOf (portOf s 0) 3).pend = true ∧ (portOf s 0).funcMask = false ∧ (portOf s 0).holding = false ∧ 3 ∉ (portOf s 0).sentVecs) := by decide +kernel

/-- Outstanding reads of a core, a GP thread and a command, first issued and issued again. -/
theorem test_device_reads_due : ∀ f ∈ [ReadFor.core 1, .gp 0 3 2, .cmd 0 0], ∀ again ∈ [false, true],
    let c := { headed 0x90 5 1 [] with stage := 1, asked := true }
    let r : HostRead := ⟨9, 0x1000, 8, 5, f, again⟩
    let s := withPort (queued { dev with eng := { dev.eng with gp := [(3, { running := true, threads := [(2, { st := .memory })] })] } } 0 2 c) 0 { reads := [r] }
    (portOf s 0).reads.find? (fun x => x.tag == 9) = some r ∧ (portOf s 0).reads.find? (fun x => x.tag == 8) = none ∧
    [1, 2, 3, 4, 5, 6, 7, 8].length = r.len ∧ (portOf s 0).holding = false ∧ (queueOf s 0).cmds = [c] ∧ c.fin = none ∧
    (gpOf s 0 3).running = true ∧ (threadAt (gpOf s 0 3) 2).st = .memory ∧ (gpOf s 1 3).running = false ∧
    (ctxOf s 5).st = .live ∧ (ctxOf s 5).fault = none := by decide +kernel

/-- A port that goes down, comes back with writes held, and is reset at the hold limit. -/
theorem test_port_changes_due :
    let held := withPort dev 0 { holding := true, cuesHeld := 65536, held := [⟨0x40, [1], true, none⟩] }
    let up := withPort dev 0 { linkUp := true, busMaster := true }
    (portOf up 0).linkUp = true ∧ (portOf up 0).busMaster = true ∧ (portOf up 0).lost = false ∧ (portOf held 0).linkUp = false ∧ (portOf held 0).holding = true ∧
    65536 ≤ (portOf held 0).cuesHeld ∧ twf ({} : Context) held.ctxs = true ∧ (ctxOf held 5).binding = 0 ∧ (ctxOf held 5).st = .live := by decide +kernel

/-! ### Stacks -/

/-- Channel 9 of stack 0 in service: its dark period is due in an idle partition and forced in a hold cue; with a row copy; with a test. -/
theorem test_dark_periods_due : ∀ c ∈ [({} : Channel), { copies := [(77, 6)] }, { testDue := true, marked := 1, spared := some 3 }],
    let s := modStack (withClk backed (fun k => { k with cue := 9 })) 0 (fun x => { x with channels := [(9, c)] })
    (stackOf s 0).state = 1 ∧ hubIsUp s 0 = true ∧ chanOf s 0 9 = c ∧
    darkDue (withOrder s (fun o => { o with kind := .idle })) 0 9 = true ∧ forcedDue (withOrder s (fun o => { o with kind := .hold })) 0 9 = true ∧
    darkDue { s with parts := [] } 0 9 = true ∧ laneCarries { spared := some 3 } 9 = some 3 ∧ laneCarries { spared := some 3 } 3 = none := by decide +kernel

/-- Words of a burst that are sound, that one correction mends, and that do not decode; lanes that lose lock. -/
theorem test_bursts_due :
    inStack 0 = true ∧ inStack (16 * stackBytes - 1) = true ∧ (stackOf backed 0).state = 1 ∧ rowOf 0 = 0 ∧
    decodeBurst 0 0 = some [] ∧ (decodeBurst 0 1).any (fun l => !l.isEmpty) = true ∧ decodeBurst 0 (2 ^ 40 + 263) = none ∧ decodeBurst 3 1 = none ∧
    (let s := modChan backed 0 0 (fun c => { c with marked := 3 })
     (chanOf s 0 0).marked = 3 ∧ tget 0 (stackOf s 0).rowCorr 0 < 3 ∧ llmDirty s 0 = false ∧ dirtyLine s 0 = none ∧ 0 ∉ (stackOf s 0).deferred ∧
       (chanOf s 0 0).copies = [] ∧ tget 0 (stackOf s 0).spares 0 < 32) ∧
    laneCarries (chanOf backed 0 0) 8 = some 8 ∧ (chanOf backed 0 0).marked.testBit 8 = false ∧ (stackOf backed 0).lockCue = backed.clk.cue ∧
    (let s := modStack backed 0 (fun x => { x with lock := upFrom 1 16 })
     0 ∉ (stackOf s 0).lock ∧ (stackOf s 0).lock.length = 16 ∧ (stackOf (withClk s (fun c => { c with cue := 9 })) 0).lockCue ≠ 9) := by decide +kernel

/-- Uncorrectable bursts that have come up, of a context's granule and of the house's; a stack that fails; a table walk. -/
theorem test_failing_memory_due :
    let s := { backed with mem := { backed.mem with badDue := [(0x20000000 / 32, [(5, 3)]), (0x200000 / 32, [])] } }
    (0x20000000 / 32, [(5, 3)]) ∈ s.mem.badDue ∧ (0x200000 / 32, []) ∈ s.mem.badDue ∧
    bits (ownerEntry s 0x20000000) 14 13 = 1 ∧ bits (ownerEntry s 0x20000000) 11 0 = 5 ∧ bits (ownerEntry s 0x200000) 11 0 = 0 ∧
    bayPart s (homeHub 0x200000) = some 0 ∧ bayPart { s with parts := [] } (homeHub 0x200000) = none ∧ (stackOf s 0).state ≠ 2 ∧
    (walk s (ctxOf s 5).root 0x10000).isSome = true ∧ walk s (ctxOf s 5).root (2 ^ 43) = none ∧ 0 < tlbRoom 8 ∧ 0 < tlbRoom 2016 := by decide +kernel

/-! ### Links, windows and peers -/

def withLink (s : State) (l : Nat) (x : Link) : State := modLink s l (fun _ => x)

/-- Links in each state from which a bring-up begins; held down by LINK_CTL, with no certificate, in limp mode. -/
theorem test_links_due : ∀ l ∈ [0, 47],
    linkHeld (linkOf dev l).ctl = false ∧ linkMode l (linkOf dev l).ctl = 0 ∧ dev.sec.cert = none ∧ hubIsUp dev (l / 6) = true ∧ linkHeld 0 = true ∧
    (∀ n ∈ [0, 14, 15], (linkOf (withLink dev l { state := 4, retries := n, frame := 7 }) l).retries = n) ∧ (linkOf (withLink dev l { state := 6 }) l).state = 6 ∧
    (linkOf (withLink dev l { state := 3, hand := { retryDue := true } }) l).hand.retryDue = true ∧
    (let w : W64 := BitVec.ofNat 64 (2 ^ 63 + 2 ^ 61)
     linkMode l w = (if l < 8 then 1 else 0) ∧ bit w 54 = false ∧ linkMode l (BitVec.ofNat 64 (2 ^ 63 + 2 * 2 ^ 61)) = 2) := by decide +kernel

/-- A link that trains (with generation 2 to try); CAPS of every role pair; HELLO of 2,980 bytes and of another length; REFUSE; a step
not answered in 4,096 cues. -/
theorem test_handshakes_due :
    let role := fun (r g : Nat) => BitVec.ofNat 64 (2 ^ 63 + r * 2 ^ 59 + g * 2 ^ 55)
    let body := fun (r : Nat) => [2, BitVec.ofNat 8 r, 5, 0, 0, 0, 0, 0, 9, 0, 0, 0, 0, 0, 0, 0]
    (∀ r ∈ [0, 1, 2], ∀ t ∈ [0, 1, 2], ∀ d ∈ [8, 10],
      let s := withLink { dev with sec := { dev.sec with cert := some [1] } } 7 { ctl := role r 2, state := 1, hand := { stage := 2 }, draw := BitVec.ofNat 64 d }
      (linkOf s 7).state = 1 ∧ (body t).length = 16 ∧ (body t).getD 0 0 = 2 ∧ ((body t).getD 1 0).toNat = t ∧ linkRole (linkOf s 7).ctl = r ∧
        linkMaxGen (linkOf s 7).ctl = 2 ∧ linkMaxGen (role r 1) = 1 ∧ linkHeld (linkOf s 7).ctl = false ∧ leNat (((body t).drop 8).take 8) = 9 ∧ s.sec.limp = false) ∧
    (∀ k ∈ [1, 3], (linkOf (withLink dev 7 { state := 1, hand := { stage := k }, gen2Fails := 2 }) 7).hand.stage = k) ∧
    (let s := withLink dev 7 { state := 2, hand := { stage := 4, partnerAttempt := 3 } }
     checkPartner s 7 (List.replicate 2948 0) = 0x02 ∧ (linkOf s 7).hand.partnerAttempt = 3) ∧
    (let s := withClk (withLink dev 7 { state := 2, hand := { stage := 4, since := 1 } }) (fun c => { c with cue := 4097 })
     (linkOf s 7).hand.since + 4096 ≤ beat s ∧ (linkOf s 7).hand.owes = false ∧ linkMode 7 (linkOf s 7).ctl = 0) ∧
    dev.sec.left = 0 ∧ dev.sec.retryIndex = false ∧ 3 ≤ dev.mgmt.phase ∧ owingEnds dev = [] := by decide +kernel

/-- A partner's certificate, issued under an anchor, with GID 9 and both generations. -/
def partnerCert : List Byte := leBytes 4 1 ++ leBytes 4 9 ++ leBytes 4 0 ++ leBytes 4 3 ++ List.replicate 68 4 ++ keyHash ++ List.replicate 2832 0

/-- Link 7 in the handshake with that partner, at a stage and in a role. -/
def greeting (stage : Nat) (ini : Bool) : State :=
  withLink { dev with sec := { dev.sec with anchors := [(0, some (key68, 0))], cert := some partnerCert, left := 1 } } 7
    { state := 2, gen := 1, initiator := ini, hand := { stage, cert := partnerCert, proved := true } }

/-- It passes where its signature verifies. -/
theorem test_partner_passes (h : Config.xmssVerify key68 (partnerCert.take 128) (partnerCert.drop 128) = true) (ini : Bool) :
    checkPartner (greeting 4 ini) 7 partnerCert = 0 ∧ (partnerCert ++ List.replicate 32 1).length = 2980 := by
  have i : ∀ b, issuerOf (greeting 4 b) partnerCert = some (key68, 0) := by decide +kernel
  have f : (decide (partnerCert.length ≠ 2948) || decide (certNat partnerCert 0 4 ≠ 1) || decide (certNat partnerCert 7 1 ≠ 0) ||
      decide (certNat partnerCert 12 4 ≥ 4) || decide (certNat partnerCert 116 12 ≠ 0)) = false := by decide +kernel
  have c : checkIssued (greeting 4 ini) partnerCert = 0 := by
    unfold checkIssued
    rw [if_neg (by rw [f]; exact Bool.false_ne_true), i]
    simp [h]
  have g : ∀ b, ¬ certGid partnerCert = (greeting 4 b).net.gid := by decide +kernel
  have e : ∀ b, (certGen partnerCert (linkOf (greeting 4 b) 7).gen && certGen ((greeting 4 b).sec.cert.getD []) (linkOf (greeting 4 b) 7).gen) = true := by
    decide +kernel
  refine ⟨?_, by decide +kernel⟩
  unfold checkPartner
  simp [c, g, e]

/-- A PROOF is due from it, of either role. -/
theorem test_proof_due : ∀ ini : Bool, (linkOf (greeting 5 ini) 7).hand.stage = 5 ∧ (linkOf (greeting 5 ini) 7).state = 2 ∧ (linkOf (greeting 5 ini) 7).initiator = ini ∧
    (linkOf (greeting 5 ini) 7).hand.proved = true ∧ (linkOf (greeting 5 ini) 7).hand.owes = false ∧ (greeting 5 ini).sec.left ≠ 0 := by decide +kernel

/-- Window 7 of context 5, open for device 3; transfers with it; a GET of core 1. -/
def windowed : State :=
  let s := withLink (withLink backed 0 { state := 4 }) 1 { state := 3 }
  { s with net := { s.net with gid := 4, routes := [(3, 0), (8, 0xFE)]
                               windows := [(7, { opened := true, ctx := 5, va := 0x10000, size := 0x20000, read := true, write := true, atomic := true, epoch := 6, lo := 3, hi := 3 })]
                               xfers := [(12, { used := true, gid := 3, sent := 2, waiting := true }), (13, { used := true, get := true, gid := 3, len := 8, kind := 2, owner := (1, 0) })]
                               rx := [{ src := 3, xfer := 12, hub := 0, accepted := 2, step := 0 }] } }

def headOf (ty dst xfer off len seq : Nat) : List W64 := Head.words { ty, dst, src := 3, window := 7, epoch := 6, offset := off, len, xfer, seq }

/-- Packets of each type for this device and for others; a WRITE, a READ_REQ, a SIGNAL that land; one of a wrong epoch; a timed-out transfer. -/
theorem test_packets_due :
    (∀ ty ∈ [0, 1, 2, 3, 4, 5], hType (headOf ty 4 12 0 8 2) = ty ∧ hDst (headOf ty 4 12 0 8 2) = windowed.net.gid ∧ hSrc (headOf ty 4 12 0 8 2) = 3) ∧
    windowed.coh.dir = [] ∧ windowed.coh.queue = [] ∧ windowed.mem.bad = [] ∧ (xferOf windowed 13).offset = 0 ∧ (xferOf windowed 13).got = 0 ∧ (xferOf windowed 13).step = 0 ∧
    (coreOf windowed 1).arrived = none ∧ (linkOf windowed 0).state = 4 ∧ (linkOf windowed 1).state = 3 ∧ routeOf windowed 0 3 = 0 ∧ hTtl (headOf 0 3 0 0 8 0) ≠ 0 ∧ hLast (headOf 0 4 12 0 8 2) = false ∧
    (∀ x ∈ [(0, 0), (0x1FFF8, 1), (8, 2)], (match windowCheck windowed 3 7 x.1 8 6 x.2 with | .lands ps => ps == [(0x20010000 + x.1, 8)] | _ => false) = true) ∧
    (match windowCheck windowed 3 7 0 8 5 0 with | .fails st => decide (st < 16) | _ => false) = true ∧
    (rxOf windowed 3 12 0).isSome = true ∧ rxOf windowed 3 11 0 = none ∧ rxFull windowed 0 = false ∧
    (xferOf windowed 12).used = true ∧ (xferOf windowed 12).get = false ∧ (xferOf windowed 13).get = true ∧ (xferOf windowed 13).kind = 2 ∧
    (let s := withClk windowed (fun c => { c with cue := 65536 }); (xferOf s 12).started + 65536 ≤ beat s ∧ beat windowed < (xferOf windowed 12).started + 65536) := by decide +kernel

/-- Links, routes and peers that a packet may leave by: active, none, local, Ethernet with and without an authenticated peer. -/
theorem test_routes_due : ∀ a ∈ [false, true],
    let s := withLink windowed 2 { state := 6 }
    let s := { s with net := { s.net with routes := s.net.routes ++ [(10, 2), (11, 5)], peers := [(2048, { valid := true, gid := 10, auth := a })] } }
    routeOf s 0 3 = 0 ∧ (linkOf s 0).state = 4 ∧ routeOf s 0 11 = 5 ∧ (linkOf s 5).state = 0 ∧ routeOf s 0 10 = 2 ∧ (linkOf s 2).state = 6 ∧
    routeOf s 0 8 = 0xFE ∧ routeOf s 0 12 = 0xFF ∧ (a = true → peerFor s 2 10 = some 2048) ∧
    (a = false → (s.net.peers.all (fun kv => !kv.2.auth)) = true) := by decide +kernel

/-- ANNOUNCE and REPLY of a round on a link of each time role. -/
theorem test_time_packets_due : ∀ role ∈ [0, 1, 2],
    let s := withLink dev 7 { state := 4, timeRole := role, round := 6, t1 := 5 }
    let p := fun (kind round : Nat) => leBytes 4 9 ++ leBytes 4 kind ++ leBytes 8 round ++ leBytes 8 100 ++ leBytes 16 90
    (linkOf s 7).state = 4 ∧ (linkOf s 7).timeRole = role ∧ (p 0 7).length = 40 ∧ (p 0 7).getD 4 0 = 0 ∧ (p 1 6).getD 4 0 = 1 ∧
    leNat (((p 1 6).drop 8).take 4) = (linkOf s 7).round ∧ leNat (((p 0 7).drop 8).take 4) = (linkOf s 7).round + 1 ∧
    hType (headOf 5 4 0 0 40 0) = 5 := by decide +kernel

/-- Peers of port 0 with and without packets that wait, and RDMA pairs whose requests land or fail. -/
theorem test_ethernet_due : ∀ a ∈ [false, true],
    let s := withLink windowed 0 { state := 6 }
    let w : List W64 × List Byte := ([0], [])
    let s := { s with net := { s.net with peers := [(3, { valid := true, gid := 3, auth := a }), (4, { valid := true, retries := 16, unacked := [w] })]
                                          qps := [(2, { valid := true, gid := 3, epsn := 9 })] } }
    (linkOf s 0).state = 6 ∧ (peerOf s 3).valid = true ∧ (peerOf s 3).auth = a ∧ (peerOf s 3).unacked = [] ∧ (peerOf s 4).unacked ≠ [] ∧ (peerOf s 4).retries = 16 ∧
    qpFor s 0 0x102 = some 2 ∧ (qpOf s 2).error = false ∧ (qpOf s 2).epsn = 9 ∧ qpFor s 0 0x103 = none ∧ s.coh.dir = [] ∧ s.coh.queue = [] ∧
    (match windowCheck s 3 7 0x20000 8 6 0 with | .fails st => decide (st < 16) | _ => false) = true ∧
    (∀ d ∈ [0, 1], (match windowCheck s 3 7 0 8 6 d with | .lands ps => ps == [(0x20010000, 8)] && (badPiece s ps).isNone | _ => false) = true) := by
  decide +kernel

/-! ### Well-formed and ill-formed commands -/

/-- The check refuses a command with an operand that names nothing: one command for each kind of operand. -/
theorem test_ill_formed_refused :
    [Instr.nop 1025, .stallWatchdog 8, .contextLoss 4096, .wardenEstimate 106 [] [], .flowLow 256, .thermalTrip 3 256, .flitRetry 84 0 0 0 false,
     .flitRetry 3 2 0 0 false, .trussLinkFailure 176, .tileOutOfService 80, .hubFailure 8, .fohFailover 2, .coldReset { links := [(85, 3)], lanes := [] },
     .deviceReset { links := [(5, 2)], lanes := [] }, .partitionReset 3 { links := [], lanes := [(16, 0, 0)] }, .objectReleaseEnd 262144,
     .command (2 ^ 32) [] [], .command 1 (List.replicate 33 0) [], .regRead 1 (2 ^ 26), .registerWrite 0 0 3 0, .callboardWrite 0 1024 0,
     .houseRingWrite 2 0, .apertureInstall 0 1024 0, .msixUnmask 1 2048 0, .bar2Resize 0 29, .bar2Resize 0 41, .gpDebugHalt (.port 2),
     .linkRetrain 48].all (fun c => !c.wf) = true ∧
    [Instr.bar0AtomicOp 0 0 3 4 0 0, .bar0AtomicOp 0 0 0 2 0 0, .bar2Read 0 0 4097, .linkReturned 0 0 17, .completionTimeout 0 1024,
     .mxeWorkList 72 0, .gpWorkList 0 16, .sgdMomentum 0 4, .adamw 72 0, .transferTile (.sched 72 0),
     .transferTile (.cmd 1024), .windowPut 0 0 0 (2 ^ 32), .tableWalk 4096 0 0, .rdOwn 200 0, .invalidate 0 (2 ^ 41), .readOnce 1 0 129,
     .homeAtomic 1 0 0 3 0 0, .darkPeriod 0 256 0, .laneLossOfLock 0 0 10, .stackFailure 16, .caps 48 0 [], .hello 8240 0 [],
     .write 0 [0, 0, 0] [] false, .signal 0 [0, 0, 0, 0] (List.replicate 257 0), .tenonDatagram 8 0 0 [0, 0, 0, 0] [] false, .pause 0 8 0,
     .arpRequest 0 (2 ^ 128), .interrupt 128, .add (.core 128), .gmma (.gp 0 16), .load (.gp 72 0), .ethernetLinkUp 0 100,
     .modulePartFault 5].all (fun c => !c.wf) = true := by decide +kernel

/-- It takes the same commands with operands at the ends of their ranges. -/
theorem test_well_formed_taken :
    [Instr.nop 1024, .stallWatchdog 7, .contextLoss 4095, .flitRetry 83 1 0 (2 ^ 1063) true, .trussLinkFailure 175, .coldReset { links := [(88, 4)], lanes := [(15, 255, 1023)] },
     .command 1 (List.replicate 32 0) [], .registerWrite 1 0 8 0, .bar2Resize 0 30, .bar2Resize 0 40, .bar0AtomicOp 1 0 2 16 0 0, .mxeWorkList 71 3,
     .gpWorkList 71 15, .sgdMomentum 71 3, .homeAtomic 1 0 0 16 0 0, .hello 8239 0 [], .write 47 [0, 0, 0, 0] [] true,
     .add (.core 127), .gmma (.gp 71 15), .ethernetLinkUp 7 200, .ethernetLinkUp 7 400, .idleTick].all (fun c => c.wf) = true := by decide +kernel

/-! ### Values the spec tabulates -/

/-- The check values of R342's table, over the bytes of "123456789". -/
theorem test_check_values :
    let b : List Byte := [0x31, 0x32, 0x33, 0x34, 0x35, 0x36, 0x37, 0x38, 0x39]
    crcOf 0 b = 0xE3069283 ∧ crcOf 1 b = 0xCBF43926 ∧ crcOf 2 b = 0x6C40DF5F0B497347 ∧ crcOf 3 b = 0x29B1 := by decide +kernel

/-- The packets of the example of `spec/16_tenon_links_and_pod.md`: 1,000 bytes for window 9 from offset 0x1F0, with a SIGNAL. -/
theorem test_example_packets :
    let h : Head := { ty := 0, dst := 0x456, src := 0x123, window := 9, offset := 0x1F0, epoch := 3, len := 16, xfer := 0x77 }
    cutAt 256 1001 0x1F0 1000 = [(0x1F0, 16), (0x200, 256), (0x300, 256), (0x400, 256), (0x500, 216)] ∧
    h.words = [0x0F00_0456_0001_2300, 0x0090_0000_0000_01F0, 0x0003_0010_0000_0077, 0] ∧
    ({ h with offset := 0x200, len := 256, seq := 1 } : Head).words =
      [0x0F00_0456_0001_2300, 0x0090_0000_0000_0200, 0x0003_0100_0000_0077, 0x0000_0001_0000_0000] ∧
    ({ h with offset := 0x500, len := 216, seq := 4, last := true } : Head).words =
      [0x0F00_0456_0001_2380, 0x0090_0000_0000_0500, 0x0003_00D8_0000_0077, 0x0000_0004_0000_0000] ∧
    ({ h with ty := 3, offset := 0x800, len := 8, seq := 5 } : Head).words =
      [0x3F00_0456_0001_2300, 0x0090_0000_0000_0800, 0x0003_0008_0000_0077, 0x0000_0005_0000_0000] := by decide +kernel

/-- No word spells a command; the command in front of the queue is the one that runs; an empty queue idles. -/
theorem test_queue :
    decodeTableWord 64 0 = none ∧ step { State.reset with pending := [.idleTick, .cueBoundary] } = exec .idleTick { State.reset with pending := [.cueBoundary] } ∧
    step State.reset = .next State.reset := ⟨rfl, rfl, rfl⟩

end Sys2Proof.Tests
end

section
/-! SUPPORT. Words of registers, bit by bit: what a field, a flag and a mask give at each bit (R2). -/

namespace Sys2Proof.Machine

theorem testBit_bits {n : Nat} (w : BitVec n) (hi lo i : Nat) :
    (bits w hi lo).testBit i = (decide (i < hi + 1 - lo) && w.getLsbD (lo + i)) := by
  simp only [bits, Nat.testBit_mod_two_pow, Nat.testBit_div_two_pow, BitVec.getLsbD, Nat.add_comm]

theorem bits_lt {n : Nat} (w : BitVec n) (hi lo : Nat) : bits w hi lo < 2 ^ (hi + 1 - lo) :=
  Nat.mod_lt _ (Nat.two_pow_pos _)

theorem getLsbD_fld (v width lo i : Nat) :
    (fld v width lo).getLsbD i = (decide (i < 64) && (decide (lo ≤ i) && (decide (i - lo < width) && v.testBit (i - lo)))) := by
  simp only [fld, BitVec.getLsbD_ofNat, Nat.testBit_mul_two_pow, Nat.testBit_mod_two_pow]

theorem getLsbD_flag (b : Bool) (i j : Nat) : (flag b i).getLsbD j = (b && (decide (j < 64) && decide (i = j))) := by
  cases b with
  | false => rw [flag, if_neg Bool.false_ne_true, Bool.false_and]; exact BitVec.getLsbD_zero
  | true => simp only [flag, if_true, BitVec.getLsbD_ofNat, Nat.testBit_two_pow, Bool.true_and]

/-- The number whose bits stand in a field is what the field reads. -/
theorem bits_eq_of_getLsbD {n : Nat} {w : BitVec n} {hi lo v : Nat} (hv : v < 2 ^ (hi + 1 - lo))
    (h : ∀ i < hi + 1 - lo, w.getLsbD (lo + i) = v.testBit i) : bits w hi lo = v := by
  apply Nat.eq_of_testBit_eq
  intro i
  rw [testBit_bits]
  by_cases hi' : i < hi + 1 - lo
  · rw [decide_eq_true hi', Bool.true_and, h i hi']
  · rw [decide_eq_false hi', Bool.false_and, Nat.testBit_lt_two_pow]
    exact Nat.lt_of_lt_of_le hv (Nat.pow_le_pow_right (by decide) (Nat.le_of_not_lt hi'))

/-- A field is unchanged by a mask that is 1 at each of its bits. -/
theorem bits_and {n : Nat} (w m : BitVec n) (hi lo : Nat) (h : ∀ i < hi + 1 - lo, m.getLsbD (lo + i) = true) :
    bits (w &&& m) hi lo = bits w hi lo := by
  refine bits_eq_of_getLsbD (bits_lt w hi lo) fun i hi' => ?_
  rw [BitVec.getLsbD_and, h i hi', Bool.and_true, testBit_bits, decide_eq_true hi', Bool.true_and]

/-- A mask that differs from another in one bit gives the same word where that bit of the word is 0. -/
theorem and_mask_eq {w m m' : W64} (k : Nat) (hw : bit w k = false)
    (h : ∀ i < 64, i ≠ k → m.getLsbD i = m'.getLsbD i) : w &&& m = w &&& m' := by
  apply BitVec.eq_of_getLsbD_eq
  intro i hi
  rw [BitVec.getLsbD_and, BitVec.getLsbD_and]
  by_cases hk : i = k
  · subst hk; rw [show w.getLsbD i = false from hw, Bool.false_and, Bool.false_and]
  · rw [h i hi hk]

/-- Four flags lose those that are written 1. -/
theorem testBit_clearFlags : ∀ c < 16, ∀ e < 16, ∀ i < 4, (e - (c &&& e)).testBit i = (e.testBit i && !c.testBit i) := by decide

end Sys2Proof.Machine
end

section
/-! SUPPORT. BAR0 by width and offset (R5–R8, R351–R354): what is read, which writes a register takes and what they leave. -/

namespace Sys2Proof.Machine

section
variable (s : State) (path : Path) {p off width : Nat} (v : W64)

/-! ### Accesses by width (R8) -/

/-- An access that no register takes, by the test that reads and writes make of it. -/
theorem accessOdd_test (h : width ≠ 8 ∨ off % 8 ≠ 0) (hm : isMsix off = false) :
    (!(decide (width = 8) && decide (off % 8 = 0)) && !(decide (width = 4) && decide (off % 4 = 0) && isMsix off)) = true := by
  rw [hm, Bool.and_false, Bool.not_false, Bool.and_true, Bool.not_eq_true', Bool.and_eq_false_iff, decide_eq_false_iff_not,
    decide_eq_false_iff_not]
  exact h

theorem accessWide_test (h8 : off % 8 = 0) :
    ¬ (!(decide (8 = 8) && decide (off % 8 = 0)) && !(decide (8 = 4) && decide (off % 4 = 0) && isMsix off)) = true := by
  rw [decide_eq_true h8]
  exact Bool.false_ne_true

theorem readBar0_wide (h8 : off % 8 = 0) (hm : isMsix off = false) : readBar0 s path off 8 = readWide s path off := by
  rw [readBar0, if_neg (accessWide_test h8), hm, if_neg Bool.false_ne_true]

theorem readBar0_odd (h : width ≠ 8 ∨ off % 8 ≠ 0) (hm : isMsix off = false) : readBar0 s path off width = 0 := by
  rw [readBar0, if_pos (accessOdd_test h hm)]

theorem writeBar0_wide (h8 : off % 8 = 0) (hm : isMsix off = false) : writeBar0 s path off 8 v = writeWide s path off v := by
  unfold writeBar0
  rw [if_neg (accessWide_test h8), hm, if_neg Bool.false_ne_true]

theorem writeBar0_odd (h : width ≠ 8 ∨ off % 8 ≠ 0) (hm : isMsix off = false) : writeBar0 s path off width v = s := by
  unfold writeBar0
  rw [if_pos (accessOdd_test h hm)]

/-! ### Clock registers (R37, R43) -/

theorem readBar0_cueCount : readBar0 s path 0x100 8 = BitVec.ofNat 64 s.clk.cue := readBar0_wide s path rfl rfl

theorem readBar0_clockStatus : readBar0 s path 0x108 8 = clockStatus s := readBar0_wide s path rfl rfl

theorem clockStatus_aclk (h : s.clk.aclk < 16) : bits (clockStatus s) 3 0 = s.clk.aclk := by
  refine bits_eq_of_getLsbD h fun i (hi : i < 4) => ?_
  have h16 : ¬ 16 = i := by omega
  have h8 : ¬ 8 ≤ i := by omega
  have h64 : i < 64 := by omega
  simp only [clockStatus, BitVec.getLsbD_or, getLsbD_fld, getLsbD_flag]
  simp only [Nat.zero_add, Nat.sub_zero, Nat.zero_le, h16, h8, h64, hi, decide_true, decide_false, Bool.and_false, Bool.false_and,
    Bool.true_and, Bool.false_or]

theorem clockStatus_aclkTarget (h : s.clk.aclkTarget < 16) : bits (clockStatus s) 11 8 = s.clk.aclkTarget := by
  refine bits_eq_of_getLsbD h fun i (hi : i < 4) => ?_
  have h16 : ¬ 16 = 8 + i := by omega
  have h4 : ¬ 8 + i < 4 := by omega
  have h64 : 8 + i < 64 := by omega
  simp only [clockStatus, BitVec.getLsbD_or, getLsbD_fld, getLsbD_flag]
  simp only [Nat.sub_zero, Nat.le_add_right, Nat.add_sub_cancel_left, h16, h4, h64, hi, decide_true, decide_false, Bool.and_false,
    Bool.false_and, Bool.true_and, Bool.false_or, Bool.or_false]

theorem clockStatus_shed : bit (clockStatus s) 16 = s.clk.shed := by
  simp only [bit, clockStatus, BitVec.getLsbD_or, getLsbD_fld, getLsbD_flag]
  show (s.clk.shed && true || false || false) = s.clk.shed
  rw [Bool.and_true, Bool.or_false, Bool.or_false]

/-! ### PORT_CTL and PORT_EVENTS (R6, R354) -/

theorem writeBar0_portCtl (hp : p < 2) : writeBar0 s path (0x220 + 8 * p) 8 v = writePortCtl s path p v := by
  obtain rfl | rfl : p = 0 ∨ p = 1 := by omega
  · exact writeBar0_wide s path v rfl rfl
  · exact writeBar0_wide s path v rfl rfl

theorem writeBar0_portEvents (hp : p < 2) : writeBar0 s path (0x210 + 8 * p) 8 v = writePortEvents s p v := by
  obtain rfl | rfl : p = 0 ∨ p = 1 := by omega
  · exact writeBar0_wide s path v rfl rfl
  · exact writeBar0_wide s path v rfl rfl

theorem writePortCtl_own (p : Nat) :
    writePortCtl s (.port p) p v = modPort s p (fun x => { x with ctl := portCtlKept v }) := by
  rw [writePortCtl, if_pos]
  rw [Bool.or_eq_true]
  exact .inr (decide_eq_true rfl)

theorem writePortCtl_other {o : Nat} (h : p ≠ o) : writePortCtl s (.port p) o v = s := by
  rw [writePortCtl, if_neg]
  rw [Bool.or_eq_true, decide_eq_true_eq, decide_eq_true_eq]
  rintro (heth | hport)
  · cases heth
  · exact h (Path.port.inj hport)

theorem writePortEvents_events (p : Nat) :
    (portOf (writePortEvents s p v) p).events = (portOf s p).events - (bits v 3 0 &&& (portOf s p).events) := by
  rw [writePortEvents, portOf_modPort]

theorem writePortEvents_frame (p : Nat) : portOf (writePortEvents s p v) p =
    { portOf s p with events := (portOf (writePortEvents s p v) p).events, refused := (portOf (writePortEvents s p v) p).refused } := by
  rw [writePortEvents, portOf_modPort]

/-- REFUSED is cleared only with PORT_LOST or RESET_DISCARD (R6). -/
theorem writePortEvents_refused (p : Nat) (h : bits v 3 2 = 0) : (portOf (writePortEvents s p v) p).refused = (portOf s p).refused := by
  have hlow : bits v 3 0 < 4 := by simp only [bits] at h ⊢; omega
  have hclear : ¬ (bits v 3 0 &&& (portOf s p).events) ≥ 4 := Nat.not_le.2 (Nat.lt_of_le_of_lt Nat.and_le_left hlow)
  rw [writePortEvents, portOf_modPort]
  exact if_neg hclear

/-! ### Rows of the host ports -/

theorem exec_registerWrite (p off width : Nat) :
    exec (.registerWrite p off width v) s = .next (if (portOf s p).lost then s else writeBar0 s (.port p) off width v) := rfl

theorem exec_callboardWrite (p q : Nat) :
    exec (.callboardWrite p q v) s = .next (if (portOf s p).lost then s else writeCallboard s p q v) := rfl

theorem exec_houseRingWrite (p : Nat) :
    exec (.houseRingWrite p v) s = .next (if (portOf s p).lost then s else writeHouseRing s p v) := rfl

/-- A write that the registers ignore leaves the state as it is, the port lost or not. -/
theorem exec_registerWrite_ignored (h : writeBar0 s (.port p) off width v = s) : exec (.registerWrite p off width v) s = .next s := by
  rw [exec_registerWrite, h, ite_self]

theorem exec_registerWrite_taken (h : (portOf s p).lost = false) :
    exec (.registerWrite p off width v) s = .next (writeBar0 s (.port p) off width v) := by
  rw [exec_registerWrite, h]; rfl

theorem exec_callboardWrite_taken (q : Nat) (h : (portOf s p).lost = false) :
    exec (.callboardWrite p q v) s = .next (writeCallboard s p q v) := by
  rw [exec_callboardWrite, h]; rfl

theorem exec_houseRingWrite_taken (h : (portOf s p).lost = false) : exec (.houseRingWrite p v) s = .next (writeHouseRing s p v) := by
  rw [exec_houseRingWrite, h]; rfl

end

/-! ### Callboard entries (R352) -/

/-- Port `p` sees the callboard entry of queue `q` and its tail is still taken. -/
def CallboardOwn (s : State) (p q : Nat) : Prop :=
  q = p ∨ (2 ≤ q ∧ (queueOf s q).used = true ∧ (queueOf s q).closing = false ∧ (queueOf s q).binding = p)

theorem callboardOwn_iff {s : State} {p q : Nat} :
    (decide (q = p) || (decide (2 ≤ q) && (queueOf s q).used && !(queueOf s q).closing && decide ((queueOf s q).binding = p))) = true ↔
      CallboardOwn s p q := by
  simp only [CallboardOwn, Bool.or_eq_true, Bool.and_eq_true, Bool.not_eq_true', decide_eq_true_eq, and_assoc]

theorem writeCallboard_own {s : State} {p q : Nat} (v : W64) (h : CallboardOwn s p q) :
    writeCallboard s p q v = modQueue s q (fun x => { x with tail := v &&& 0xFFFFFFFF }) := by
  rw [writeCallboard, if_pos (callboardOwn_iff.2 h)]

theorem writeCallboard_foreign {s : State} {p q : Nat} (v : W64) (h : ¬ CallboardOwn s p q) : writeCallboard s p q v = s := by
  rw [writeCallboard, if_neg (mt callboardOwn_iff.1 h)]

/-! ### HOUSE_RING (R375) -/

theorem bit63_ringKept (w : W64) : bit (ringKept w) 63 = bit w 63 := by
  simp only [bit, ringKept, BitVec.getLsbD_and, show (0x8000FFFFFFFFF000 : W64).getLsbD 63 = true from rfl, Bool.and_true]

theorem base_ringKept (w : W64) : bits (ringKept w) 47 12 = bits w 47 12 := bits_and w _ 47 12 (by decide)

/-- A HOUSE_RING whose ENABLE is written 0. -/
theorem ringKept_disabled {w : W64} (h : bit w 63 = false) : ringKept w = w &&& 0x0000FFFFFFFFF000 := and_mask_eq 63 h (by decide)

/-- A HOUSE_RING whose ENABLE stays 0. -/
theorem ringKept_refused (w : W64) : setBits (ringKept w) 63 63 0 = w &&& 0x0000FFFFFFFFF000 := by
  rw [setBits, ringKept, BitVec.and_assoc, show fld 0 (63 + 1 - 63) 63 = 0 from rfl]
  exact BitVec.or_zero

/-- What a restart of a house ring keeps: the clocks, memory, contexts and every port's HOUSE_RING. -/
structure HouseKept (s t : State) : Prop where
  clk : t.clk = s.clk
  mem : t.mem = s.mem
  ctxs : t.ctxs = s.ctxs
  ring : ∀ p, (portOf t p).houseRing = (portOf s p).houseRing

variable {s t : State}

theorem HouseKept.refl (s : State) : HouseKept s s := ⟨rfl, rfl, rfl, fun _ => rfl⟩

theorem HouseKept.trans {u : State} (h : HouseKept s t) (h' : HouseKept t u) : HouseKept s u :=
  ⟨h'.clk.trans h.clk, h'.mem.trans h.mem, h'.ctxs.trans h.ctxs, fun p => (h'.ring p).trans (h.ring p)⟩

theorem HouseKept.of_ports (hclk : t.clk = s.clk) (hmem : t.mem = s.mem) (hctxs : t.ctxs = s.ctxs) (hports : t.ports = s.ports) :
    HouseKept s t := ⟨hclk, hmem, hctxs, fun p => by rw [portOf, hports]; rfl⟩

theorem HouseKept.foldl {α : Type} {f : State → α → State} (hf : ∀ t a, HouseKept t (f t a)) (l : List α) (s : State) :
    HouseKept s (l.foldl f s) :=
  foldl_keeps (P := HouseKept s) (fun t a h => h.trans (hf t a)) l s (.refl s)

theorem modQueue_houseKept (s : State) (q : Nat) (f : Queue → Queue) : HouseKept s (modQueue s q f) := .of_ports rfl rfl rfl rfl

theorem removeCmd_houseKept (s : State) (q idx : Nat) : HouseKept s (removeCmd s q idx) := by
  unfold removeCmd
  split <;> exact .of_ports rfl rfl rfl rfl

theorem modPort_houseKept (s : State) (p : Nat) {f : Port → Port} (hf : ∀ x, (f x).houseRing = x.houseRing) :
    HouseKept s (modPort s p f) := by
  refine ⟨rfl, rfl, rfl, fun o => ?_⟩
  by_cases h : o = p
  · subst h; rw [portOf_modPort, hf]
  · rw [portOf_modPort_ne s f h]

theorem forgetReads_houseKept (s : State) (q : Nat) : HouseKept s (forgetReads s q) := by
  unfold forgetReads
  extract_lets net s1
  have h1 : HouseKept s s1 := .of_ports rfl rfl rfl rfl
  refine h1.trans (.foldl (fun t p => modPort_houseKept t p ?_) [0, 1] s1)
  exact fun _ => rfl

theorem restartHouse_houseKept (s : State) (q : Nat) : HouseKept s (restartHouse s q) := by
  unfold restartHouse
  extract_lets closing s1 s2 mine s3
  have h1 : HouseKept s s1 := .foldl (fun t n => modQueue_houseKept t n _) closing s
  have h2 : HouseKept s1 s2 := (forgetReads_houseKept s1 q).trans (.foldl (fun t (c : Cmd) => removeCmd_houseKept t q c.idx) _ _)
  have h3 : HouseKept s2 s3 := .of_ports rfl rfl rfl rfl
  exact h1.trans (h2.trans (h3.trans (modQueue_houseKept s3 q _)))

/-- A restarted ring has no command and begins again at entry 0. -/
theorem queueOf_restartHouse (s : State) (q : Nat) :
    (queueOf (restartHouse s q) q).cmds = [] ∧ (queueOf (restartHouse s q) q).taken = 0 ∧ (queueOf (restartHouse s q) q).seen = 0 := by
  unfold restartHouse
  simp only [queueOf_modQueue, and_self]

section
variable (s) (p : Nat) (v : W64)

/-- Both BASEs of the ring, as HOUSE_RING is written and HOUSE_DONE stands, lie in the port's window. -/
def RingInside : Prop :=
  ownWindow p (bits v 47 12 * 4096) = true ∧ ownWindow p (bits (portOf s p).houseDone 47 11 * 2048) = true

/-- A change of BASE while ENABLE stays 1. -/
def RingMoves : Prop :=
  bit (portOf s p).houseRing 63 = true ∧ bit v 63 = true ∧ bits v 47 12 ≠ bits (portOf s p).houseRing 47 12

variable {s p v}

theorem ringInside_iff :
    (ownWindow p (bits v 47 12 * 4096) && ownWindow p (bits (portOf s p).houseDone 47 11 * 2048)) = true ↔ RingInside s p v := by
  rw [RingInside, Bool.and_eq_true]

theorem ringMoves_iff :
    (bit (portOf s p).houseRing 63 && bit v 63 && decide (bits v 47 12 ≠ bits (portOf s p).houseRing 47 12)) = true ↔ RingMoves s p v := by
  rw [RingMoves, Bool.and_eq_true, Bool.and_eq_true, decide_eq_true_eq, and_assoc]

theorem not_ringMoves_of_disabled (he : bit v 63 = false) : ¬ RingMoves s p v := fun ⟨_, hnew, _⟩ => by
  rw [he] at hnew; cases hnew

variable (s p v) in
/-- A write of HOUSE_RING by the bits of the word written, the reserved ones dropped. -/
theorem writeHouseRing_eq : writeHouseRing s p v =
    if bit (portOf s p).houseRing 63 && bit v 63 && decide (bits v 47 12 ≠ bits (portOf s p).houseRing 47 12) then s
    else if bit v 63 then
      if ownWindow p (bits v 47 12 * 4096) && ownWindow p (bits (portOf s p).houseDone 47 11 * 2048) then
        restartHouse (setPort s p { portOf s p with houseRing := ringKept v }) p
      else setPort s p { portOf s p with houseRing := v &&& 0x0000FFFFFFFFF000 }
    else setPort s p { portOf s p with houseRing := ringKept v } := by
  rw [← ringKept_refused v, ← bit63_ringKept v, ← base_ringKept v]
  rfl

theorem writeHouseRing_moves (h : RingMoves s p v) : writeHouseRing s p v = s := by
  rw [writeHouseRing_eq, if_pos (ringMoves_iff.2 h)]

theorem writeHouseRing_inside (hm : ¬ RingMoves s p v) (he : bit v 63 = true) (hi : RingInside s p v) :
    writeHouseRing s p v = restartHouse (setPort s p { portOf s p with houseRing := ringKept v }) p := by
  rw [writeHouseRing_eq, if_neg (mt ringMoves_iff.1 hm), if_pos he, if_pos (ringInside_iff.2 hi)]

theorem writeHouseRing_outside (hm : ¬ RingMoves s p v) (he : bit v 63 = true) (hi : ¬ RingInside s p v) :
    writeHouseRing s p v = setPort s p { portOf s p with houseRing := v &&& 0x0000FFFFFFFFF000 } := by
  rw [writeHouseRing_eq, if_neg (mt ringMoves_iff.1 hm), if_pos he, if_neg (mt ringInside_iff.1 hi)]

theorem writeHouseRing_disabled (he : bit v 63 = false) :
    writeHouseRing s p v = setPort s p { portOf s p with houseRing := v &&& 0x0000FFFFFFFFF000 } := by
  rw [writeHouseRing_eq, if_neg (mt ringMoves_iff.1 (not_ringMoves_of_disabled he)), he, if_neg Bool.false_ne_true, ringKept_disabled he]

end
end Sys2Proof.Machine
end

section
/-! SUPPORT. Datagrams of the management jack (R479, R480): a kept TAG is not performed again, and a new one is kept with its reply. -/

namespace Sys2Proof.Machine

section
variable {s : State} {tag : Nat} (r : Reply)

theorem tagKept_iff : tagKept s tag = true ↔ (∃ r ∈ s.mgmt.replies, r.tag = tag) ∨ (cmdOf s 1024 tag).isSome = true := by
  simp only [tagKept, Bool.or_eq_true, List.any_eq_true, beq_iff_eq]

variable (s)

theorem keepReply_only : keepReply s r = { s with mgmt := { s.mgmt with replies := (keepReply s r).mgmt.replies } } := by rw [keepReply]

theorem queueOf_keepReply (q : Nat) : queueOf (keepReply s r) q = queueOf s q := by
  rw [queueOf, show (keepReply s r).queues = s.queues from rfl, queueOf]

theorem replies_keepReply :
    (keepReply s r).mgmt.replies = (s.mgmt.replies ++ [r]).drop ((s.mgmt.replies ++ [r]).length - 64) := by rw [keepReply]

theorem getLast?_keepReply : (keepReply s r).mgmt.replies.getLast? = some r := by
  have hlen : ¬ (s.mgmt.replies ++ [r]).length ≤ (s.mgmt.replies ++ [r]).length - 64 := by
    rw [List.length_append, List.length_singleton]; omega
  rw [replies_keepReply, List.getLast?_drop, if_neg hlen, List.getLast?_concat]

theorem length_keepReply : (keepReply s r).mgmt.replies.length ≤ 64 := by
  rw [replies_keepReply, List.length_drop]; omega

/-! ### Rows of the jack -/

variable {s}

theorem exec_regRead_kept (h : tagKept s tag = true) (off : Nat) : exec (.regRead tag off) s = .next s :=
  congrArg Host.Outcome.next (if_pos h)

theorem exec_regRead_new (h : ¬ tagKept s tag = true) (off : Nat) :
    exec (.regRead tag off) s = .next (keepReply s { tag, data := some ([readBar0 s .eth off 8], []) }) :=
  congrArg Host.Outcome.next (if_neg h)

theorem exec_regWrite_kept (h : tagKept s tag = true) (off : Nat) (v : W64) : exec (.regWrite tag off v) s = .next s :=
  congrArg Host.Outcome.next (if_pos h)

theorem exec_regWrite_new (h : ¬ tagKept s tag = true) (off : Nat) (v : W64) :
    exec (.regWrite tag off v) s = .next (keepReply (writeBar0 s .eth off 8 v) { tag, data := some ([], []) }) :=
  congrArg Host.Outcome.next (if_neg h)

theorem exec_command_kept (h : tagKept s tag = true) (packet : List W64) (data : List Byte) : exec (.command tag packet data) s = .next s :=
  if_pos h

/-- The command of a datagram as it joins the jack's queue. -/
def jackCmd (s : State) (tag : Nat) (packet : List W64) (data : List Byte) : Cmd :=
  { idx := tag, entries := pktEntries (wordAt packet 0), words := packet, taken := s.clk.cue + 1, got := tput [] [] 0 data }

theorem exec_command_new (h : ¬ tagKept s tag = true) (packet : List W64) (data : List Byte) :
    exec (.command tag packet data) s = .next (modQueue (keepReply s { tag, data := none }) 1024
      (fun x => { x with cmds := x.cmds ++ [jackCmd s tag packet data] })) :=
  if_neg h

end
end Sys2Proof.Machine
end

section
/-! SUPPORT. Registers answer the paths that reach them: the clauses of the statement, and the statement. -/

namespace Sys2Proof.Machine

theorem clockRegisters_read (s : State) (path : Path) :
    readBar0 s path 0x100 8 = BitVec.ofNat 64 s.clk.cue ∧ readBar0 s path 0x100 4 = 0 ∧
      (s.clk.aclk < 16 → s.clk.aclkTarget < 16 → bits (readBar0 s path 0x108 8) 3 0 = s.clk.aclk ∧
        bits (readBar0 s path 0x108 8) 11 8 = s.clk.aclkTarget ∧ bit (readBar0 s path 0x108 8) 16 = s.clk.shed) := by
  refine ⟨readBar0_cueCount s path, readBar0_odd s path (.inl (by decide)) rfl, fun ha ht => ?_⟩
  rw [readBar0_clockStatus]
  exact ⟨clockStatus_aclk s ha, clockStatus_aclkTarget s ht, clockStatus_shed s⟩

theorem portCtl_written {s : State} {p : Nat} (v : W64) (hp : p < 2) (hl : (portOf s p).lost = false) :
    ∃ t, exec (.registerWrite p (0x220 + 8 * p) 8 v) s = .next t ∧ portOf t p = { portOf s p with ctl := v &&& 0x80000000000007FF } ∧
      (∀ o, o ≠ p → portOf t o = portOf s o) ∧ t = { s with ports := t.ports } := by
  refine ⟨_, exec_registerWrite_taken s v hl, ?_⟩
  rw [writeBar0_portCtl s _ v hp, writePortCtl_own]
  exact ⟨portOf_modPort s p _, fun o ho => portOf_modPort_ne s _ ho, rfl⟩

theorem portCtl_of_other_ignored (s : State) {p : Nat} (v : W64) (hp : p < 2) :
    exec (.registerWrite p (0x220 + 8 * (1 - p)) 8 v) s = .next s := by
  apply exec_registerWrite_ignored
  rw [writeBar0_portCtl s _ v (by omega), writePortCtl_other s v (by omega)]

theorem portEvents_written {s : State} {p k : Nat} (v : W64) (hk : k < 2) (hl : (portOf s p).lost = false) (he : (portOf s k).events < 16) :
    ∃ t, exec (.registerWrite p (0x210 + 8 * k) 8 v) s = .next t ∧
      (∀ i, i < 4 → (portOf t k).events.testBit i = ((portOf s k).events.testBit i && !v.getLsbD i)) ∧
      portOf t k = { portOf s k with events := (portOf t k).events, refused := (portOf t k).refused } ∧
      (bits v 3 2 = 0 → (portOf t k).refused = (portOf s k).refused) ∧ t = { s with ports := t.ports } := by
  refine ⟨_, exec_registerWrite_taken s v hl, ?_⟩
  rw [writeBar0_portEvents s _ v hk]
  refine ⟨fun i hi => ?_, writePortEvents_frame s v k, writePortEvents_refused s v k, rfl⟩
  rw [writePortEvents_events, testBit_clearFlags _ (bits_lt v 3 0) _ he i hi, testBit_bits, decide_eq_true hi, Bool.true_and, Nat.zero_add]

theorem callboard_written {s : State} {p : Nat} (q : Nat) (v : W64) (hl : (portOf s p).lost = false) :
    (CallboardOwn s p q → ∃ t, exec (.callboardWrite p q v) s = .next t ∧ queueOf t q = { queueOf s q with tail := v &&& 0xFFFFFFFF } ∧
      (∀ o, o ≠ q → queueOf t o = queueOf s o) ∧ t = { s with queues := t.queues }) ∧
    (¬ CallboardOwn s p q → exec (.callboardWrite p q v) s = .next s) := by
  rw [exec_callboardWrite_taken s v q hl]
  constructor
  · intro h
    rw [writeCallboard_own v h]
    exact ⟨_, rfl, queueOf_modQueue s q _, fun o ho => queueOf_modQueue_ne s _ ho, rfl⟩
  · intro h
    rw [writeCallboard_foreign v h]

/-- A house ring enabled inside its port's window begins again (R375). -/
theorem houseRing_enabled {s : State} {p : Nat} {v : W64} (hl : (portOf s p).lost = false) (hm : ¬ RingMoves s p v) (he : bit v 63 = true)
    (hi : RingInside s p v) :
    ∃ t, exec (.houseRingWrite p v) s = .next t ∧ (portOf t p).houseRing = v &&& 0x8000FFFFFFFFF000 ∧
      (queueOf t p).cmds = [] ∧ (queueOf t p).taken = 0 ∧ (queueOf t p).seen = 0 ∧ t.clk = s.clk ∧ t.mem = s.mem ∧ t.ctxs = s.ctxs := by
  refine ⟨_, exec_houseRingWrite_taken s v hl, ?_⟩
  rw [writeHouseRing_inside hm he hi]
  obtain ⟨hclk, hmem, hctxs, hring⟩ := restartHouse_houseKept (setPort s p { portOf s p with houseRing := ringKept v }) p
  obtain ⟨hcmds, htaken, hseen⟩ := queueOf_restartHouse (setPort s p { portOf s p with houseRing := ringKept v }) p
  refine ⟨?_, hcmds, htaken, hseen, hclk, hmem, hctxs⟩
  rw [hring, portOf_setPort]; rfl

/-- A HOUSE_RING write that leaves ENABLE 0 changes only that register. -/
theorem houseRing_set {s : State} {p : Nat} {v : W64} (hl : (portOf s p).lost = false)
    (h : writeHouseRing s p v = setPort s p { portOf s p with houseRing := v &&& 0x0000FFFFFFFFF000 }) :
    ∃ t, exec (.houseRingWrite p v) s = .next t ∧ (portOf t p).houseRing = v &&& 0x0000FFFFFFFFF000 ∧ t = { s with ports := t.ports } := by
  refine ⟨_, exec_houseRingWrite_taken s v hl, ?_⟩
  rw [h, portOf_setPort]
  exact ⟨rfl, rfl⟩

theorem not_ringMoves {s : State} {p : Nat} {v : W64}
    (h : bit (portOf s p).houseRing 63 = false ∨ bits v 47 12 = bits (portOf s p).houseRing 47 12) : ¬ RingMoves s p v := by
  rintro ⟨hold, -, hbase⟩
  rcases h with h | h
  · rw [h] at hold; cases hold
  · exact hbase h

theorem regRead_answered {s : State} {tag : Nat} (h : ¬ tagKept s tag = true) (off : Nat) :
    ∃ t, exec (.regRead tag off) s = .next t ∧ t = { s with mgmt := { s.mgmt with replies := t.mgmt.replies } } ∧
      t.mgmt.replies.getLast? = some { tag, data := some ([readBar0 s .eth off 8], []) } ∧ t.mgmt.replies.length ≤ 64 :=
  ⟨_, exec_regRead_new h off, keepReply_only s _, getLast?_keepReply s _, length_keepReply s _⟩

theorem regWrite_acknowledged {s : State} {tag : Nat} (h : ¬ tagKept s tag = true) (off : Nat) (v : W64) :
    ∃ t, exec (.regWrite tag off v) s = .next t ∧ t = { writeBar0 s .eth off 8 v with mgmt := t.mgmt } ∧
      t.mgmt.replies.getLast? = some { tag, data := some ([], []) } :=
  ⟨_, exec_regWrite_new h off v, by rw [keepReply], getLast?_keepReply _ _⟩

theorem command_queued {s : State} {tag : Nat} (h : ¬ tagKept s tag = true) (packet : List W64) (data : List Byte) :
    ∃ t, exec (.command tag packet data) s = .next t ∧
      (t.mgmt.replies.getLast? = some { tag, data := none } ∧ t.mgmt.replies.length ≤ 64) ∧
      t = { s with queues := t.queues, mgmt := { s.mgmt with replies := t.mgmt.replies } } ∧
      (queueOf t 1024).cmds = (queueOf s 1024).cmds ++ [jackCmd s tag packet data] ∧ ∀ q, q ≠ 1024 → queueOf t q = queueOf s q := by
  refine ⟨_, exec_command_new h packet data, ?_⟩
  rw [modQueue_mgmt, queueOf_modQueue, queueOf_keepReply]
  refine ⟨⟨getLast?_keepReply s _, length_keepReply s _⟩, ?_, rfl, fun q hq => ?_⟩
  · rw [keepReply]; rfl
  · rw [queueOf_modQueue_ne _ _ hq, queueOf_keepReply]

end Sys2Proof.Machine

open Sys2Proof Sys2Proof.Machine

/-- Settles O48: each register by the lemma about its write, the jack's datagrams by whether their TAG is kept. -/
theorem registersAnswerTheirPaths : Obligations.RegistersAnswerTheirPaths := by
  unfold Obligations.RegistersAnswerTheirPaths
  refine ⟨clockRegisters_read, ?odd, fun s p v hp hl => portCtl_written v hp hl, fun s p v hp => portCtl_of_other_ignored s v hp,
    fun s p k v hk hl he => portEvents_written v hk hl he, fun s p q v hl => callboard_written q v hl, ?ring, ?jack⟩
  case odd => exact fun s p off width v h hm => exec_registerWrite_ignored s v (writeBar0_odd s _ v h hm)
  case ring =>
    intro s p v hp hl
    refine ⟨fun hold hnew hbase => ?moves, fun hm he hi => ?inside, fun hm he hi => ?outside, fun he => ?disabled⟩
    case moves => rw [exec_houseRingWrite_taken s v hl, writeHouseRing_moves ⟨hold, hnew, hbase⟩]
    case inside => exact houseRing_enabled hl (not_ringMoves hm) he hi
    case outside => exact houseRing_set hl (writeHouseRing_outside (not_ringMoves hm) he hi)
    case disabled => exact houseRing_set hl (writeHouseRing_disabled he)
  case jack =>
    intro s tag
    rw [← tagKept_iff]
    intro kept replied hlen
    refine ⟨fun h => ?kept, fun h => ?new⟩
    case kept => exact ⟨exec_regRead_kept h, exec_regWrite_kept h, exec_command_kept h⟩
    case new => exact ⟨regRead_answered h, regWrite_acknowledged h, command_queued h⟩
end

section
/-! SUPPORT. Granules returned to free memory (R279, R301, R326): what recalling their lines leaves as it is, and which owners
are cleared. -/

namespace Sys2Proof.Machine

/-- Only memory and the caches differ, and every granule keeps its owner. -/
def OwnersKept (s t : State) : Prop := ∃ m c, t = { s with mem := m, coh := c } ∧ m.owner = s.mem.owner

section
variable {s t u : State}

theorem OwnersKept.refl (s : State) : OwnersKept s s := ⟨s.mem, s.coh, rfl, rfl⟩

theorem OwnersKept.trans (h : OwnersKept s t) (h' : OwnersKept t u) : OwnersKept s u := by
  obtain ⟨m, c, rfl, ho⟩ := h
  obtain ⟨m', c', rfl, ho'⟩ := h'
  exact ⟨m', c', rfl, ho'.trans ho⟩

theorem OwnersKept.foldl {α : Type} {f : State → α → State} (hf : ∀ t a, OwnersKept t (f t a)) (l : List α) (s : State) :
    OwnersKept s (l.foldl f s) :=
  foldl_keeps (P := OwnersKept s) (fun t a h => h.trans (hf t a)) l s (.refl s)

theorem OwnersKept.of_coh (s : State) (c : Coh) : OwnersKept s { s with coh := c } := ⟨s.mem, c, rfl, rfl⟩

theorem OwnersKept.write (h : OwnersKept s t) {m : Mem} (ho : m.owner = t.mem.owner) : OwnersKept s { t with mem := m } :=
  h.trans ⟨m, t.coh, rfl, ho⟩

theorem OwnersKept.ite {b : Prop} [Decidable b] (ht : OwnersKept s t) (hu : OwnersKept s u) : OwnersKept s (if b then t else u) := by
  split
  · exact ht
  · exact hu

end

/-! ### Lines recalled to their homes -/

section
variable (s : State) (n : Nat)

theorem llmPlace_ownersKept (dirty : Bool) : OwnersKept s (llmPlace s n dirty) := .of_coh s _

theorem llmSoil_ownersKept : OwnersKept s (llmSoil s n) := by
  have hstale : ∀ c, OwnersKept s (if llmDirty s n then s else { s with coh := c }) := fun c => .ite (.refl s) (.of_coh s c)
  exact .ite ((hstale _).trans (llmPlace_ownersKept _ n true)) (.refl s)

theorem writeLine_ownersKept (d : BitVec 1024) : OwnersKept s (writeLine s n d) := by
  have hstale : ∀ c, OwnersKept s (if llmDirty s n then s else { s with coh := c }) := fun c => .ite (.refl s) (.of_coh s c)
  exact .write (.ite ((hstale _).trans (llmPlace_ownersKept _ n true)) (.refl s)) rfl

theorem mergeAt_ownersKept (bs : List Byte) : OwnersKept s (mergeAt s n bs) :=
  (llmSoil_ownersKept s (n / 128)).write rfl

theorem meetBad_ownersKept (cs : List (Nat × Nat)) : OwnersKept s (meetBad s n cs) := .write (.refl s) rfl

theorem setEntry_ownersKept (owned : Bool) (sharers : Nat) : OwnersKept s (setEntry s n owned sharers) := .of_coh s _

theorem mergeHome_ownersKept (rs : List (Nat × List Byte)) : OwnersKept s (mergeHome s n rs) := by
  unfold mergeHome
  split
  · exact meetBad_ownersKept s _ _
  · exact .foldl (fun t (r : Nat × List Byte) => mergeAt_ownersKept t r.1 r.2) rs s

theorem answerRead_ownersKept (pa len : Nat) (d : Option (BitVec 1024)) : OwnersKept s (answerRead s n pa len d) := by
  unfold answerRead
  dsimp only
  split
  · exact .of_coh s _
  · exact meetBad_ownersKept s _ _

theorem finishUncached_ownersKept (a : Asker) : OwnersKept s (finishUncached s n a) := by
  unfold finishUncached
  extract_lets e s0
  have h0 : OwnersKept s s0 := OwnersKept.trans (.of_coh s _) (setEntry_ownersKept _ n _ _)
  have h1 : OwnersKept s (setEntry s0 n false 0) := h0.trans (setEntry_ownersKept s0 n _ _)
  split
  next c pa len => exact h0.trans (answerRead_ownersKept s0 c pa len _)
  next c pa mask bs => exact h1.trans (mergeHome_ownersKept _ c _)
  next c pa op size operand comparand =>
    split
    · exact h1.trans (meetBad_ownersKept _ _ _)
    · exact h1.trans ((mergeAt_ownersKept _ pa _).trans (.of_coh _ _))
  next => exact .refl s

theorem recallLine_ownersKept : OwnersKept s (recallLine s n) := by
  unfold recallLine
  refine OwnersKept.trans (OwnersKept.trans ?_ (.of_coh _ _)) (.foldl (fun t a => finishUncached_ownersKept t n a) _ _)
  split
  · exact writeLine_ownersKept s n _
  · exact .refl s

end

/-! ### Granules freed -/

/-- A granule's entry says that it is in use or free, not retired (R301, R324). -/
def NotRetired (m : Mem) (g : Nat) : Prop := bits (tget 0 m.owner g) 14 13 < 2

section
variable (s : State) {g : Nat}

theorem freeGranule_retired (h : ¬ NotRetired s.mem g) : freeGranule s g = s := if_pos (Nat.le_of_not_lt h)

theorem freeGranule_cleared (h : NotRetired s.mem g) :
    ∃ m c, freeGranule s g = { s with mem := m, coh := c } ∧ m.owner = tput 0 s.mem.owner g 0 := by
  unfold freeGranule
  rw [if_neg (Nat.not_le.2 h)]
  extract_lets lines s1
  have h1 : OwnersKept s s1 := (OwnersKept.foldl recallLine_ownersKept lines s).trans (.of_coh _ _)
  obtain ⟨m, c, e, ho⟩ := h1
  rw [e]
  exact ⟨_, _, rfl, by rw [ho]⟩

theorem freeGranule_only (g : Nat) : ∃ m c, freeGranule s g = { s with mem := m, coh := c } := by
  by_cases h : NotRetired s.mem g
  · obtain ⟨m, c, e, -⟩ := freeGranule_cleared s h
    exact ⟨m, c, e⟩
  · exact ⟨s.mem, s.coh, freeGranule_retired s h⟩

/-- A granule freed has no owner; every other keeps its own. -/
theorem owner_freeGranule (g j : Nat) :
    tget 0 (freeGranule s g).mem.owner j = tget 0 s.mem.owner j ∨ tget 0 (freeGranule s g).mem.owner j = 0 := by
  by_cases h : NotRetired s.mem g
  · obtain ⟨m, c, e, ho⟩ := freeGranule_cleared s h
    rw [e, ho, tget_put]
    split
    · exact .inr rfl
    · exact .inl rfl
  · rw [freeGranule_retired s h]
    exact .inl rfl

theorem owner_freeGranule_self (h : NotRetired s.mem g) : tget 0 (freeGranule s g).mem.owner g = 0 := by
  obtain ⟨m, c, e, ho⟩ := freeGranule_cleared s h
  rw [e, ho, tget_put_self]

theorem freeGranule_notRetired (g : Nat) {j : Nat} (h : NotRetired s.mem j) : NotRetired (freeGranule s g).mem j := by
  unfold NotRetired
  obtain e | e := owner_freeGranule s g j
  · rw [e]; exact h
  · rw [e]; decide

theorem freeGranules_only (gs : List Nat) : ∃ m c, gs.foldl freeGranule s = { s with mem := m, coh := c } := by
  refine foldl_keeps (P := fun t => ∃ m c, t = { s with mem := m, coh := c }) ?_ gs s ⟨s.mem, s.coh, rfl⟩
  rintro t g ⟨m, c, rfl⟩
  obtain ⟨m', c', e⟩ := freeGranule_only { s with mem := m, coh := c } g
  exact ⟨m', c', e⟩

/-- A granule without an owner stays without one while others are freed. -/
theorem freeGranules_keep_free (gs : List Nat) (h : tget 0 s.mem.owner g = 0) : tget 0 (gs.foldl freeGranule s).mem.owner g = 0 := by
  refine foldl_keeps (P := fun t => tget 0 t.mem.owner g = 0) (fun t a ht => ?_) gs s h
  obtain e | e := owner_freeGranule t a g
  · rw [e, ht]
  · exact e

theorem owner_freeGranules {gs : List Nat} (hg : g ∈ gs) (h : NotRetired s.mem g) : tget 0 (gs.foldl freeGranule s).mem.owner g = 0 := by
  induction gs generalizing s with
  | nil => cases hg
  | cons a gs ih =>
    rw [List.foldl_cons]
    cases hg with
    | head => exact freeGranules_keep_free _ gs (owner_freeGranule_self s h)
    | tail _ hg => exact ih (freeGranule s a) hg (freeGranule_notRetired s a h)

end
end Sys2Proof.Machine
end

section
/-! SUPPORT. Commands, run lists, loads and scripts read after an update, and what a handle names (R95, R116, R117). -/

namespace Sys2Proof.Machine

section
variable {s : State} {q i p slot : Nat} {c : Cmd} {f : Cmd → Cmd}

/-! ### Commands -/

theorem cmdOf_idx (h : cmdOf s q i = some c) : c.idx = i := eq_of_beq (List.find?_some (p := fun c : Cmd => c.idx == i) h)

/-- The command of an entry, changed, is what the change makes of it, if it keeps its entry number. -/
theorem cmdOf_modCmd (h : cmdOf s q i = some c) (hf : ∀ x, x.idx = i → (f x).idx = i) : cmdOf (modCmd s q i f) q i = some (f c) := by
  have hsame : ((fun x : Cmd => x.idx == i) ∘ fun x => if x.idx = i then f x else x) = fun x => x.idx == i := by
    funext x
    by_cases hx : x.idx = i
    · rw [Function.comp_apply, if_pos hx, hf x hx, hx]
    · simp only [Function.comp_apply, if_neg hx]
  unfold cmdOf at h ⊢
  rw [modCmd, queueOf_modQueue, List.find?_map, hsame, h, Option.map_some, if_pos (cmdOf_idx h)]

/-- The head of a queue stays the head when one command changes and keeps whether it is passed. -/
theorem headCmd_modCmd (h : headCmd (queueOf s q) = some c) (hi : c.idx = i) (hf : ∀ x, (f x).passed = x.passed) :
    headCmd (queueOf (modCmd s q i f) q) = some (f c) := by
  have hsame : ((fun x : Cmd => !x.passed) ∘ fun x => if x.idx = i then f x else x) = fun x => !x.passed := by
    funext x
    by_cases hx : x.idx = i
    · simp only [Function.comp_apply, if_pos hx, hf]
    · simp only [Function.comp_apply, if_neg hx]
  unfold headCmd at h ⊢
  rw [modCmd, queueOf_modQueue, List.find?_map, hsame, h, Option.map_some, if_pos hi]

theorem queueOf_modCmd_ne (f : Cmd → Cmd) {j : Nat} (h : j ≠ q) : queueOf (modCmd s q i f) j = queueOf s j := queueOf_modQueue_ne s _ h

theorem partOf_modCmd (f : Cmd → Cmd) (j : Nat) : partOf (modCmd s q i f) j = partOf s j := rfl

theorem scriptOf_modCmd (f : Cmd → Cmd) (k : Nat) : scriptOf (modCmd s q i f) p k = scriptOf s p k := rfl

/-! ### What a command of a partition leaves -/

theorem only_queues_parts {t : State} (h : ∃ qs ps, t = { s with queues := qs, parts := ps }) :
    t = { s with queues := t.queues, parts := t.parts } := by
  obtain ⟨qs, ps, rfl⟩ := h
  rfl

theorem only_queues_parts_mem_coh {t : State} (h : ∃ qs ps m k, t = { s with queues := qs, parts := ps, mem := m, coh := k }) :
    t = { s with queues := t.queues, parts := t.parts, mem := t.mem, coh := t.coh } := by
  obtain ⟨qs, ps, m, k, rfl⟩ := h
  rfl

/-! ### The running order and the scripts of a partition -/

variable (s p)

theorem partOf_modOrder (f : Order → Order) : partOf (modOrder s p f) p = { partOf s p with order := f (partOf s p).order } :=
  partOf_modPart s p _

theorem partOf_modOrder_ne (f : Order → Order) {j : Nat} (h : j ≠ p) : partOf (modOrder s p f) j = partOf s j := partOf_modPart_ne s _ h

theorem scriptOf_modOrder (f : Order → Order) (k : Nat) : scriptOf (modOrder s p f) p k = scriptOf s p k := by
  rw [scriptOf, partOf_modOrder]; rfl

theorem scriptOf_modScript (f : Script → Script) : scriptOf (modScript s p slot f) p slot = f (scriptOf s p slot) := by
  rw [scriptOf, modScript, partOf_modPart]; exact tget_put_self _ _ _ _

theorem scriptOf_modScript_ne (f : Script → Script) {k : Nat} (h : k ≠ slot) : scriptOf (modScript s p slot f) p k = scriptOf s p k := by
  rw [scriptOf, modScript, partOf_modPart]; exact tget_put_other _ _ _ _ _ h

theorem order_modScript (f : Script → Script) : (partOf (modScript s p slot f) p).order = (partOf s p).order := by
  rw [modScript, partOf_modPart]

variable {s p}

/-- A load or unload of a partition that has none is the only one of its list. -/
theorem enterLoad_alone (h : (partOf s p).order.loads = []) (x : Nat × Nat) :
    enterLoad s p x = modOrder s p (fun o => { o with loads := [x] }) := by
  simp only [enterLoad, modOrder, modPart, h]

/-- The only load or unload of a partition leaves none. -/
theorem leaveLoads_alone {x : Nat × Nat} (h : (partOf s p).order.loads = [x]) :
    leaveLoads s p x = modOrder s p (fun o => { o with loads := [] }) := by
  simp only [leaveLoads, modOrder, modPart, h, List.filter_cons, bne_self_eq_false, Bool.false_eq_true, ↓reduceIte, List.filter_nil]

/-! ### Handles -/

/-- SLOT is the low byte of a handle (R97). -/
theorem slot_of_handle {n : Nat} (w : BitVec n) : bits w 15 0 % 256 = bits w 7 0 := by
  simp only [bits]
  exact Nat.mod_mod_of_dvd _ (by decide)

/-- What a handle names is a resident script of the context, in the slot that the handle gives (R97, R116). -/
theorem namedScript_some {x handle cue : Nat} {self : Nat × Nat} (h : namedScript s x handle cue self = some slot) :
    slot = handle % 256 ∧ (scriptOf s (ctxOf s x).part slot).used = true ∧ (scriptOf s (ctxOf s x).part slot).ctx = x := by
  unfold namedScript at h
  extract_lets slot' sc at h
  split at h
  next hnamed =>
    obtain rfl : handle % 256 = slot := Option.some.inj h
    simp only [Bool.and_eq_true, beq_iff_eq] at hnamed
    obtain ⟨⟨⟨hused, -⟩, hctx⟩, -⟩ := hnamed
    exact ⟨rfl, hused, hctx⟩
  next => cases h

end
end Sys2Proof.Machine
end

section
/-! SUPPORT. PLAY_RUN and PLAY_UNLOAD of a due command (R95, R112, R116, R117), and the statement. -/

namespace Sys2Proof.Machine

section
variable {s : State} {q op slot : Nat} {c : Cmd}

/-! ### PLAY_RUN -/

/-- The run that a PLAY_RUN puts on the run list of its partition (R112). -/
def newRun (s : State) (q : Nat) (c : Cmd) (slot : Nat) : Run :=
  let x := (queueOf s q).ctx
  let p := (ctxOf s x).part
  { id := (partOf s p).order.nextRun, queue := q, idx := c.idx, ctx := x, slot, prio := (scriptOf s p slot).prio, sampled := c.taken }

/-- The command's own work has begun. -/
def cmdBegun (s : State) (q : Nat) (c : Cmd) : State := modCmd s q c.idx (fun x => { x with stage := 1 })

theorem cmdOf_cmdBegun (h : CmdDue s q op c) : cmdOf (cmdBegun s q c) q c.idx = some { c with stage := 1 } :=
  cmdOf_modCmd h.own fun _ hx => hx

theorem exec_playRun_none (h : CmdDue s q 0x21 c)
    (hn : namedScript s (queueOf s q).ctx (bits (wordAt c.words 1) 15 0) c.taken (q, c.idx) = none) :
    exec (.playRun q) s = .next (reject s q c stBadObject 0) := by
  show Host.Outcome.next (joinRun s q) = _
  rw [joinRun, onCommand_due h]
  simp only [hn]

theorem exec_playRun_named (h : CmdDue s q 0x21 c)
    (hn : namedScript s (queueOf s q).ctx (bits (wordAt c.words 1) 15 0) c.taken (q, c.idx) = some slot) :
    exec (.playRun q) s = .next (modOrder (cmdBegun s q c) (ctxOf s (queueOf s q).ctx).part
      (fun o => { o with nextRun := o.nextRun + 1, runs := o.runs ++ [newRun s q c slot] })) := by
  show Host.Outcome.next (joinRun s q) = _
  rw [joinRun, onCommand_due h]
  simp only [hn]
  rfl

theorem playRun_joins (h : CmdDue s q 0x21 c)
    (hn : namedScript s (queueOf s q).ctx (bits (wordAt c.words 1) 15 0) c.taken (q, c.idx) = some slot) :
    let x := (queueOf s q).ctx
    let p := (ctxOf s x).part
    ∃ t, exec (.playRun q) s = .next t ∧ slot = bits (wordAt c.words 1) 15 0 % 256 ∧ (scriptOf s p slot).used = true ∧
      (scriptOf s p slot).ctx = x ∧ cmdOf t q c.idx = some { c with stage := 1 } ∧
      partOf t p = { partOf s p with order := { (partOf s p).order with
        nextRun := (partOf s p).order.nextRun + 1, runs := (partOf s p).order.runs ++ [newRun s q c slot] } } ∧
      t = { s with queues := t.queues, parts := t.parts } ∧ (∀ j, j ≠ p → partOf t j = partOf s j) ∧
      (∀ j, j ≠ q → queueOf t j = queueOf s j) := by
  intro x p
  obtain ⟨hslot, hused, hctx⟩ := namedScript_some hn
  refine ⟨_, exec_playRun_named h hn, hslot, hused, hctx, cmdOf_cmdBegun h, partOf_modOrder _ p _,
    only_queues_parts ⟨_, _, rfl⟩, fun j hj => ?_, fun j hj => ?_⟩
  · exact partOf_modOrder_ne _ p _ hj
  · exact queueOf_modCmd_ne _ hj

/-! ### PLAY_UNLOAD -/

/-- A PLAY_UNLOAD that has joined the loads and unloads of a partition that had none: its script counts it, and it is the only
one of the list (R95, R117). -/
def unloadJoined (s : State) (q : Nat) (c : Cmd) (p slot : Nat) : State :=
  modOrder (modScript (cmdBegun s q c) p slot (fun sc => { sc with unloading := sc.unloading ++ [(q, c.idx)] })) p
    (fun o => { o with loads := [(q, c.idx)] })

section
variable {p : Nat}

variable (s q slot c p) in
theorem unloadJoined_only : ∃ qs ps, unloadJoined s q c p slot = { s with queues := qs, parts := ps } := ⟨_, _, rfl⟩

theorem order_unloadJoined :
    (partOf (unloadJoined s q c p slot) p).order = { (partOf s p).order with loads := [(q, c.idx)] } := by
  rw [unloadJoined, partOf_modOrder, order_modScript]
  rfl

theorem scriptOf_unloadJoined : scriptOf (unloadJoined s q c p slot) p slot =
    { scriptOf s p slot with unloading := (scriptOf s p slot).unloading ++ [(q, c.idx)] } := by
  rw [unloadJoined, scriptOf_modOrder, scriptOf_modScript]
  rfl

theorem scriptOf_unloadJoined_ne {k : Nat} (h : k ≠ slot) : scriptOf (unloadJoined s q c p slot) p k = scriptOf s p k := by
  rw [unloadJoined, scriptOf_modOrder, scriptOf_modScript_ne _ _ _ h]
  rfl

theorem cmdOf_unloadJoined (h : CmdDue s q op c) : cmdOf (unloadJoined s q c p slot) q c.idx = some { c with stage := 1 } :=
  cmdOf_cmdBegun h

theorem ctx_unloadJoined : (queueOf (unloadJoined s q c p slot) q).ctx = (queueOf s q).ctx := by
  rw [show queueOf (unloadJoined s q c p slot) q = queueOf (cmdBegun s q c) q from rfl, cmdBegun, modCmd, queueOf_modQueue]

theorem ctxOf_unloadJoined (x : Nat) : ctxOf (unloadJoined s q c p slot) x = ctxOf s x := rfl

/-- The turn of a PLAY_UNLOAD that joined an empty list has come (R95). -/
theorem loadTurn_unloadJoined (h : CmdDue s q 0x22 c) (hp : (ctxOf s (queueOf s q).ctx).part = p)
    (hf : (ctxOf s (queueOf s q).ctx).fault = none) :
    loadTurn (unloadJoined s q c p slot) q 0x22 = some { c with stage := 1 } := by
  obtain ⟨hhead, -, hfin, -, hop, -⟩ := dueCmd_facts h.due
  have hhead' : headCmd (queueOf (unloadJoined s q c p slot) q) = some { c with stage := 1 } := headCmd_modCmd hhead rfl fun _ => rfl
  unfold loadTurn
  simp only [hhead', ctx_unloadJoined, ctxOf_unloadJoined, hp, hf, order_unloadJoined, hop, hfin, Option.isNone_none, List.head?_cons,
    decide_true, Bool.and_self, ↓reduceIte]

theorem exec_playUnload_named (h : CmdDue s q 0x22 c) (hp : (ctxOf s (queueOf s q).ctx).part = p)
    (hn : namedScript s (queueOf s q).ctx (bits (wordAt c.words 1) 15 0) c.taken (q, c.idx) = some slot)
    (hl : (partOf s p).order.loads = []) (hf : (ctxOf s (queueOf s q).ctx).fault = none) :
    exec (.playUnload q) s = .next (settleUnload (unloadJoined s q c p slot) p (s.clk.cue + 1)) := by
  have hjoin (f : Script → Script) : enterLoad (modScript (cmdBegun s q c) p slot f) p (q, c.idx) =
      modOrder (modScript (cmdBegun s q c) p slot f) p (fun o => { o with loads := [(q, c.idx)] }) := by
    refine enterLoad_alone ?_ _
    rw [order_modScript]
    exact hl
  show execPlayUnload q s = _
  unfold execPlayUnload
  rw [onCommand_due h]
  simp only [hn, hp]
  rw [← cmdBegun, hjoin, ← unloadJoined]
  simp only [loadTurn_unloadJoined h hp hf, ctx_unloadJoined, ctxOf_unloadJoined, hp]
  rfl

end

/-! ### The turn of a PLAY_UNLOAD -/

/-- A slot whose script is unloaded: it is empty, and keeps the GENERATION that its next use increments (R97, R117). -/
def freeSlot (slot : Nat) (x : Partition) : Partition :=
  { x with scripts := tput {} x.scripts slot { gen := (tget {} x.scripts slot).gen, reused := true }, freed := x.freed ++ [slot] }

section
variable (s slot) (p : Nat)

theorem scriptOf_freeSlot : scriptOf (modPart s p (freeSlot slot)) p slot = { gen := (scriptOf s p slot).gen, reused := true } := by
  rw [scriptOf, partOf_modPart]; exact tget_put_self _ _ _ _

theorem scriptOf_freeSlot_ne {k : Nat} (h : k ≠ slot) : scriptOf (modPart s p (freeSlot slot)) p k = scriptOf s p k := by
  rw [scriptOf, partOf_modPart]; exact tget_put_other _ _ _ _ _ h

theorem order_freeSlot : (partOf (modPart s p (freeSlot slot)) p).order = (partOf s p).order := by
  rw [partOf_modPart]; rfl

variable {s p slot}

/-- A script unloaded empties its slot and frees its granules, those retired excepted (R117, R301). -/
theorem unloadScript_used (hu : (scriptOf s p slot).used = true) :
    ∃ m k, unloadScript s p slot = modPart { s with mem := m, coh := k } p (freeSlot slot) ∧
      ∀ g ∈ (scriptOf s p slot).granules, NotRetired s.mem g → tget 0 m.owner g = 0 := by
  obtain ⟨m, k, e⟩ := freeGranules_only s (scriptOf s p slot).granules
  refine ⟨m, k, ?_, fun g hg hr => ?_⟩
  · simp only [unloadScript, hu, Bool.not_true, Bool.false_eq_true, ↓reduceIte, e]
    rfl
  · have hfree := owner_freeGranules s hg hr
    rw [e] at hfree
    exact hfree

/-- The state once PLAY_UNLOAD `c` of queue `q` has taken effect, `m` and `k` being memory and the caches when the granules of its
script are free: its slot is empty, no load or unload is left, and the answer is due at the next boundary. -/
def unloadDone (s : State) (m : Mem) (k : Coh) (q : Nat) (c : Cmd) (p slot : Nat) : State :=
  modCmd (modOrder (modPart { s with mem := m, coh := k } p (freeSlot slot)) p (fun o => { o with loads := [] })) q c.idx
    (fun _ => { c with fin := some (plainDone (s.clk.cue + 1) 0 0) })

section
variable {m : Mem} {k : Coh}

theorem finish_unloaded (hs : unloadScript s p slot = modPart { s with mem := m, coh := k } p (freeSlot slot))
    (hl : (partOf s p).order.loads = [(q, c.idx)]) (hc : cmdOf s q c.idx = some c) (hfin : c.fin = none) :
    finish (leaveLoads (unloadScript s p slot) p (q, c.idx)) q c.idx (plainDone (s.clk.cue + 1) 0 0) = unloadDone s m k q c p slot := by
  have hl' : (partOf (modPart { s with mem := m, coh := k } p (freeSlot slot)) p).order.loads = [(q, c.idx)] := by
    rw [order_freeSlot]; exact hl
  rw [hs, leaveLoads_alone hl', unloadDone]
  exact finish_later hc hfin (Nat.lt_succ_self _)

theorem scriptOf_unloadDone : scriptOf (unloadDone s m k q c p slot) p slot = { gen := (scriptOf s p slot).gen, reused := true } := by
  rw [unloadDone, scriptOf_modCmd, scriptOf_modOrder, scriptOf_freeSlot]
  rfl

theorem scriptOf_unloadDone_ne {j : Nat} (h : j ≠ slot) : scriptOf (unloadDone s m k q c p slot) p j = scriptOf s p j := by
  rw [unloadDone, scriptOf_modCmd, scriptOf_modOrder, scriptOf_freeSlot_ne _ _ _ h]
  rfl

theorem loads_unloadDone : (partOf (unloadDone s m k q c p slot) p).order.loads = [] := by
  rw [unloadDone, partOf_modCmd, partOf_modOrder]

variable (s q slot c p m k) in
theorem unloadDone_only : ∃ qs ps, unloadDone s m k q c p slot = { s with queues := qs, parts := ps, mem := m, coh := k } := ⟨_, _, rfl⟩

theorem unloadDone_joined_only {d : Cmd} : ∃ qs ps m' k',
    unloadDone (unloadJoined s q c p slot) m k q d p slot = { s with queues := qs, parts := ps, mem := m', coh := k' } := by
  obtain ⟨qs, ps, hjoined⟩ := unloadJoined_only s q slot c p
  obtain ⟨qs', ps', hdone⟩ := unloadDone_only (unloadJoined s q c p slot) q slot d p m k
  exact ⟨qs', ps', m, k, by rw [hdone, hjoined]⟩

theorem cmdOf_unloadDone (hc : cmdOf s q c.idx = some c) :
    cmdOf (unloadDone s m k q c p slot) q c.idx = some { c with fin := some (plainDone (s.clk.cue + 1) 0 0) } :=
  cmdOf_modCmd hc fun _ _ => rfl

end

/-- The PLAY_UNLOAD at the front of the list of loads and unloads waits for the runs of its script (log 115), then frees it. -/
theorem settleUnload_turn {x : Nat × Nat} {l : List (Nat × Nat)} {due : Nat} (hl : (partOf s p).order.loads = x :: l)
    (hc : cmdOf s x.1 x.2 = some c) (hop : pktOp (wordAt c.words 0) = 0x22) (hfin : c.fin = none)
    (hslot : bits (wordAt c.words 1) 7 0 = slot) (hu : x ∈ (scriptOf s p slot).unloading) :
    settleUnload s p due = if (partOf s p).order.runs.any (fun r => r.slot == slot) then s
      else finish (leaveLoads (unloadScript s p slot) p x) x.1 x.2 (plainDone due 0 0) := by
  unfold settleUnload
  simp only [hl, hc, hop, hfin, hslot, List.contains_iff_mem.2 hu, ne_eq, not_true_eq_false, decide_false, Option.isSome_none, Bool.or_self,
    Bool.false_eq_true, ↓reduceIte]

theorem any_slot_iff {rs : List Run} : rs.any (fun r => r.slot == slot) = true ↔ ∃ r ∈ rs, r.slot = slot := by
  simp only [List.any_eq_true, beq_iff_eq]

end

section
variable {p : Nat} (h : CmdDue s q 0x22 c) (hp : (ctxOf s (queueOf s q).ctx).part = p)
  (hn : namedScript s (queueOf s q).ctx (bits (wordAt c.words 1) 15 0) c.taken (q, c.idx) = some slot)
  (hl : (partOf s p).order.loads = []) (hf : (ctxOf s (queueOf s q).ctx).fault = none)
include h hp hn hl hf

/-- A PLAY_UNLOAD that starts while its partition has no other load or unload is at its turn at once. -/
theorem exec_playUnload_turn :
    exec (.playUnload q) s = .next (if (partOf s p).order.runs.any (fun r => r.slot == slot) then unloadJoined s q c p slot
      else finish (leaveLoads (unloadScript (unloadJoined s q c p slot) p slot) p (q, c.idx)) q c.idx (plainDone (s.clk.cue + 1) 0 0)) := by
  obtain ⟨-, -, hfin, -, hop, -⟩ := dueCmd_facts h.due
  obtain ⟨hslot, -, -⟩ := namedScript_some hn
  have hloads : (partOf (unloadJoined s q c p slot) p).order.loads = [(q, c.idx)] := by rw [order_unloadJoined]
  have hmem : (q, c.idx) ∈ (scriptOf (unloadJoined s q c p slot) p slot).unloading := by
    rw [scriptOf_unloadJoined]
    exact List.mem_append_right _ (List.mem_singleton.2 rfl)
  rw [exec_playUnload_named h hp hn hl hf, settleUnload_turn hloads (cmdOf_unloadJoined h) hop hfin
    ((slot_of_handle _).symm.trans hslot.symm) hmem, order_unloadJoined]

/-- While a run of the script is left, the PLAY_UNLOAD has only joined (log 115). -/
theorem playUnload_waits (hr : ∃ r ∈ (partOf s p).order.runs, r.slot = slot) :
    ∃ t, exec (.playUnload q) s = .next t ∧
      scriptOf t p slot = { scriptOf s p slot with unloading := (scriptOf s p slot).unloading ++ [(q, c.idx)] } ∧
      cmdOf t q c.idx = some { c with stage := 1 } ∧ (partOf t p).order.loads = [(q, c.idx)] ∧
      t = { s with queues := t.queues, parts := t.parts } := by
  refine ⟨unloadJoined s q c p slot, ?_, scriptOf_unloadJoined, cmdOf_unloadJoined h, ?_, only_queues_parts (unloadJoined_only s q slot c p)⟩
  · rw [exec_playUnload_turn h hp hn hl hf, if_pos (any_slot_iff.2 hr)]
  · rw [order_unloadJoined]

/-- Once no run of the script is left, the PLAY_UNLOAD takes effect and answers at the next boundary. -/
theorem playUnload_takesEffect (hr : ∀ r ∈ (partOf s p).order.runs, r.slot ≠ slot) :
    ∃ t, exec (.playUnload q) s = .next t ∧ (scriptOf t p slot).used = false ∧ (scriptOf t p slot).gen = (scriptOf s p slot).gen ∧
      cmdOf t q c.idx = some { c with stage := 1, fin := some (plainDone (s.clk.cue + 1) 0 0) } ∧
      (∀ k, k ≠ slot → scriptOf t p k = scriptOf s p k) ∧ (partOf t p).order.loads = [] ∧
      (∀ g ∈ (scriptOf s p slot).granules, NotRetired s.mem g → tget 0 t.mem.owner g = 0) ∧
      t = { s with queues := t.queues, parts := t.parts, mem := t.mem, coh := t.coh } := by
  obtain ⟨-, -, hfin, -⟩ := dueCmd_facts h.due
  have hused : (scriptOf (unloadJoined s q c p slot) p slot).used = true := by
    obtain ⟨-, hused, -⟩ := namedScript_some hn
    rw [scriptOf_unloadJoined, ← hp]
    exact hused
  obtain ⟨m, k, hunload, howner⟩ := unloadScript_used hused
  have hloads : (partOf (unloadJoined s q c p slot) p).order.loads = [(q, c.idx)] := by rw [order_unloadJoined]
  have hcmd := cmdOf_unloadJoined (p := p) (slot := slot) h
  have hdone := finish_unloaded (c := { c with stage := 1 }) hunload hloads hcmd hfin
  have hnone : ¬ ∃ r ∈ (partOf s p).order.runs, r.slot = slot := fun ⟨r, hmem, he⟩ => hr r hmem he
  refine ⟨unloadDone (unloadJoined s q c p slot) m k q { c with stage := 1 } p slot, (exec_playUnload_turn h hp hn hl hf).trans ?_, ?_⟩
  · rw [if_neg (mt any_slot_iff.1 hnone)]
    exact congrArg Host.Outcome.next hdone
  · rw [scriptOf_unloadDone, scriptOf_unloadJoined]
    refine ⟨rfl, rfl, cmdOf_unloadDone hcmd, fun j hj => ?_, loads_unloadDone, fun g hg hr => howner g ?_ hr,
      only_queues_parts_mem_coh unloadDone_joined_only⟩
    · rw [scriptOf_unloadDone_ne hj, scriptOf_unloadJoined_ne hj]
    · rw [scriptOf_unloadJoined]; exact hg

end
end
end Sys2Proof.Machine
end

section
open Sys2Proof Sys2Proof.Machine

/-- Settles O40: a PLAY_RUN by whether its handle names a script; a PLAY_UNLOAD by whether a run of its script is left, for which it
waits by the model's choice of log 115. -/
theorem runsAndUnloadsFollowTheHandle : Obligations.RunsAndUnloadsFollowTheHandle := by
  unfold Obligations.RunsAndUnloadsFollowTheHandle
  refine ⟨fun s q c h => ⟨exec_playRun_none h, fun slot hn => playRun_joins h hn⟩, ?unload⟩
  intro s q c slot h x p hn hl hf
  refine ⟨fun hr => ?takesEffect, fun hr => ?waits⟩
  case takesEffect => exact playUnload_takesEffect h rfl hn hl hf hr
  case waits => exact playUnload_waits h rfl hn hl hf hr
end

section
/-! SUPPORT. Work lists taken (R52, R155, R168, R187, R197, R334): the start that a unit takes, and the states in which only that
unit differs. -/

namespace Sys2Proof.Machine

section
variable {s v : State} {t u : Nat} {st : Start} {rest : List Start} {x : EngUnit}

/-! ### Only one unit differs -/

/-- Only unit `u` of tile `t`, and vector engines, differ; the unit is `x`. -/
def OnlyUnit (s v : State) (t u : Nat) (x : EngUnit) : Prop :=
  unitOf v t u = x ∧ (∀ t' u', 28 * t' + u' ≠ 28 * t + u → unitOf v t' u' = unitOf s t' u') ∧
  v = { s with eng := { s.eng with units := v.eng.units, vxe := v.eng.vxe } }

theorem OnlyUnit.of_modUnit (s : State) (t u : Nat) (f : EngUnit → EngUnit) : OnlyUnit s (modUnit s t u f) t u (f (unitOf s t u)) :=
  ⟨unitOf_modUnit s t u f, fun _ _ h => unitOf_modUnit_ne s f h, rfl⟩

theorem OnlyUnit.modUnit (h : OnlyUnit s v t u x) (f : EngUnit → EngUnit) : OnlyUnit s (modUnit v t u f) t u (f x) := by
  obtain ⟨hx, hne, hv⟩ := h
  refine ⟨by rw [unitOf_modUnit, hx], fun t' u' h => (unitOf_modUnit_ne v f h).trans (hne t' u' h), ?_⟩
  rw [hv]; rfl

theorem OnlyUnit.modVxe (h : OnlyUnit s v t u x) (t' m : Nat) (f : Vxe → Vxe) : OnlyUnit s (modVxe v t' m f) t u x := by
  obtain ⟨hx, hne, hv⟩ := h
  refine ⟨hx, hne, ?_⟩
  rw [hv]; rfl

/-! ### The start taken -/

/-- The unit has no list in progress, no fault stopped it, and `st` is the oldest of its waiting starts. -/
structure StartDue (s : State) (t u : Nat) (st : Start) (rest : List Start) : Prop where
  idle : (unitOf s t u).cur = none
  waits : (unitOf s t u).waiting = st :: rest
  sound : (unitOf s t u).broken = false

/-- The state in which the unit has taken a start: context and record count as word 0 of the header gives them (R155). -/
def listTaken (s : State) (t u : Nat) (st : Start) (rest : List Start) : State :=
  modUnit s t u (fun _ => { waiting := rest, cur := some st, ctx := bits (tileWord s t st.desc) 59 48
                            count := bits (tileWord s t st.desc) 47 40 })

theorem takeStart_due (h : StartDue s t u st rest) :
    takeStart s t u = some (st, tileWord s t st.desc, listTaken s t u st rest) := by
  simp only [takeStart, h.idle, h.waits, h.sound, Bool.false_and, listTaken]

variable (s t u st rest) in
theorem listTaken_only : OnlyUnit s (listTaken s t u st rest) t u
    { waiting := rest, cur := some st, ctx := bits (tileWord s t st.desc) 59 48, count := bits (tileWord s t st.desc) 47 40 } :=
  .of_modUnit s t u _

/-- The test that the rows make of a record count fails in its range. -/
theorem count_inRange {n most : Nat} (h1 : 1 ≤ n) (h2 : n ≤ most) : ¬ (decide (n = 0) || decide (n > most)) = true := by
  rw [Bool.or_eq_true, decide_eq_true_eq, decide_eq_true_eq]
  omega

/-! ### The rows -/

/-- The test by which a row passes over a tile that does not run, or an engine that the tile lacks. -/
theorem engineRuns_test {n : Nat} (hr : tileRuns s t = true) (hu : u < n) : ¬ (!tileRuns s t || decide (u ≥ n)) = true := by
  rw [hr, Bool.not_true, Bool.false_or, decide_eq_true_eq]
  exact Nat.not_le.2 hu

section
variable (hr : tileRuns s t = true) (h1 : 1 ≤ bits (tileWord s t st.desc) 47 40)
include hr h1

theorem exec_mxeWorkList (hu : u < 4) (h : StartDue s t u st rest) (h2 : bits (tileWord s t st.desc) 47 40 ≤ 64) :
    exec (.mxeWorkList t u) s =
      .next (modUnit (listTaken s t u st rest) t u (fun x => { x with legacy := bit (tileWord s t st.desc) 39 })) := by
  show execMxeWorkList t u s = _
  rw [execMxeWorkList, if_neg (engineRuns_test hr hu), takeStart_due h]
  exact congrArg Host.Outcome.next (if_neg (count_inRange h1 h2))

theorem exec_vxeWorkList (hu : u < 4) (h : StartDue s t (4 + u) st rest) (h2 : bits (tileWord s t st.desc) 47 40 ≤ 128) :
    exec (.vxeWorkList t u) s =
      .next (modVxe (modUnit (listTaken s t (4 + u) st rest) t (4 + u)
        (fun x => { x with legacy := bit (tileWord s t st.desc) 39, seed := tileWord s t (st.desc + 8) })) t u (fun _ => {})) := by
  show execVxeWorkList t u s = _
  rw [execVxeWorkList, if_neg (engineRuns_test hr hu), takeStart_due h]
  exact congrArg Host.Outcome.next (if_neg (count_inRange h1 h2))

theorem exec_gpWorkList (hu : u < 16) (h : StartDue s t (8 + u) st rest) (h2 : bits (tileWord s t st.desc) 47 40 ≤ 16) :
    exec (.gpWorkList t u) s =
      .next (modUnit (listTaken s t (8 + u) st rest) t (8 + u)
        (fun x => { x with legacy := bit (tileWord s t st.desc) 39, debug := bit (tileWord s t st.desc) 38 })) := by
  show execGpWorkList t u s = _
  rw [execGpWorkList, if_neg (engineRuns_test hr hu), takeStart_due h]
  exact congrArg Host.Outcome.next (if_neg (count_inRange h1 h2))

theorem exec_moverWorkList (h : StartDue s t (24 + u) st rest) (h2 : bits (tileWord s t st.desc) 47 40 ≤ 64) :
    exec (.moverWorkList t u) s = .next (listTaken s t (24 + u) st rest) := by
  show execMoverWorkList t u s = _
  rw [execMoverWorkList, hr, if_neg (by decide), takeStart_due h]
  exact congrArg Host.Outcome.next (if_neg (count_inRange h1 h2))

end
end
end Sys2Proof.Machine
end

section
/-! SUPPORT. Faults of an engine unit (R158, R169, R191, R201, R330, R332, R336): what the health event of a record error leaves as it
is, the unit whose list stops, and the context that is lost. -/

namespace Sys2Proof.Machine

/-- Only what a health event touches differs: host ports, cores, the health record and the last events of the dies (R377, R492). -/
def OnlyHealth (s t : State) : Prop := ∃ ps cs m w, t = { s with ports := ps, cores := cs, mgmt := m, pow := w }

section
variable {s t u : State}

theorem OnlyHealth.refl (s : State) : OnlyHealth s s := ⟨s.ports, s.cores, s.mgmt, s.pow, rfl⟩

theorem OnlyHealth.trans (h : OnlyHealth s t) (h' : OnlyHealth t u) : OnlyHealth s u := by
  obtain ⟨ps, cs, m, w, rfl⟩ := h
  obtain ⟨ps', cs', m', w', rfl⟩ := h'
  exact ⟨ps', cs', m', w', rfl⟩

theorem OnlyHealth.foldl {α : Type} {f : State → α → State} (hf : ∀ t a, OnlyHealth t (f t a)) (l : List α) (s : State) :
    OnlyHealth s (l.foldl f s) :=
  foldl_keeps (P := OnlyHealth s) (fun t a h => h.trans (hf t a)) l s (.refl s)

theorem OnlyHealth.of_port (s : State) (p : Nat) (x : Port) : OnlyHealth s (setPort s p x) := ⟨_, s.cores, s.mgmt, s.pow, rfl⟩

theorem OnlyHealth.of_mgmt (s : State) (m : Mgmt) : OnlyHealth s { s with mgmt := m } := ⟨s.ports, s.cores, m, s.pow, rfl⟩

theorem OnlyHealth.eng (h : OnlyHealth s t) : t.eng = s.eng := by obtain ⟨_, _, _, _, rfl⟩ := h; rfl

theorem OnlyHealth.mem (h : OnlyHealth s t) : t.mem = s.mem := by obtain ⟨_, _, _, _, rfl⟩ := h; rfl

theorem OnlyHealth.ctxs (h : OnlyHealth s t) : t.ctxs = s.ctxs := by obtain ⟨_, _, _, _, rfl⟩ := h; rfl

end

section
variable (s : State)

/-! ### Health events -/

theorem postOne_onlyHealth (p : Nat) (x : Tlp) : OnlyHealth s (postOne s p x) := by
  unfold postOne
  extract_lets y x'
  split
  · exact .refl s
  · split
    · exact .of_port s p _
    · exact .of_port s p _

theorem raiseVector_onlyHealth (p v : Nat) : OnlyHealth s (raiseVector s p v) := by
  unfold raiseVector
  extract_lets x e mv s1
  split
  · exact .of_port s p _
  · split
    · exact .of_port s p _
    · exact (postOne_onlyHealth s p _).trans (.of_port _ p _)

theorem setIpend_onlyHealth (c b : Nat) : OnlyHealth s (setIpend s c b) := ⟨s.ports, _, s.mgmt, s.pow, rfl⟩

theorem healthChanged_onlyHealth (parts : List Nat) : OnlyHealth s (healthChanged s parts) := by
  unfold healthChanged
  extract_lets m s1 s2
  have h1 : OnlyHealth s s1 := .of_mgmt s _
  have h2 : OnlyHealth s1 s2 := by
    refine .foldl (fun t p => ?_) [0, 1] s1
    extract_lets ctl
    split
    · exact raiseVector_onlyHealth t p _
    · exact .refl t
  exact h1.trans (h2.trans (.foldl (fun t c => setIpend_onlyHealth t c 15) _ s2))

theorem addEvent_onlyHealth (code die : Nat) (detail : List Nat) : OnlyHealth s (addEvent s code die detail) := by
  unfold addEvent
  extract_lets parts s1 m s2
  have h : OnlyHealth s s2 := (healthChanged_onlyHealth s parts).trans (.of_mgmt s1 _)
  split
  · exact h.trans ⟨s2.ports, s2.cores, s2.mgmt, _, rfl⟩
  · exact h

/-! ### Contexts lost -/

variable {c : Nat} {r : FaultRecord}

variable (c r) in
theorem raise_only : ∃ cs, raise s c r = { s with ctxs := cs } := by
  unfold raise
  extract_lets x
  split
  · exact ⟨s.ctxs, rfl⟩
  split
  · exact ⟨_, rfl⟩
  split
  · exact ⟨_, rfl⟩
  split
  · exact ⟨s.ctxs, rfl⟩
  · exact ⟨_, rfl⟩

variable (c r) in
theorem raise_eng : (raise s c r).eng = s.eng := by obtain ⟨_, e⟩ := raise_only s c r; rw [e]

variable (c r) in
theorem raise_mem : (raise s c r).mem = s.mem := by obtain ⟨_, e⟩ := raise_only s c r; rw [e]

variable {s} in
/-- The first fault of a live context is its recorded fault (R332). -/
theorem fault_raise (hc : c ≠ 0) (hl : (ctxOf s c).st = .live) (hf : (ctxOf s c).fault = none) :
    (ctxOf (raise s c r) c).fault = some r := by
  have hlive : ¬ (decide (c = 0) || (ctxOf s c).st != .live) = true := by
    rw [hl, decide_eq_false hc]; decide
  simp only [raise, if_neg hlive, hf, ctxOf_setCtx]

/-! ### The unit of a record error -/

variable {t u : Nat}

theorem unitOf_haltList (t u : Nat) : unitOf (haltList s t u) t u =
    { waiting := (unitOf s t u).waiting, ctx := (unitOf s t u).ctx, broken := true } := unitOf_modUnit s t u _

theorem gpOf_haltList (t u t' g : Nat) : gpOf (haltList s t u) t' g = gpOf s t' g := rfl

theorem unitOf_recordError (t u i : Nat) : unitOf (recordError s t u i) t u =
    { waiting := (unitOf s t u).waiting, ctx := (unitOf s t u).ctx, broken := true } := by
  rw [unitOf, recordError, (addEvent_onlyHealth _ _ _ _).eng, engineFault]
  exact (unitOf_haltList _ t u).trans (by rw [unitOf, raise_eng]; rfl)

theorem gpOf_recordError (t u i t' g : Nat) : gpOf (recordError s t u i) t' g = gpOf s t' g := by
  rw [gpOf, recordError, (addEvent_onlyHealth _ _ _ _).eng, engineFault]
  exact (gpOf_haltList _ t u t' g).trans (by rw [gpOf, raise_eng]; rfl)

theorem mem_recordError (t u i : Nat) : (recordError s t u i).mem = s.mem := by
  rw [recordError, (addEvent_onlyHealth _ _ _ _).mem, engineFault]
  exact raise_mem s _ _

variable {s} in
/-- The context of the list is lost with INSTRUCTION_TRAP, cause RECORD, by the unit's agent (R158, R332). -/
theorem fault_recordError (i : Nat) (hc : (unitOf s t u).ctx ≠ 0) (hl : (ctxOf s (unitOf s t u).ctx).st = .live)
    (hf : (ctxOf s (unitOf s t u).ctx).fault = none) :
    (ctxOf (recordError s t u i) (unitOf s t u).ctx).fault.map (fun f => (f.status, f.cause, f.agent)) =
      some (stTrap, 0x10, 28 * t + u) := by
  rw [ctxOf, recordError, (addEvent_onlyHealth _ _ _ _).ctxs, engineFault]
  exact congrArg (Option.map _) (fault_raise hc hl hf)

end
end Sys2Proof.Machine
end

section
/-! SUPPORT. Lists of consecutive keys and numbers: how long they are, and what stands at each place. -/

namespace Sys2Proof.Machine

theorem length_tgetN {α : Type} (d : α) (tb : Table α) (k n : Nat) : (tgetN d tb k n).length = n := by
  induction n generalizing k with
  | zero => rfl
  | succ n ih => rw [tgetN, List.length_cons, ih]

theorem getD_tgetN {α : Type} (d : α) (tb : Table α) (k : Nat) {n i : Nat} (h : i < n) : (tgetN d tb k n).getD i d = tget d tb (k + i) := by
  induction n generalizing k i with
  | zero => cases h
  | succ n ih =>
    cases i with
    | zero => rfl
    | succ i => rw [tgetN, List.getD_cons_succ, ih (k + 1) (Nat.lt_of_succ_lt_succ h), Nat.add_assoc, Nat.add_comm 1]

theorem length_upFrom (k n : Nat) : (upFrom k n).length = n := by
  induction n generalizing k with
  | zero => rfl
  | succ n ih => rw [upFrom, List.length_cons, ih]

/-- Every position of a list of equal values, one for each number, holds that value. -/
theorem getD_map_upFrom_const {α : Type} (x d : α) {n i : Nat} (h : i < n) : ((upFrom 0 n).map (fun _ => x)).getD i d = x := by
  rw [List.map_const', length_upFrom, List.getD_eq_getElem?_getD, List.getElem?_replicate, if_pos h, Option.getD_some]

end Sys2Proof.Machine
end

section
/-! SUPPORT. Blocks released (R199–R201): the group processor on which a block begins, its local memory and L1, and the row for a cluster of
one and for a record in error. -/

namespace Sys2Proof.Machine

section
variable {s : State} {t g : Nat} {ws : List W64}

/-! ### The group processor of a new block -/

variable (s t g ws)

theorem gpOf_releaseBlock : gpOf (releaseBlock s t g ws) t g =
    { running := true, blk := blockOf ws, lead := (gpOf s t g).lead
      mem := tputN 0 [] 0 (tileBytes s t (bits (wordAt ws 3) 63 32) (bits (wordAt ws 3) 31 16))
      threads := tputN {} [] 0 ((upFrom 0 (blockOf ws).threads).map (fun _ => ({ pc := bits (wordAt ws 1) 63 32 } : Thread))) } :=
  gpOf_modGp s t g _

theorem gpOf_releaseBlock_ne {t' g' : Nat} (h : 16 * t' + g' ≠ 16 * t + g) : gpOf (releaseBlock s t g ws) t' g' = gpOf s t' g' :=
  gpOf_modGp_ne s _ h

theorem l1Of_releaseBlock : l1Of (releaseBlock s t g ws) (16 * t + g) = [] := by
  refine (tget_erase [] s.coh.l1 _ _).trans (if_pos rfl)

theorem releaseBlock_only : releaseBlock s t g ws =
    { s with eng := { s.eng with gp := (releaseBlock s t g ws).eng.gp }
             coh := { s.coh with l1 := (releaseBlock s t g ws).coh.l1, waiters := (releaseBlock s t g ws).coh.waiters } } := rfl

/-- Every thread of a new block stands at ENTRY with its registers and predicates 0 (R200). -/
theorem threadAt_releaseBlock {n : Nat} (h : n < (blockOf ws).threads) :
    threadAt (gpOf (releaseBlock s t g ws) t g) n = { pc := bits (wordAt ws 1) 63 32 } := by
  rw [gpOf_releaseBlock, threadAt, tget_putN, List.length_map, length_upFrom, if_pos ⟨Nat.zero_le n, by omega⟩]
  exact getD_map_upFrom_const _ _ h

/-- The argument bytes begin the local memory of a new block; the rest of it reads 0 (R200). -/
theorem localByte_releaseBlock (a : Nat) : tget 0 (gpOf (releaseBlock s t g ws) t g).mem a =
    if a < bits (wordAt ws 3) 31 16 then tget 0 s.mem.cells (tileBase s t + bits (wordAt ws 3) 63 32 + a) else 0 := by
  rw [gpOf_releaseBlock, tget_putN, tileBytes, length_tgetN, Nat.zero_add]
  by_cases h : a < bits (wordAt ws 3) 31 16
  · rw [if_pos ⟨Nat.zero_le a, h⟩, if_pos h]
    exact getD_tgetN 0 _ _ h
  · rw [if_neg (fun hb => h hb.2), if_neg h]
    rfl

variable {s t g ws}

/-! ### The rows -/

theorem exec_blockRelease_one (hr : tileRuns s t = true) (hg : g < 16) (hd : blockDue s t g = some ws) (he : blockError ws = false)
    (hc : (blockOf ws).cluster = 1) : exec (.blockRelease t g) s = .next (releaseBlock s t g ws) := by
  show execBlockRelease t g s = _
  rw [execBlockRelease, if_neg (engineRuns_test hr hg)]
  simp only [hd, he, Bool.false_eq_true, if_false, hc, if_true]

theorem exec_blockRelease_error (hr : tileRuns s t = true) (hg : g < 16) (hd : blockDue s t g = some ws) (he : blockError ws = true) :
    exec (.blockRelease t g) s = .next (recordError s t (8 + g) (unitOf s t (8 + g)).recNo) := by
  show execBlockRelease t g s = _
  rw [execBlockRelease, if_neg (engineRuns_test hr hg)]
  simp only [hd, he, if_true]

end
end Sys2Proof.Machine
end

section
open Sys2Proof Sys2Proof.Machine

/-- Settles O18: each row of a work list by its equation for a due start, the vector engine's with its registers cleared; a block of a
cluster of one by whether its record is in error. -/
theorem workListsAreTakenInOrder : Obligations.WorkListsAreTakenInOrder := by
  unfold Obligations.WorkListsAreTakenInOrder
  refine ⟨?lists, ?begins, ?errs⟩
  case lists =>
    intro takes no leg t u
    refine ⟨fun hu => ?mxe, fun hu => ?vxe, fun hu => ?gp, fun hu => ?mover⟩
    all_goals intro s st rest hr hcur hw hb h1 h2
    case mxe =>
      obtain ⟨hx, hne, hv⟩ := (listTaken_only s t u st rest).modUnit fun x => { x with legacy := bit (tileWord s t st.desc) 39 }
      exact ⟨_, exec_mxeWorkList hr h1 hu ⟨hcur, hw, hb⟩ h2, hx, hne, hv, nofun, fun _ => rfl⟩
    case vxe =>
      obtain ⟨hx, hne, hv⟩ := ((listTaken_only s t (4 + u) st rest).modUnit
        fun x => { x with legacy := bit (tileWord s t st.desc) 39, seed := tileWord s t (st.desc + 8) }).modVxe t u fun _ => {}
      refine ⟨_, exec_vxeWorkList hr h1 hu ⟨hcur, hw, hb⟩ h2, hx, hne, hv, fun t' m _ _ _ he => ?_, nofun⟩
      rw [vxeOf, show 4 * t' + m = 4 * t + u by omega]
      exact vxeOf_modVxe _ t u _
    case gp =>
      obtain ⟨hx, hne, hv⟩ := (listTaken_only s t (8 + u) st rest).modUnit
        fun x => { x with legacy := bit (tileWord s t st.desc) 39, debug := bit (tileWord s t st.desc) 38 }
      exact ⟨_, exec_gpWorkList hr h1 hu ⟨hcur, hw, hb⟩ h2, hx, hne, hv, nofun, fun _ => rfl⟩
    case mover =>
      obtain ⟨hx, hne, hv⟩ := listTaken_only s t (24 + u) st rest
      exact ⟨_, exec_moverWorkList hr h1 ⟨hcur, hw, hb⟩ h2, hx, hne, hv, nofun, fun _ => rfl⟩
  case begins =>
    intro s t g ws hr hg hd he hc
    refine ⟨_, exec_blockRelease_one hr hg hd he hc, ?_, ?_, fun n hn => threadAt_releaseBlock s t g ws hn, localByte_releaseBlock s t g ws,
      l1Of_releaseBlock s t g ws, fun t' g' h => gpOf_releaseBlock_ne s t g ws h, releaseBlock_only s t g ws⟩
    · rw [gpOf_releaseBlock]
    · rw [gpOf_releaseBlock]
  case errs =>
    intro s t g ws hr hg hd he
    refine ⟨_, exec_blockRelease_error hr hg hd he, ?_, gpOf_recordError s _ _ _ t g, mem_recordError s _ _ _, fun hc hl hf => ?_⟩
    · rw [unitOf_recordError]
    · rw [fault_recordError _ hc hl hf, Nat.add_assoc]; rfl
end

section
/-! SUPPORT. The elementwise rows of the vector engines (R174, R175, R188, R189): what a due record puts out and where the list goes on. -/

namespace Sys2Proof.Machine

section
variable {s s1 : State} {t u code : Nat} {w : VWork}

/-- A due record whose work goes through puts the list on (R189). -/
theorem vecRow_due {body : State → Nat → Nat → VWork → VDone} (h : VecDue s t u code w) (hc : code ∈ vecOps) (hb : body s t u w = .ok s1) :
    vecRow code body t u s = .next (vecNext s1 t u w) := by
  obtain rfl := h.op
  have hknown : vecOps.contains w.r.op = true := List.contains_iff_mem.2 hc
  simp only [vecRow, h.cur, if_neg (engineRuns_test h.runs h.unit), hknown, h.sound, hb, Bool.not_true, Bool.false_eq_true, if_false, ne_eq,
    not_true_eq_false]

theorem mem_vecOps_of_elem (h : code ∈ vecElemOps) : code ∈ vecOps := by
  simp only [vecOps, List.append_assoc, List.mem_append]
  exact .inl h

theorem vecElemOps_ne_maskLoad (h : code ∈ vecElemOps) : code ≠ opMaskLoad := by
  rintro rfl
  exact absurd h (by decide)

/-- Only CMP and MASK_LOAD write a mask register (R188). -/
theorem toMask_elem {r : VRec} (h : r.op ∈ vecElemOps) (hc : r.op ≠ 0x20) : r.toMask = false := by
  rw [VRec.toMask, beq_false_of_ne (vecElemOps_ne_maskLoad h), beq_false_of_ne hc, Bool.or_self, Bool.false_and]

theorem toMask_cmp {r : VRec} (h : r.op = 0x20) : r.toMask = r.maskWr := by
  rw [VRec.toMask, h, beq_self_eq_true, Bool.or_true, Bool.true_and]

/-! ### The values -/

/-- Working value of input `i` at a position; an input that the operation does not read counts as zero. -/
def inputVal (s : State) (t : Nat) (w : VWork) (i e : Nat) : Val :=
  if i < vecInputs w.r.op then slotVal s t w i (operandBlock s t w.x i) e else vzero false

theorem elemResult_rounded (hc : w.r.op ≠ 0x20) (e : Nat) : elemResult s t w e =
    rnd w.r.wide (vecFn w.r.op w.r.wide (immVal w.r.wide w.r.imm0) (immVal w.r.wide w.r.imm1)
      (inputVal s t w 0 e) (inputVal s t w 1 e) (inputVal s t w 2 e) (vmaskGet w.v w.r.mask e)) := if_neg hc

/-- What CMP tells of an element (R175). -/
def compares (s : State) (t : Nat) (w : VWork) (e : Nat) : Bool :=
  cmpHolds w.r.imm0 (slotVal s t w 0 (operandBlock s t w.x 0) e) (slotVal s t w 1 (operandBlock s t w.x 1) e)

theorem elemResult_cmp (hc : w.r.op = 0x20) (e : Nat) : elemResult s t w e = if compares s t w e then .fin false 1 0 else vzero false := by
  have hin {i : Nat} (hi : i < 2) : inputVal s t w i e = slotVal s t w i (operandBlock s t w.x i) e := if_pos (by rw [hc]; exact hi)
  calc elemResult s t w e
    _ = if cmpHolds w.r.imm0 (inputVal s t w 0 e) (inputVal s t w 1 e) then .fin false 1 0 else vzero false := if_pos hc
    _ = if compares s t w e then .fin false 1 0 else vzero false := by rw [hin (by decide), hin (by decide), compares]

/-- The test for 1 gives back the truth that a 1 or 0 stands for. -/
theorem isOne_truth (b : Bool) : decide ((if b then .fin false 1 0 else vzero false) = Val.fin false 1 0) = b := by
  cases b <;> decide

/-! ### The rows -/

theorem vecElem_rounded (h : w.r.op ∈ vecElemOps) (hc : w.r.op ≠ 0x20) : vecElem s t u w =
    .ok (putOut s t u w 3 ((w.elems.filter (fun e => decide (w.r.op = 0x0C) || w.keep e)).map (fun e => (e, elemResult s t w e)))) :=
  congrArg VDone.ok (if_neg (by rw [toMask_elem h hc]; exact Bool.false_ne_true))

theorem vecElem_cmp (h : w.r.op = 0x20) : vecElem s t u w =
    .ok (if w.r.maskWr then putMask s t u w ((w.elems.filter w.keep).map (fun e => (e, compares s t w e)))
      else putOut s t u w 3 ((w.elems.filter w.keep).map (fun e => (e, if compares s t w e then .fin false 1 0 else vzero false)))) := by
  have hkeep : (fun e => w.r.op == 0x0C || w.keep e) = w.keep := by rw [h]; rfl
  simp only [vecElem, toMask_cmp h, hkeep, elemResult_cmp h, List.map_map, Function.comp_def, isOne_truth]

/-- The row of an elementwise operation other than CMP, on a record that is due. -/
theorem elemRow_rounded (h : VecDue s t u code w) (hm : code ∈ vecElemOps) (hc : code ≠ 0x20) : vecRow code vecElem t u s =
    .next (vecNext (putOut s t u w 3 ((w.elems.filter (fun e => decide (code = 0x0C) || w.keep e)).map (fun e => (e, elemResult s t w e)))) t u w) := by
  obtain rfl := h.op
  exact vecRow_due h (mem_vecOps_of_elem hm) (vecElem_rounded hm hc)

theorem exec_vectorCmp (h : VecDue s t u 0x20 w) : exec (.vectorCmp t u) s = .next (vecNext (
    if w.r.maskWr then putMask s t u w ((w.elems.filter w.keep).map (fun e => (e, compares s t w e)))
    else putOut s t u w 3 ((w.elems.filter w.keep).map (fun e => (e, if compares s t w e then .fin false 1 0 else vzero false)))) t u w) :=
  vecRow_due h (by decide) (vecElem_cmp h.op)

end
end Sys2Proof.Machine
end

section
/-! SUPPORT. Frame of the vector engines' outputs (R171, R174, R189): registers, elements in the tile store, masks, and the place in the
list. -/

namespace Sys2Proof.Machine

variable (s : State) (t u : Nat) (w : VWork)

/-! ### Registers and masks -/

theorem masks_vregPut (v : Vxe) (wide : Bool) (n e : Nat) (x : W64) : (vregPut v wide n e x).masks = v.masks := by
  cases wide <;> rfl

/-- A vector engine with these elements in register `n`. -/
def vregPuts (wide : Bool) (n : Nat) (es : List (Nat × Val)) (v : Vxe) : Vxe :=
  es.foldl (fun v x => vregPut v wide n x.1 (toBits wide x.2)) v

theorem masks_vregPuts (wide : Bool) (n : Nat) (es : List (Nat × Val)) (v : Vxe) : (vregPuts wide n es v).masks = v.masks :=
  foldl_keeps (P := fun x => x.masks = v.masks) (fun x e h => (masks_vregPut x wide n e.1 _).trans h) es v rfl

theorem putOut_register {i : Nat} (h : (w.r.slot i).reg = true) (es : List (Nat × Val)) :
    putOut s t u w i es = modVxe s t u (vregPuts w.r.wide (w.r.slot i).num es) := if_pos h

theorem putMask_only (es : List (Nat × Bool)) : putMask s t u w es = { s with eng := { s.eng with vxe := (putMask s t u w es).eng.vxe } } := rfl

theorem regs_putMask (es : List (Nat × Bool)) : (vxeOf (putMask s t u w es) t u).regs = (vxeOf s t u).regs := by
  rw [putMask, vxeOf_modVxe]

/-! ### Elements in the tile store -/

theorem length_leBytes (n v : Nat) : (leBytes n v).length = n := by
  induction n generalizing v with
  | zero => rfl
  | succ n ih => rw [leBytes, List.length_cons, ih]

/-- Byte `a` lies outside the bytes that hold the `n` bits from a bit address of a tile store. -/
def OutsideBits (s : State) (t at_ n a : Nat) : Prop :=
  a < tileBase s t + at_ / 8 ∨ tileBase s t + at_ / 8 + (at_ % 8 + n + 7) / 8 ≤ a

theorem putBits_cell_outside {at_ n a : Nat} (v : Nat) (h : OutsideBits s t at_ n a) :
    tget 0 (putBits s t at_ n v).mem.cells a = tget 0 s.mem.cells a := by
  refine tget_putN_other 0 _ _ _ a ?_
  rw [length_leBytes]
  exact h

/-- Elements written one after the other into a tile store, `n` bits each. -/
def putElemBits (s : State) (t n : Nat) (at_ : Nat → Nat) (enc : Val → Nat) (es : List (Nat × Val)) : State :=
  es.foldl (fun s x => putBits s t (at_ x.1) n (enc x.2)) s

variable {n : Nat} (at_ : Nat → Nat) (enc : Val → Nat)

theorem putElemBits_only (es : List (Nat × Val)) :
    putElemBits s t n at_ enc es = { s with mem := { s.mem with cells := (putElemBits s t n at_ enc es).mem.cells } } :=
  foldl_keeps (P := fun v : State => v = { s with mem := { s.mem with cells := v.mem.cells } })
    (fun v x h => by rw [h]; rfl) es s rfl

theorem putElemBits_cell_outside {a : Nat} {es : List (Nat × Val)} (h : ∀ x ∈ es, OutsideBits s t (at_ x.1) n a) :
    tget 0 (putElemBits s t n at_ enc es).mem.cells a = tget 0 s.mem.cells a := by
  induction es generalizing s with
  | nil => rfl
  | cons x xs ih =>
    obtain ⟨hx, hxs⟩ := List.forall_mem_cons.1 h
    calc tget 0 (putElemBits (putBits s t (at_ x.1) n (enc x.2)) t n at_ enc xs).mem.cells a
      _ = tget 0 (putBits s t (at_ x.1) n (enc x.2)).mem.cells a := ih _ hxs
      _ = tget 0 s.mem.cells a := putBits_cell_outside s t _ hx

theorem putOut_unscaled {i : Nat} (hr : (w.r.slot i).reg = false) (hf : fmtScaled (w.r.fmt i) = false) (es : List (Nat × Val)) :
    putOut s t u w i es =
      putElemBits s t (fmtBits (w.r.fmt i)) (elemBit (w.r.slot i) (fmtBits (w.r.fmt i)) w.counts) (encodeElem (w.r.fmt i)) es := by
  simp only [putOut, putElems, hr, hf, Bool.false_eq_true, if_false, putElemBits]

/-! ### The place in the list -/

theorem OnlyUnit.refl : OnlyUnit s s t u (unitOf s t u) := ⟨rfl, fun _ _ _ => rfl, rfl⟩

/-- Going on to the next record changes the engine's place in its list; the starts that wait are kept. -/
theorem vecNext_onlyUnit : ∃ x, OnlyUnit s (vecNext s t u w) t (4 + u) x ∧ x.waiting = (unitOf s t (4 + u)).waiting := by
  have here := OnlyUnit.refl s t (4 + u)
  rw [vecNext]
  split
  case isTrue => exact ⟨_, here.modUnit _, rfl⟩
  split
  case isTrue => exact ⟨_, (here.modVxe t u _).modUnit _, rfl⟩
  split
  case isTrue => exact ⟨_, (here.modVxe t u _).modUnit _, rfl⟩
  case isFalse => exact ⟨_, (here.modVxe t u _).modUnit _, rfl⟩

end Sys2Proof.Machine
end

section
open Sys2Proof Sys2Proof.Machine

/-- Settles O19: every row but CMP's by the lemma about elementwise rows, with the operation's own function; the frame by where the output
lies. -/
theorem elementwiseRowsWriteOut : Obligations.ElementwiseRowsWriteOut := by
  unfold Obligations.ElementwiseRowsWriteOut
  refine ⟨?rows, ?register, ?store, ?mask, ?place⟩
  case rows =>
    intro does
    have row {r code f} (hm : code ∈ vecElemOps) (hc : code ≠ 0x20) (hr : ∀ t u s, exec (r t u) s = vecRow code vecElem t u s)
        (hf : vecFn code = f) : does r code f := by
      intro s t u w h
      subst hf
      obtain rfl := h.op
      simp only [hr, elemRow_rounded h hm hc, elemResult_rounded hc, inputVal]
    -- What a row does is settled by `row`: from here on the rows differ in their names and functions alone.
    clear_value does
    iterate 21 refine ⟨row (by decide) (by decide) (fun _ _ _ => rfl) rfl, ?_⟩
    exact fun s t u w h => exec_vectorCmp h
  case register =>
    intro s t u w i es h
    rw [putOut_register s t u w h]
    exact ⟨rfl, fun t' u' hne => vxeOf_modVxe_ne s _ hne, by rw [vxeOf_modVxe, masks_vregPuts]⟩
  case store =>
    intro s t u w i es hr hf
    rw [putOut_unscaled s t u w hr hf]
    exact ⟨putElemBits_only s t _ _ es, fun a h => putElemBits_cell_outside s t _ _ h⟩
  case mask => exact fun s t u w es => ⟨putMask_only s t u w es, regs_putMask s t u w es⟩
  case place =>
    intro s t u w
    obtain ⟨x, ⟨hx, hne, honly⟩, hwait⟩ := vecNext_onlyUnit s t u w
    exact ⟨honly, hne, by rw [hx, hwait]⟩
end
